-- ==== Sys2Proof/Word.lean ====
section
/-! DEFINITION. The words of the part: bytes of exchange memory and of frames, the tick counter, and the sets that the
manual encodes one bit per member (R174). -/

namespace Sys2Proof

/-- One byte of exchange memory, of a frame or of a record. -/
abbrev Byte := BitVec 8

/-- The 32-bit tick counter and every target computed from it, modulo 2^32 (R1). -/
abbrev Tick := BitVec 32

/-- A channel set: bit n stands for channel n, 0 to 5 (R174). -/
abbrev ChannelSet := BitVec 6

/-- A lane set: bit n stands for lane n, 0 to 3 (R174). -/
abbrev LaneSet := BitVec 4

end Sys2Proof
end

