-- ==== Sys2Proof/Config.lean ====
section
/-! DEFINITION. The constants the manual fixes for every part: sizes, bounds and reset settings. Nothing here is chosen by
the model. -/

namespace Sys2Proof.Config

/-- Exchange memory holds 16 384 bytes (R166). -/
def xmSize : Nat := 16384

/-- The configuration block occupies the first 256 bytes of exchange memory (R114, R166). -/
def configBlockSize : Nat := 256

/-- The pending list holds at most 8 entries (R123). -/
def pendingMax : Nat := 8

/-- One tick in nanoseconds: 10 us. -/
def tickNs : Nat := 10000

/-- Ticks of a millisecond: 100. -/
def ticksPerMs : Nat := 100

/-- The BBM interval after any reset, 2.0 us, in half-microseconds (R11). -/
def resetBbm : Nat := 4

/-- The trip threshold after any reset, in mA (R11). -/
def resetThreshold : Nat := 2000

/-- Current samples are clamped to this magnitude, in mA (R142). -/
def currentRange : Int := 4000

/-- VS below this level, in mV, counts toward LOW (R87). -/
def supplyLow : Nat := 6000

/-- VS above this level, in mV, counts toward GOOD (R87). -/
def supplyGood : Nat := 6500

/-- The filters of ENABLE and VS change at the fifth consecutive counting sample (R86, R87). -/
def permitSamples : Nat := 5

/-- The filter of a sense input changes at the third consecutive differing sample (R143). -/
def senseSamples : Nat := 3

/-- The code byte of a read frame (R159). -/
def readCode : Byte := 0x3C

/-- The code byte of a write frame (R159). -/
def writeCode : Byte := 0xC3

/-- The value of IDENT: vendor 0x5A, part 0x36, revision 1, 16 KiB of exchange memory (R168). -/
def ident : BitVec 32 := 0x1001365A

end Sys2Proof.Config
end

