-- ==== Sys2Proof/Syntax.lean ====
section
/-! DEFINITION. The commands: one constructor for each row of spec/opcode_table.json, with what comes from outside the part
at that step as its operands. A record's own fields are read from exchange memory and a register's value comes with the
write frame that carried it, so the rows that take those have no operand (notes/assumptions/1.md). -/

namespace Sys2Proof

/-- What the pins and the sense amplifiers present at one tick: the six channel currents in mA (R142), the ENABLE level
(R86), the drive supply VS in mV (R87) and the levels of SENSE0 to SENSE3 (R143). -/
structure PinSample where
  currents : Vector Int 6
  enable : Bool
  supply : Nat
  sense : Vector Bool 4
deriving DecidableEq, Repr

/-- An event that falls due at a tick (R1), or that the samples of a tick bring: the met current stop of a lane's segment (R31)
and the overcurrent trip of a channel (R72). -/
inductive DueEvent where
  | currentStop (l : Fin 4)
  | overcurrentTrip (c : Fin 6)
  | enableChange
  | supplyChange
  | senseChange (i : Fin 4)
  | segmentTimeout (l : Fin 4)
  | phaseEnd (l : Fin 4)
  | holdExpiry (l : Fin 4)
  | gateTimeout (g : Fin 4)
  | captureInstant (n : Fin 2)
  | delayExpiry (q : Fin 2)
deriving DecidableEq, Repr

/-- The order in which the blocks take what one tick brings, where the manual gives the outcome for either order (R42, R79, R80,
R155): the events taken first, in their order, and the current stops and trips that are left until other commands of the same
tick have been taken, a HALT or a short among them. The other current stops and trips are taken within the TICK. -/
structure TickOrder where
  first : List DueEvent
  late : List DueEvent
deriving DecidableEq, Repr

/-- The agents of the exchange-memory arbiter, in the order of R166. -/
inductive XmAgent where
  | link
  | fetch
  | loader
  | snapshot
  | posting
  | capture
deriving DecidableEq, Repr

/-- What happens at the exchange-memory arbiter before a command's own access (R166): the accesses that the fetch engine, the
pattern loader or the snapshot writer has taken since its last one, and the agents whose accesses wait together with it. -/
structure Access where
  turns : Nat
  waiting : List XmAgent
deriving DecidableEq, Repr

/-- The two registers that cannot be written (R163). -/
inductive ReadOnlyRegister where
  | ident
  | status
deriving DecidableEq, Repr

/-- The commands of the part, in the order of spec/opcode_table.json. Operands: `l` a lane, `g` a gate (gate number g + 1), `c` a
channel, `q` a completion ring, `n` a capture stream, `i` a sense input. `body` holds the complete bytes of a frame after its code
byte and `extra` the bits of an incomplete last byte (R159). A read frame may come in several commands, so that its accesses fall at
several moments: the first holds the address, each later one the bytes clocked since, and `ends` tells whether CSN has risen (R161;
notes/assumptions/18.md); a frame that does not say is whole. `turns` is the number of accesses that an agent of the fetch side has
taken before a reset (R166), 0 where none is given; `waiting` the agents whose accesses wait together with those of a row that ends
a read or a write of several accesses (R166), none where none are given; `offset` the moment inside the tick, in ns, at which a
short is detected or a command takes a channel's drive or its limits (R10, R73, R75), 0 where none is given. -/
inductive Instr where
  | tick (pins : PinSample) (order : TickOrder)
  | shortDetect (c : Fin 6) (offset : Nat)
  | enableFilterChange
  | supplyFilterChange
  | senseInputChange (i : Fin 4)
  | phaseEnd (l : Fin 4)
  | segmentTimeout (l : Fin 4)
  | holdExpiry (l : Fin 4)
  | gateTimeout (g : Fin 4)
  | coalescingDelayExpiry (q : Fin 2)
  | captureSampleInstant (n : Fin 2) (access : Access)
  | readFrame (body : List Byte) (extra : Fin 8) (access : Access) (ends : Bool := true)
  | writeFrame (body : List Byte) (extra : Fin 8)
  | writeChunk (access : Access)
  | registerWrite (reg : ReadOnlyRegister) (data : Vector Byte 4) (trailer : Byte)
  | runStart
  | runStop
  | clearErrors
  | irqEnable
  | softReset (pins : PinSample) (turns : Nat := 0)
  | postTail
  | postResume
  | postReset
  | releaseCq
  | releaseCap
  | causeClear
  | powerOnResetBegin
  | powerOnResetEnd (pins : PinSample) (csnLow : Bool)
  | pinResetBegin (turns : Nat := 0)
  | pinResetEnd (pins : PinSample) (csnLow : Bool)
  | startDrained
  | configReadComplete (waiting : List XmAgent := [])
  | sqArbitration
  | recordRead (waiting : List XmAgent := [])
  | nop
  | segment
  | halt (offset : Nat := 0)
  | bind
  | unbind (offset : Nat := 0)
  | setLimits (offset : Nat := 0)
  | setDomains
  | rearm
  | loadPattern
  | patternCopyComplete (waiting : List XmAgent := [])
  | setGate
  | captureStart
  | captureStop
  | snapshot
  | snapshotWriteComplete (waiting : List XmAgent := [])
  | waitPostAccept
  | outboxAccept
  | completionWrite (access : Access)
  | eventWrite (access : Access)
  | unknownCodeFrame (code : Byte) (body : List Byte) (extra : Fin 8)
deriving DecidableEq, Repr

end Sys2Proof
end

