-- ==== Sys2Proof/Machine/State.lean ====
section
/-! DEFINITION. The state of the part: every field the chapters give its blocks, as plain data, with the values after a
power-on reset. Fields of the model's own (the command queue and the marks that an event is due at the present tick) are
named so in their docstrings. -/

namespace Sys2Proof.Machine

/-! ### Output stage (chapter 1) -/

/-- A channel's drive code (R3). -/
inductive DriveCode where
  | off
  | high
  | low
  | pwmH
  | pwmL
  | pwmC
deriving DecidableEq, Repr

/-- A change of a channel's BBM interval during a PWM_C drive (R7): its moment, in ns from the drive's application, and the
interval before it, in half-microseconds. -/
structure BbmChange where
  moment : Nat
  before : Nat
deriving DecidableEq, Repr

/-- The channel record of the output stage (R3), with the over-count that the sense unit holds for the channel (R72). -/
structure Channel where
  /-- The present drive code. -/
  code : DriveCode
  /-- Per mille; 0 while the code is not a PWM code (R11, R139). -/
  duty : Nat
  /-- PWM period in us; 0 while the code is not a PWM code (R11, R139). -/
  period : Nat
  /-- The owning lane, or none (R8). -/
  owner : Option (Fin 4)
  /-- BBM interval in half-microseconds (R3, R7). -/
  bbm : Nat
  /-- Trip threshold in mA (R72). -/
  threshold : Nat
  /-- The over-count, 0 or 1 (R72). -/
  overCount : Bool
  /-- The changes of the BBM interval during the present PWM_C drive, the newest first: an edge keeps the interval under which it
  was decided (R7, R75). -/
  bbmChanges : List BbmChange
  /-- The tick at which the present drive was applied and its carrier restarted (R6), or, in a drive that has lasted more than
  half the tick counter's range, one a whole number of its periods later. -/
  carrierStart : Tick
  /-- The moment at which the present drive was applied, in ns after `carrierStart`: 0 for a lane request, which takes effect at
  the tick boundary (R9), later for a drive set OFF within the tick (R10). -/
  applied : Nat
  /-- A switch conducted at the moment `applied` under the drive that ended then, or under one that ended at that same moment: a
  short report of that moment stands (R74). -/
  conductedThen : Bool
  /-- How long before the moment `applied` the high switch last conducted, in ns, at most one tick (R7). -/
  highAge : Nat
  /-- How long before the moment `applied` the low switch last conducted, in ns, at most one tick (R7). -/
  lowAge : Nat
  /-- The moment, in ns after `carrierStart`, before which the high switch does not conduct: `applied`, or the end of its
  break-before-make delay, fixed when the drive was applied (R7). -/
  highWait : Nat
  /-- The moment, in ns after `carrierStart`, before which the low switch does not conduct, likewise (R7); a PWM_C drive, which turns
  the low switch on later, goes by the interval in force then. -/
  lowWait : Nat
deriving DecidableEq, Repr

/-! ### Records: segments and completions (chapters 2, 7, 10) -/

/-- A phase's code for one channel: KEEP, a drive code, or the invalid code 7 (R4). -/
inductive PhaseCode where
  | keep
  | drive (c : DriveCode)
  | invalid
deriving DecidableEq, Repr

/-- One phase (R22). -/
structure Phase where
  duration : Nat
  codes : Vector PhaseCode 6
  duty : Nat
deriving DecidableEq, Repr

/-- The identity of a consumed command record: its tag and kind byte, the SQ that carried it, the SQ head after its
consumption and the CQ that SQ targeted (R27, R105). -/
structure Origin where
  tag : BitVec 16
  kind : Byte
  sq : Fin 4
  sqHead : Nat
  cq : Fin 2
deriving DecidableEq, Repr

/-- Where a segment's phases come from (R21). -/
inductive PhaseSource where
  | inline (phases : List Phase)
  | slot (n : Fin 16)
deriving DecidableEq, Repr

/-- A segment's end action (R21). -/
inductive EndAction where
  | coast
  | hold
deriving DecidableEq, Repr

/-- The direction of a current stop (R31). -/
inductive StopDirection where
  | riseAbove
  | fallBelow
deriving DecidableEq, Repr

/-- A present current stop (R31). -/
structure CurrentStop where
  channel : Fin 6
  direction : StopDirection
  threshold : Nat
  blanking : Nat
deriving DecidableEq, Repr

/-- The edge of an input stop (R32). -/
inductive Edge where
  | rise
  | fall
  | any
deriving DecidableEq, Repr

/-- A present input stop (R32). -/
structure InputStop where
  input : Fin 4
  edge : Edge
deriving DecidableEq, Repr

/-- A validated segment with the identity of its record: a queue entry (R27). -/
structure Segment where
  origin : Origin
  gate : Option (Fin 4)
  source : PhaseSource
  repeatCount : Nat
  endAction : EndAction
  period : Nat
  timeout : Nat
  currentStop : Option CurrentStop
  inputStop : Option InputStop
deriving DecidableEq, Repr

/-- The running segment and its context (R28). -/
structure Running where
  seg : Segment
  phaseIndex : Nat
  phaseEnd : Tick
  repeatsDone : Nat
  /-- Ticks since the start tick, saturating at 2^32 - 1 (R30). -/
  elapsed : Nat
  /-- The largest magnitude seen, in mA (R30). -/
  peak : Nat
  samples : Nat
  timeoutTick : Option Tick
  /-- The model's own mark: the current stop is met on the sample of the present tick (R31, R34). -/
  stopMet : Bool
  /-- The model's own mark: the phase that ended at a boundary taken at the present tick (R34, R44). -/
  endedPhase : Option Nat
deriving DecidableEq, Repr

/-- Completion statuses (section 10.4). -/
inductive Status where
  | done
  | stoppedCurrent
  | stoppedInput
  | timedOut
  | aborted
  | tripped
  | disabled
  | gateTimeout
  | badKind
  | refusedQueue
  | notBound
  | badSegment
  | conflict
  | busy
  | badPattern
  | inUse
  | notTripped
  | lockedOut
  | badArgument
deriving DecidableEq, Repr

/-- A completion record without its phase-tag bit (R14, R123), tied to the CQ of its origin. -/
structure Completion where
  origin : Origin
  status : Status
  /-- none stands for 0xFF. -/
  lane : Option (Fin 4)
  detail : Nat
  repeats : Nat
  /-- none stands for 0xFF. -/
  lastPhase : Option Nat
  elapsed : Nat
  /-- In steps of 20 mA. -/
  peak : Nat
deriving DecidableEq, Repr

/-! ### Lanes, pattern slots, gates (chapters 1 to 4) -/

/-- The six lane states (R12). -/
inductive LaneState where
  | unbound
  | idle
  | holding
  | gated
  | running (r : Running)
  | held
deriving DecidableEq, Repr

/-- The state a GATED lane returns to when its gate gives up (R61). -/
inductive Resume where
  | idle
  | holding
deriving DecidableEq, Repr

/-- A lane context (R12). -/
structure Lane where
  state : LaneState
  owned : ChannelSet
  /-- In ms; 0 is unlimited. -/
  holdLimit : Nat
  queue : List Segment
  resume : Resume
  outbox : List Completion
  /-- none: stopped; some n: n ticks remain, and 0 means that the expiry is due at the present tick (R37). -/
  holdTimer : Option Nat
  expiryCount : Nat
deriving DecidableEq, Repr

/-- A pattern slot (R48); its phase count is the length of `phases`. -/
structure Slot where
  valid : Bool
  phases : List Phase
  useCount : Nat
deriving DecidableEq, Repr

/-- A gate record (R58). -/
structure Gate where
  members : LaneSet
  /-- In ms; 0 waits without limit. -/
  timeout : Nat
  arrivals : LaneSet
  /-- none: stopped; some n: n ticks remain, and 0 means that the expiry is due at the present tick (R63). -/
  waitTimer : Option Nat
deriving DecidableEq, Repr

/-! ### Domains and the drive permit (chapter 5) -/

/-- The three domain states (R77). -/
inductive DomainState where
  | armed
  | tripped
  | locked
deriving DecidableEq, Repr

/-- A domain record (R77). -/
structure Domain where
  members : ChannelSet
  state : DomainState
  tripCount : Nat
  tripLimit : Nat
deriving DecidableEq, Repr

/-- The permit monitor's filters (R86, R87). The permit and its cause follow from them (R88). -/
structure PermitMonitor where
  enableHigh : Bool
  enableCount : Nat
  /-- The model's own mark: the filtered ENABLE state changes at the present tick. -/
  enableDue : Bool
  supplyGood : Bool
  supplyCount : Nat
  /-- The model's own mark: the filtered supply state changes at the present tick. -/
  supplyDue : Bool
deriving DecidableEq, Repr

/-! ### Sense unit and capture streams (chapter 8) -/

/-- The filter of one sense input (R143). -/
structure SenseInput where
  high : Bool
  count : Nat
  /-- The model's own mark: the filtered state changes at the present tick. -/
  due : Bool
deriving DecidableEq, Repr

/-- Capture modes (R144). -/
inductive CaptureMode where
  | stream
  | history
deriving DecidableEq, Repr

/-- Capture stream states (R145). -/
inductive CaptureState where
  | off
  | armed
  | running
  | overrun
  | frozen
deriving DecidableEq, Repr

/-- What starts a capture stream (R144). -/
inductive Trigger where
  | immediate
  | laneStart (l : Fin 4)
deriving DecidableEq, Repr

/-- What freezes a HISTORY stream (R144). -/
inductive FreezeCondition where
  | onTrip
  | onLaneFault (l : Fin 4)
  | manual
deriving DecidableEq, Repr

/-- A capture stream record (R144). -/
structure CaptureStream where
  mode : CaptureMode
  state : CaptureState
  base : Nat
  size : Nat
  writePos : Nat
  readPos : Nat
  interval : Nat
  trigger : Trigger
  freeze : FreezeCondition
  nextInstant : Option Tick
  sequence : Nat
  dropCount : Nat
  wrapCount : Nat
deriving DecidableEq, Repr

/-! ### Submission queues, fetch engine and engine (chapter 6) -/

/-- The lane commands, by which an SQ may be blocked (R93). -/
inductive LaneKind where
  | segment
  | halt
deriving DecidableEq, Repr

/-- The states of an SQ (R94); a BLOCKED SQ holds the lane and the kind it is blocked on. -/
inductive SqState where
  | absent
  | empty
  | ready
  | blocked (l : Fin 4) (k : LaneKind)
  | faulted
deriving DecidableEq, Repr

/-- The classes of an SQ (R93). -/
inductive SqClass where
  | normal
  | urgent
deriving DecidableEq, Repr

/-- An SQ context (R93). -/
structure Sq where
  base : Nat
  size : Nat
  cls : SqClass
  weight : Nat
  target : Fin 2
  state : SqState
  head : Nat
  tail : Nat
  expected : Nat
deriving DecidableEq, Repr

/-- Engine states (R112). -/
inductive EngineState where
  | stopped
  | starting
  | running
  | stopping
  | configError
deriving DecidableEq, Repr

/-- Config error codes (R114). -/
inductive ConfigError where
  | none
  | badSignature
  | badGeometry
  | overlap
  | missingQueue
  | badTarget
deriving DecidableEq, Repr

/-- The fetch engine (R104). READING holds the chosen SQ, the bytes read so far and whether the record has been read whole
and has passed its checks; EXECUTING is a pattern copy with its staging area (R53) or a snapshot write with its picture and
the number of accesses taken (R138); WAIT_POST holds one completion (R107). -/
inductive FetchState where
  | idle
  | reading (q : Fin 4) (got : List Byte) (checked : Bool)
  | loading (slot : Fin 16) (src : Nat) (origin : Origin) (got : List Byte)
  | snapshotting (target : Nat) (origin : Origin) (picture : List Byte) (taken : Nat)
  | waitPost (c : Completion)
deriving DecidableEq, Repr

/-! ### Posting engine (chapter 7) -/

/-- A CQ context (R119). It has a geometry while its size is not 0. -/
structure Cq where
  base : Nat
  size : Nat
  coalCount : Nat
  coalDelay : Nat
  tail : Nat
  hostHead : Nat
  phaseTag : Bool
  unsignalled : Nat
  /-- none: stopped; some n: n ticks remain, and 0 means that the expiry is due at the present tick (R133). -/
  delayTimer : Option Nat
deriving DecidableEq, Repr

/-- The three parts of an occurrence's detail (R129). -/
structure EventDetail where
  first : Nat
  second : Nat
  third : Nat
deriving DecidableEq, Repr

/-- A pending entry of the event table (R127). -/
structure Occurrence where
  count : Nat
  first : Tick
  detail : EventDetail
deriving DecidableEq, Repr

/-! ### Host link, exchange memory and resets (chapter 9) -/

/-- The registers a write frame reaches (R163). -/
inductive WritableRegister where
  | control
  | post
  | release
  | cause
deriving DecidableEq, Repr

/-- A read frame (R161): the host address of its next data byte, the bytes already taken from there on (of one span or one
register, which a frame takes once), the data bytes and the bits of an incomplete last byte that it has been asked for and has not
shifted out, and what it has shifted out on MISO, bytes and bits. -/
structure OpenRead where
  addr : BitVec 16
  held : List Byte
  want : Nat
  bits : Fin 8
  sent : List Byte
  sentBits : List Bool
deriving DecidableEq, Repr

/-- What a frame still has to do, in frame order (R164): one chunk of a memory write, one register write, the count of a discarded
frame (R165), or the rest of a read frame that has ended. -/
inductive LinkEntry where
  | chunk (addr : Nat) (data : List Byte)
  | reg (r : WritableRegister) (v : BitVec 32)
  | discard
  | read (o : OpenRead)
deriving DecidableEq, Repr

/-- The causes that STATUS gives for the last reset (R171). -/
inductive ResetCause where
  | por
  | pin
  | soft
deriving DecidableEq, Repr

/-- What holds the part in reset (R171): VDD out of its range or not yet long enough in it, RESETN low, and whether the
present reset is a power-on reset. -/
structure ResetHold where
  vddLow : Bool
  resetnLow : Bool
  por : Bool
deriving DecidableEq, Repr

/-- Exchange memory: the bytes that are not 0, by offset, in rising order (R166: every byte is 0 after a power-on reset). -/
abbrev Memory := List Host.Cell

/-- The part. -/
structure State where
  /-- The model's own field: the commands that wait, first in, first out. -/
  pending : List Instr
  hold : ResetHold
  resetCause : ResetCause
  tick : Tick
  channels : Vector Channel 6
  lanes : Vector Lane 4
  slots : Vector Slot 16
  gates : Vector Gate 4
  domains : Vector Domain 3
  permit : PermitMonitor
  /-- The most recent sample of each channel, in mA (R142). -/
  lastSample : Vector Int 6
  senseInputs : Vector SenseInput 4
  /-- The model's own mark: the channels whose overcurrent trip on the sample of the present tick is not yet taken (R72, R74). -/
  tripsDue : List (Fin 6)
  streams : Vector CaptureStream 2
  engine : EngineState
  configError : ConfigError
  /-- The bytes of the configuration block read so far; none until the drain wait of START is satisfied (R113, R114). -/
  configRead : Option (List Byte)
  sqs : Vector Sq 4
  fetch : FetchState
  /-- The last URGENT SQ served (R108). -/
  urgentPointer : Fin 4
  /-- The NORMAL SQ of the present or last burst (R108). -/
  normalPointer : Fin 4
  /-- The records the present NORMAL burst may still give (R108). -/
  burstCredit : Nat
  postError : Bool
  releaseError : Bool
  cqs : Vector Cq 2
  eventCq : Option (Fin 2)
  /-- The pending list, oldest first (R123). -/
  pendingList : List Completion
  lanePointer : Fin 4
  cqTurn : Fin 2
  /-- The event table; none: the pending flag is clear (R127). -/
  events : Vector (Option Occurrence) 12
  /-- CAUSE: bit 0 CQ0, bit 1 CQ1, bit 2 ENGINE (R135). -/
  cause : BitVec 3
  /-- The IRQ enables of CONTROL, in the same order (R169). -/
  enables : BitVec 3
  linkErrors : Nat
  /-- What frames still have to do, in frame order (R164). -/
  linkQueue : List LinkEntry
  /-- The read frame in progress, with CSN low (R161). -/
  openRead : Option OpenRead
  /-- The complete bytes shifted out on MISO by the present or last frame, a read that waits being last when it is answered (R159,
  R161). -/
  miso : List Byte
  /-- The bits that followed them, of an incomplete last byte (R159). -/
  misoBits : List Bool
  /-- A frame cut by a reset has not yet ended (R173). -/
  awaitCsnRise : Bool
  xm : Memory
  /-- The agent the exchange-memory arbiter served last (R166). -/
  rotation : XmAgent
deriving DecidableEq, Repr

/-! ### Values after a reset -/

/-- A channel record after any reset (R11, R85). -/
def Channel.afterReset : Channel where
  code := .off
  duty := 0
  period := 0
  owner := none
  bbm := Config.resetBbm
  threshold := Config.resetThreshold
  overCount := false
  bbmChanges := []
  carrierStart := 0
  applied := 0
  conductedThen := false
  highAge := Config.tickNs
  lowAge := Config.tickNs
  highWait := 0
  lowWait := 0

/-- A lane context after any reset (R20). -/
def Lane.afterReset : Lane where
  state := .unbound
  owned := 0
  holdLimit := 0
  queue := []
  resume := .idle
  outbox := []
  holdTimer := none
  expiryCount := 0

/-- A pattern slot after any reset (R57). -/
def Slot.afterReset : Slot where
  valid := false
  phases := []
  useCount := 0

/-- A gate after any reset (R71). -/
def Gate.afterReset : Gate where
  members := 0
  timeout := 0
  arrivals := 0
  waitTimer := none

/-- A domain with the given members after any reset (R85). -/
def Domain.afterReset (members : ChannelSet) : Domain where
  members := members
  state := .armed
  tripCount := 0
  tripLimit := 0

/-- The permit monitor after a power-on or pin reset (R92). -/
def PermitMonitor.afterReset : PermitMonitor where
  enableHigh := false
  enableCount := 0
  enableDue := false
  supplyGood := false
  supplyCount := 0
  supplyDue := false

/-- A sense input whose level at tick 0 is LOW (R143; notes/assumptions/3.md). -/
def SenseInput.afterReset : SenseInput where
  high := false
  count := 0
  due := false

/-- A capture stream after any reset (R158). -/
def CaptureStream.afterReset : CaptureStream where
  mode := .stream
  state := .off
  base := 0
  size := 0
  writePos := 0
  readPos := 0
  interval := 1
  trigger := .immediate
  freeze := .manual
  nextInstant := none
  sequence := 0
  dropCount := 0
  wrapCount := 0

/-- An SQ context after any reset (R118). -/
def Sq.afterReset : Sq where
  base := 0
  size := 0
  cls := .normal
  weight := 0
  target := 0
  state := .absent
  head := 0
  tail := 0
  expected := 0

/-- A CQ context after any reset (R119, R141). -/
def Cq.afterReset : Cq where
  base := 0
  size := 0
  coalCount := 0
  coalDelay := 0
  tail := 0
  hostHead := 0
  phaseTag := true
  unsignalled := 0
  delayTimer := none

/-- The part right after a power-on reset at whose end ENABLE, VS and the sense inputs were low, CSN HIGH and every current 0 (R171,
R173; notes/assumptions/3.md). -/
def State.reset : State where
  pending := []
  hold := { vddLow := false, resetnLow := false, por := false }
  resetCause := .por
  tick := 0
  channels := Vector.replicate 6 Channel.afterReset
  lanes := Vector.replicate 4 Lane.afterReset
  slots := Vector.replicate 16 Slot.afterReset
  gates := Vector.replicate 4 Gate.afterReset
  domains := #v[Domain.afterReset 0x3F, Domain.afterReset 0, Domain.afterReset 0]
  permit := PermitMonitor.afterReset
  lastSample := Vector.replicate 6 0
  senseInputs := Vector.replicate 4 SenseInput.afterReset
  tripsDue := []
  streams := Vector.replicate 2 CaptureStream.afterReset
  engine := .stopped
  configError := .none
  configRead := none
  sqs := Vector.replicate 4 Sq.afterReset
  fetch := .idle
  urgentPointer := 3
  normalPointer := 3
  burstCredit := 0
  postError := false
  releaseError := false
  cqs := Vector.replicate 2 Cq.afterReset
  eventCq := none
  pendingList := []
  lanePointer := 3
  cqTurn := 1
  events := Vector.replicate 12 none
  cause := 0
  enables := 0
  linkErrors := 0
  linkQueue := []
  openRead := none
  miso := []
  misoBits := []
  awaitCsnRise := false
  xm := []
  rotation := .capture

/-! ### Outcomes -/

/-- Why a command stops with a fault: there is no such reason. The manual gives every row of the table an effect in every
state the part can be in, and reports what goes wrong by statuses, events and error flags, which are effects. -/
inductive Fault : Type
deriving DecidableEq, Repr

/-- Why a command is refused. -/
inductive Refusal where
  /-- Raised by `exec` alone, for a command that has no meaning in the model yet (safe: nothing is claimed of it). -/
  | notModelled (mnemonic : String)
deriving DecidableEq, Repr

end Sys2Proof.Machine
end

