-- ==== Sys2Proof/Machine/Ops.lean ====
section
/-! DEFINITION. The named operations over exchange memory and over the blocks' records: byte order, the CRC-8, memory reads
and writes in canonical form, the readers and updaters of each block's context, the event table, and the gate that holds
everything still while a reset lasts. -/

namespace Sys2Proof.Machine

/-! ### Bytes, byte order and the CRC-8 -/

/-- Byte i of a structure, 0 beyond its end. -/
def byteAt (r : List Byte) (i : Nat) : Nat := (r.getD i 0).toNat

/-- The 16-bit little-endian field at byte i (R174). -/
def field16 (r : List Byte) (i : Nat) : Nat := byteAt r i + 256 * byteAt r (i + 1)

/-- A number as one byte. -/
def enc8 (n : Nat) : List Byte := [BitVec.ofNat 8 n]

/-- A number as two bytes, little-endian (R174). -/
def enc16 (n : Nat) : List Byte := [BitVec.ofNat 8 n, BitVec.ofNat 8 (n / 256)]

/-- A number as four bytes, little-endian (R174). -/
def enc32 (n : Nat) : List Byte := enc16 n ++ enc16 (n / 65536)

/-- A signed current as 16-bit two's complement, little-endian (R174). -/
def encCurrent (i : Int) : List Byte := enc16 (BitVec.ofInt 16 i).toNat

/-- Four bytes as a 32-bit value, little-endian (R174). -/
def word32 (bs : List Byte) : BitVec 32 :=
  BitVec.ofNat 32 (byteAt bs 0 + 256 * byteAt bs 1 + 65536 * byteAt bs 2 + 16777216 * byteAt bs 3)

/-- One bit of the CRC-8: shift left, and combine with 0x07 when a 1 is shifted out (R100). -/
def crcBit (r : Byte) : Byte := if r.msb then (r <<< 1) ^^^ 7 else r <<< 1

/-- One byte of the CRC-8 (R100). -/
def crcByte (r b : Byte) : Byte := crcBit (crcBit (crcBit (crcBit (crcBit (crcBit (crcBit (crcBit (r ^^^ b))))))))

/-- The CRC-8 with polynomial x^8 + x^2 + x + 1 and initial value 0 (R100). -/
def crc8 (bs : List Byte) : Byte := bs.foldl crcByte 0

/-! ### Exchange memory -/

/-- The byte at an offset; an offset that is not listed holds 0 (R166), and so does one outside the memory (R161). -/
def Memory.read : Memory → Nat → Byte
  | [], _ => 0
  | (k, v) :: m, a => if k = a then v else Memory.read m a

/-- Places a byte at an offset, keeping the list in rising order and free of zeros. -/
def Memory.insert : Memory → Nat → Byte → Memory
  | [], a, b => if b = 0 then [] else [(a, b)]
  | (k, v) :: m, a, b =>
    if a < k then (if b = 0 then (k, v) :: m else (a, b) :: (k, v) :: m)
    else if a = k then (if b = 0 then m else (k, b) :: m)
    else (k, v) :: Memory.insert m a b

/-- Writes one byte; there is nothing to write outside the 16 384 bytes. -/
def Memory.write (m : Memory) (a : Nat) (b : Byte) : Memory :=
  if a < Config.xmSize then Memory.insert m a b else m

/-- Writes bytes at consecutive offsets. -/
def Memory.writeBytes : Memory → Nat → List Byte → Memory
  | m, _, [] => m
  | m, a, b :: bs => Memory.writeBytes (Memory.write m a b) (a + 1) bs

/-- Reads n bytes from consecutive offsets. -/
def Memory.readBytes (m : Memory) : Nat → Nat → List Byte
  | _, 0 => []
  | a, n + 1 => Memory.read m a :: Memory.readBytes m (a + 1) n

/-- The offsets rise strictly from `lo`, lie inside the memory, and no listed byte is 0. -/
def Memory.wfFrom : Nat → Memory → Bool
  | _, [] => true
  | lo, (k, v) :: m => decide (lo ≤ k) && decide (k < Config.xmSize) && v != 0 && Memory.wfFrom (k + 1) m

/-- The canonical form of exchange memory. -/
def Memory.wf (m : Memory) : Bool := Memory.wfFrom 0 m

/-! ### Readers and updaters of the blocks' contexts -/

/-- Channel c. -/
def State.channel (s : State) (c : Fin 6) : Channel := s.channels[c]

/-- Lane l. -/
def State.lane (s : State) (l : Fin 4) : Lane := s.lanes[l]

/-- Pattern slot n. -/
def State.slot (s : State) (n : Fin 16) : Slot := s.slots[n]

/-- The gate with index g, gate number g + 1. -/
def State.gate (s : State) (g : Fin 4) : Gate := s.gates[g]

/-- Domain d. -/
def State.domain (s : State) (d : Fin 3) : Domain := s.domains[d]

/-- Sense input i. -/
def State.senseInput (s : State) (i : Fin 4) : SenseInput := s.senseInputs[i]

/-- Capture stream n. -/
def State.stream (s : State) (n : Fin 2) : CaptureStream := s.streams[n]

/-- SQ q. -/
def State.sq (s : State) (q : Fin 4) : Sq := s.sqs[q]

/-- CQ q. -/
def State.cq (s : State) (q : Fin 2) : Cq := s.cqs[q]

/-- The event-table entry of source e. -/
def State.event (s : State) (e : Fin 12) : Option Occurrence := s.events[e]

/-- Changes every channel record by its number. -/
def State.mapChannels (s : State) (f : Fin 6 → Channel → Channel) : State :=
  { s with channels := #v[f 0 (s.channel 0), f 1 (s.channel 1), f 2 (s.channel 2), f 3 (s.channel 3), f 4 (s.channel 4),
      f 5 (s.channel 5)] }

/-- Changes one channel record. -/
def State.updChannel (s : State) (c : Fin 6) (f : Channel → Channel) : State :=
  { s with channels := s.channels.set c (f s.channels[c]) }

/-- Changes every lane context by its number. -/
def State.mapLanes (s : State) (f : Fin 4 → Lane → Lane) : State :=
  { s with lanes := #v[f 0 (s.lane 0), f 1 (s.lane 1), f 2 (s.lane 2), f 3 (s.lane 3)] }

/-- Changes one lane context. -/
def State.updLane (s : State) (l : Fin 4) (f : Lane → Lane) : State :=
  { s with lanes := s.lanes.set l (f s.lanes[l]) }

/-- Changes one pattern slot. -/
def State.updSlot (s : State) (n : Fin 16) (f : Slot → Slot) : State :=
  { s with slots := s.slots.set n (f s.slots[n]) }

/-- Changes every gate by its number. -/
def State.mapGates (s : State) (f : Fin 4 → Gate → Gate) : State :=
  { s with gates := #v[f 0 (s.gate 0), f 1 (s.gate 1), f 2 (s.gate 2), f 3 (s.gate 3)] }

/-- Changes one gate. -/
def State.updGate (s : State) (g : Fin 4) (f : Gate → Gate) : State :=
  { s with gates := s.gates.set g (f s.gates[g]) }

/-- Changes every domain by its number. -/
def State.mapDomains (s : State) (f : Fin 3 → Domain → Domain) : State :=
  { s with domains := #v[f 0 (s.domain 0), f 1 (s.domain 1), f 2 (s.domain 2)] }

/-- Changes one domain. -/
def State.updDomain (s : State) (d : Fin 3) (f : Domain → Domain) : State :=
  { s with domains := s.domains.set d (f s.domains[d]) }

/-- Changes every sense input by its number. -/
def State.mapSenseInputs (s : State) (f : Fin 4 → SenseInput → SenseInput) : State :=
  { s with senseInputs := #v[f 0 (s.senseInput 0), f 1 (s.senseInput 1), f 2 (s.senseInput 2), f 3 (s.senseInput 3)] }

/-- Changes one sense input. -/
def State.updSenseInput (s : State) (i : Fin 4) (f : SenseInput → SenseInput) : State :=
  { s with senseInputs := s.senseInputs.set i (f s.senseInputs[i]) }

/-- Changes one capture stream. -/
def State.updStream (s : State) (n : Fin 2) (f : CaptureStream → CaptureStream) : State :=
  { s with streams := s.streams.set n (f s.streams[n]) }

/-- Changes every SQ context by its number. -/
def State.mapSqs (s : State) (f : Fin 4 → Sq → Sq) : State :=
  { s with sqs := #v[f 0 (s.sq 0), f 1 (s.sq 1), f 2 (s.sq 2), f 3 (s.sq 3)] }

/-- Changes one SQ context. -/
def State.updSq (s : State) (q : Fin 4) (f : Sq → Sq) : State :=
  { s with sqs := s.sqs.set q (f s.sqs[q]) }

/-- Changes every CQ context by its number. -/
def State.mapCqs (s : State) (f : Fin 2 → Cq → Cq) : State :=
  { s with cqs := #v[f 0 (s.cq 0), f 1 (s.cq 1)] }

/-- Changes one CQ context. -/
def State.updCq (s : State) (q : Fin 2) (f : Cq → Cq) : State :=
  { s with cqs := s.cqs.set q (f s.cqs[q]) }

/-- Changes one entry of the event table. -/
def State.updEvent (s : State) (e : Fin 12) (f : Option Occurrence → Option Occurrence) : State :=
  { s with events := s.events.set e (f s.events[e]) }

/-! ### The numbers of each resource, in ascending order -/

/-- Channels 0 to 5. -/
def allChannels : List (Fin 6) := [0, 1, 2, 3, 4, 5]

/-- Lanes 0 to 3, and as many gates, SQs and sense inputs. -/
def allLanes : List (Fin 4) := [0, 1, 2, 3]

/-- Domains 0 to 2. -/
def allDomains : List (Fin 3) := [0, 1, 2]

/-- The two completion rings, and as many capture streams. -/
def allPairs : List (Fin 2) := [0, 1]

/-- The twelve event sources (R127). -/
def allSources : List (Fin 12) := [0, 1, 2, 3, 4, 5, 6, 7, 8, 9, 10, 11]

/-- A number as an index below n, if it is one. -/
def asFin (n k : Nat) : Option (Fin n) := if h : k < n then some ⟨k, h⟩ else none

/-- The lane set that holds one lane. -/
def laneBit (l : Fin 4) : LaneSet := 1#4 <<< l.val

/-! ### Shared arithmetic -/

/-- One more, saturating. -/
def satSucc (bound n : Nat) : Nat := if n < bound then n + 1 else bound

/-- Two byte ranges, each a base and a length, share a byte. -/
def rangesMeet (a b : Nat × Nat) : Bool := decide (a.1 < b.1 + b.2) && decide (b.1 < a.1 + a.2) && decide (0 < a.2) && decide (0 < b.2)

/-- One tick less of a running countdown; it stays at 0, where its expiry is due. -/
def countDown (t : Option Nat) : Option Nat := t.map (· - 1)

/-! ### The event table -/

/-- The number of the DOMAIN_TRIP source of a domain (R127). -/
def domainTripSource (d : Fin 3) : Fin 12 := ⟨d.val, by omega⟩

/-- The number of the DRIVE_PERMIT source (R127). -/
def drivePermitSource : Fin 12 := 3

/-- The number of the CAPTURE_WRAP source of a stream (R127). -/
def captureWrapSource (n : Fin 2) : Fin 12 := ⟨4 + n.val, by omega⟩

/-- The number of the CAPTURE_STATE source of a stream (R127). -/
def captureStateSource (n : Fin 2) : Fin 12 := ⟨6 + n.val, by omega⟩

/-- The number of the QUEUE_FAULT source of an SQ (R127). -/
def queueFaultSource (q : Fin 4) : Fin 12 := ⟨8 + q.val, by omega⟩

/-- An entry that takes an occurrence at a tick (R128). -/
def foldOccurrence (now : Tick) (d : EventDetail) : Option Occurrence → Option Occurrence
  | none => some { count := 1, first := now, detail := d }
  | some o => some { o with count := satSucc 255 o.count, detail := d }

/-- Hands an occurrence to the event table (R128). -/
def State.recordEvent (s : State) (e : Fin 12) (d : EventDetail) : State :=
  s.updEvent e (foldOccurrence s.tick d)

/-! ### Resets -/

/-- The part is held in reset (R171). -/
def State.inReset (s : State) : Bool := s.hold.vddLow || s.hold.resetnLow

/-- While a power-on or pin reset lasts no block acts and the link takes no frame (R171). -/
def State.unlessReset (s : State) (f : State → State) : State := if s.inReset then s else f s

end Sys2Proof.Machine
end

