-- ==== Sys2Proof/Machine/Output.lean ====
section
/-! DEFINITION. The output stage: which switches conduct under a drive (R4 to R6), break-before-make (R7), and the requests
that change a channel's drive (R9, R10). Times inside a tick are in nanoseconds from the tick at which the drive was applied; an
`offset` is the moment of an event inside the present tick (notes/assumptions/26.md). -/

namespace Sys2Proof.Machine

/-- A PWM drive code. -/
def DriveCode.isPwm : DriveCode → Bool
  | .pwmH => true
  | .pwmL => true
  | .pwmC => true
  | _ => false

/-- The code whose pin behaviour a channel has, with the duty ends taken into account (R5). -/
def Channel.behaviour (c : Channel) : DriveCode :=
  match c.code with
  | .pwmH => if c.duty = 0 then .off else if c.duty = 1000 then .high else .pwmH
  | .pwmL => if c.duty = 0 then .off else if c.duty = 1000 then .low else .pwmL
  | .pwmC => if c.duty = 0 then .low else if c.duty = 1000 then .high else .pwmC
  | code => code

/-- The PWM period in ns. -/
def Channel.periodNs (c : Channel) : Nat := c.period * 1000

/-- The on-time in ns: the period multiplied by the duty and divided by 1000 (R5). -/
def Channel.onNs (c : Channel) : Nat := c.period * c.duty

/-- The BBM interval in ns. -/
def Channel.bbmNs (c : Channel) : Nat := c.bbm * 500

/-- The interval that governs a turn-on decided at a moment u: the present one after its change, up to it the one that it
replaced. A turn-on decided at the moment of a change was decided before it (notes/assumptions/10.md). -/
def intervalAt (present : Nat) : List BbmChange → Nat → Nat
  | [], _ => present
  | x :: xs, u => if x.moment < u then present else intervalAt x.before xs u

/-- The BBM interval in ns that governs a turn-on decided u ns after the drive was applied (R7). -/
def Channel.bbmAt (c : Channel) (u : Nat) : Nat := intervalAt c.bbm c.bbmChanges u * 500

/-- The part of PWM period k in which the low switch conducts, from a start to an end (R4, R6); empty for a code that does not
modulate it. The end of the on-time decides its turn-on, with the interval in force then (R7). -/
def Channel.lowWindow (c : Channel) (k : Nat) : Nat × Nat :=
  match c.behaviour with
  | .pwmL => (0, c.onNs)
  | .pwmC =>
    let b := c.bbmAt (k * c.periodNs + c.onNs)
    if c.onNs ≤ c.bbmAt (k * c.periodNs) then (c.onNs, c.periodNs)
    else if c.periodNs - c.onNs ≤ b then (0, 0)
    else (c.onNs + b, c.periodNs)
  | _ => (0, 0)

/-- The low switch conducts at the end of the period before period k. No period of the drive comes before the first: what the earlier
drive did governs the first turn-on (R6, R7), by `highWait`. -/
def Channel.lowBefore (c : Channel) : Nat → Bool
  | 0 => false
  | k + 1 => decide ((c.lowWindow k).1 < (c.lowWindow k).2)

/-- The part of PWM period k in which the high switch conducts (R4, R6). The start of the period decides its turn-on, with the
interval in force then, and it waits only behind a low switch that conducted (R7). -/
def Channel.highWindow (c : Channel) (k : Nat) : Nat × Nat :=
  match c.behaviour with
  | .pwmH => (0, c.onNs)
  | .pwmC =>
    let b := c.bbmAt (k * c.periodNs)
    if c.onNs ≤ b then (0, 0)
    else if c.lowBefore k then (b, c.onNs)
    else (0, c.onNs)
  | _ => (0, 0)

/-- A moment lies in the window of its period. -/
def inWindow (w : Nat → Nat × Nat) (period t : Nat) : Bool :=
  decide ((w (t / period)).1 ≤ t % period) && decide (t % period < (w (t / period)).2)

/-- The high switch conducts at moment t of the drive (R4 to R7). -/
def Channel.highOn (c : Channel) (t : Nat) : Bool :=
  decide (c.highWait ≤ t) && (c.behaviour == .high || inWindow c.highWindow c.periodNs t)

/-- The moment before which the low switch does not conduct: `lowWait`, or, under PWM_C, whose low switch first turns on at the end of
the first on-time, what the interval in force then makes of the high switch's last conduction under the earlier drive (R7). -/
def Channel.lowStart (c : Channel) : Nat :=
  match c.behaviour with
  | .pwmC => c.applied + (c.bbmAt (max c.onNs c.applied) - c.highAge)
  | _ => c.lowWait

/-- The low switch conducts at moment t of the drive (R4 to R7). -/
def Channel.lowOn (c : Channel) (t : Nat) : Bool :=
  decide (c.lowStart ≤ t) && (c.behaviour == .low || inWindow c.lowWindow c.periodNs t)

/-- How long before t a switch last conducted by its windows, searched in so many periods down from period k and from the delay
`wait` on; none if it did not. -/
def lastOn (w : Nat → Nat × Nat) (wait period t : Nat) : Nat → Nat → Option Nat
  | 0, _ => none
  | n + 1, k =>
    let start := max (k * period + (w k).1) wait
    let stop := min (k * period + (w k).2) t
    if start < stop then some (t - stop)
    else
      match k with
      | 0 => none
      | k + 1 => lastOn w wait period t n k

/-- How long before t a switch last conducted under a drive: `whole` when its code holds the switch on, else by its windows in as
many periods as lie in one tick; none if it did not. -/
def sinceOn (whole : Bool) (w : Nat → Nat × Nat) (wait period t : Nat) : Option Nat :=
  if whole then (if wait < t then some 0 else none)
  else lastOn w wait period t (Config.tickNs / period + 2) (t / period)

/-- The ns since the high switch last conducted, at moment t of the present drive, at most one tick. -/
def Channel.highAgeAt (c : Channel) (t : Nat) : Nat :=
  min Config.tickNs ((sinceOn (c.behaviour == .high) c.highWindow c.highWait c.periodNs t).getD (c.highAge + (t - c.applied)))

/-- The ns since the low switch last conducted, at moment t of the present drive, at most one tick. -/
def Channel.lowAgeAt (c : Channel) (t : Nat) : Nat :=
  min Config.tickNs ((sinceOn (c.behaviour == .low) c.lowWindow c.lowStart c.periodNs t).getD (c.lowAge + (t - c.applied)))

/-- The ns from the tick of a channel's present drive to a tick. -/
def Channel.elapsedNs (c : Channel) (now : Tick) : Nat := (now - c.carrierStart).toNat * Config.tickNs

/-- The moment of the present drive at which an event inside a tick reaches the channel: not before the drive was applied. -/
def Channel.momentOf (c : Channel) (now : Tick) (offset : Nat) : Nat := max (c.elapsedNs now + offset) c.applied

/-- A switch conducts at moment t of the present drive, or conducted at that moment under a drive that ended then (R73, R74). -/
def Channel.conductingAt (c : Channel) (t : Nat) : Bool :=
  c.highOn t || c.lowOn t || (t == c.applied && c.conductedThen)

/-- Keeps the distance from a drive's application inside half the tick counter's range, however long the drive lasts: the start is
moved on by a multiple of the period in ticks, which is a whole number of PWM periods (R6). -/
def Channel.rebase (c : Channel) (now : Tick) : Channel :=
  if 2147483648 ≤ (now - c.carrierStart).toNat then
    let ticks := 1048576 * max 1 c.period
    { c with
      carrierStart := c.carrierStart + BitVec.ofNat 32 ticks
      bbmChanges := c.bbmChanges.map fun x => { x with moment := x.moment - ticks * Config.tickNs } }
  else c

/-- Applies a drive in a tick: the carrier restarts (R6), and each switch waits until the BBM interval has passed since the
opposite switch last conducted (R7). -/
def Channel.driveTo (c : Channel) (now : Tick) (code : DriveCode) (duty period : Nat) (offset : Nat := 0) : Channel :=
  let t := c.momentOf now offset
  let m := t - c.elapsedNs now
  { c with
    code := code
    duty := duty
    period := period
    bbmChanges := []
    carrierStart := now
    applied := m
    conductedThen := c.conductingAt t || c.highAgeAt t == 0 || c.lowAgeAt t == 0
    highAge := c.highAgeAt t
    lowAge := c.lowAgeAt t
    highWait := m + (c.bbmNs - c.lowAgeAt t)
    lowWait := m + (c.bbmNs - c.highAgeAt t) }

/-- A channel takes a new trip threshold and BBM interval in a tick (R75). The interval governs the turn-ons decided after that;
a PWM_C drive keeps the one that its earlier edges were decided under (R7). -/
def Channel.takeLimits (c : Channel) (now : Tick) (threshold bbm : Nat) (offset : Nat := 0) : Channel :=
  { c with
    threshold := threshold
    bbm := bbm
    bbmChanges :=
      if c.code = .pwmC then { moment := c.momentOf now offset, before := c.bbm } :: c.bbmChanges else c.bbmChanges }

/-- Sets a channel OFF; one that is OFF already needs no change (R9, R10). -/
def Channel.turnOff (c : Channel) (now : Tick) (offset : Nat := 0) : Channel :=
  if c.code = .off then c else c.driveTo now .off 0 0 offset

/-- A channel counts as driven (R72). -/
def Channel.driven (c : Channel) : Bool :=
  match c.code with
  | .off => false
  | .high => true
  | .low => true
  | .pwmC => true
  | .pwmH => decide (0 < c.duty)
  | .pwmL => decide (0 < c.duty)

/-- The permit is ON while the filtered ENABLE state is HIGH and the filtered supply state is GOOD (R88). -/
def State.permitOn (s : State) : Bool := s.permit.enableHigh && s.permit.supplyGood

/-- A channel belongs to a TRIPPED or LOCKED domain (R10). -/
def State.inTrippedDomain (s : State) (c : Fin 6) : Bool :=
  allDomains.any fun d => (s.domain d).members.getLsbD c.val && (s.domain d).state != .armed

/-- The forced-off conditions of a channel (R10). -/
def State.forcedOff (s : State) (c : Fin 6) : Bool :=
  (s.channel c).owner.isNone || s.inTrippedDomain c || !s.permitOn

/-- The code a phase gives a channel: KEEP keeps the present one (R9). -/
def Phase.codeFor (p : Phase) (c : Fin 6) (present : DriveCode) : DriveCode :=
  match p.codes[c] with
  | .keep => present
  | .drive code => code
  | .invalid => present

/-- A channel of the lane after a phase application: a forced-off channel stays OFF (R10); a channel in a PWM state takes the
phase's duty and the segment's period whether its code was set or kept; KEEP leaves any other channel as it was (R9). -/
def Channel.applyPhase (ch : Channel) (forced : Bool) (now : Tick) (c : Fin 6) (p : Phase) (period : Nat) : Channel :=
  if forced then ch.turnOff now
  else
    let code := p.codeFor c ch.code
    if code.isPwm then ch.driveTo now code p.duty period
    else if code = ch.code then ch
    else ch.driveTo now code 0 0

/-- Phase application (R9): it reaches only channels the lane owns. -/
def State.applyPhase (s : State) (l : Fin 4) (p : Phase) (period : Nat) : State :=
  s.mapChannels fun c ch => if ch.owner = some l then ch.applyPhase (s.forcedOff c) s.tick c p period else ch

/-- Every channel of a lane goes OFF (R9, R10). -/
def State.laneOff (s : State) (l : Fin 4) (offset : Nat := 0) : State :=
  s.mapChannels fun _ ch => if ch.owner = some l then ch.turnOff s.tick offset else ch

/-- Every channel of a set goes OFF (R10, R77). -/
def State.setOff (s : State) (set : ChannelSet) (offset : Nat := 0) : State :=
  s.mapChannels fun c ch => if set.getLsbD c.val then ch.turnOff s.tick offset else ch

/-- Either switch of a channel conducts at a moment of the present tick (R73). At the moment of a change of drive the earlier drive
counts too: a report of that moment is not withdrawn by the change, in whichever order the two are taken (R74). -/
def State.conducting (s : State) (c : Fin 6) (offset : Nat) : Bool :=
  (s.channel c).conductingAt ((s.channel c).elapsedNs s.tick + offset)

end Sys2Proof.Machine
end

