-- ==== Sys2Proof/Machine/Flags.lean ====
section
/-! DEFINITION. The conditions that the blocks ask one another for, and what the register window shows: readiness of a lane,
room in a ring, the drain conditions of START, the interrupt line, CONTROL and STATUS. -/

namespace Sys2Proof.Machine

/-! ### Lanes and domains -/

/-- The kind byte of SEGMENT (section 10.2). -/
def kindSegment : Byte := 0x02

/-- The kind byte of HALT (section 10.2). -/
def kindHalt : Byte := 0x03

/-- A lane's channel set meets a domain (R77). -/
def State.meetsDomain (s : State) (l : Fin 4) (d : Fin 3) : Bool := (s.lane l).owned &&& (s.domain d).members != 0

/-- Every domain that meets the lane's channel set is ARMED (R13). -/
def State.domainsArmed (s : State) (l : Fin 4) : Bool :=
  allDomains.all fun d => !s.meetsDomain l d || (s.domain d).state == .armed

/-- The lane is RUNNING. -/
def Lane.isRunning (l : Lane) : Bool :=
  match l.state with
  | .running _ => true
  | _ => false

/-- The gate of the head segment, if the queue has a head that carries one. -/
def Lane.headGate (l : Lane) : Option (Fin 4) := l.queue.head?.bind (·.gate)

/-- The lane is GATED on a gate. -/
def Lane.gatedOn (l : Lane) (g : Fin 4) : Bool := l.state == .gated && l.headGate == some g

/-- The conditions of the start test (R13), apart from a head segment. -/
def State.mayStart (s : State) (l : Fin 4) : Bool :=
  ((s.lane l).state == .idle || (s.lane l).state == .holding) && (s.lane l).outbox.isEmpty && s.permitOn && s.domainsArmed l

/-- The outbox holds a completion of kind HALT (R16). -/
def Lane.holdsHalt (l : Lane) : Bool := l.outbox.any fun c => c.origin.kind == kindHalt

/-- The lane is ready for a lane command (R16). -/
def Lane.readyFor (l : Lane) : LaneKind → Bool
  | .segment => decide (l.queue.length + l.outbox.length ≤ 3)
  | .halt => !l.holdsHalt

/-! ### Rings -/

/-- An SQ is eligible while it is READY (R94). -/
def Sq.eligible (q : Sq) : Bool := q.state == .ready

/-- A CQ has a geometry (R119). -/
def Cq.hasGeometry (q : Cq) : Bool := q.size != 0

/-- A CQ has room when its tail plus one, modulo the size, differs from its host head (R120). -/
def Cq.hasRoom (q : Cq) : Bool := (q.tail + 1) % q.size != q.hostHead

/-- A position lies in the forward range from one position of a ring of n places to another, both included (R2). -/
def inForwardRange (n lo hi p : Nat) : Bool := decide ((p + n - lo) % n ≤ (hi + n - lo) % n)

/-- A capture stream that is not OFF (R145). -/
def CaptureStream.active (c : CaptureStream) : Bool := c.state != .off

/-- The place after a write position of a capture ring: 16 bytes on, or the base again (R149). -/
def CaptureStream.nextPos (c : CaptureStream) : Nat :=
  if c.writePos + 16 = c.base + c.size then c.base else c.writePos + 16

/-- A STREAM ring has room for one more record (R150). -/
def CaptureStream.hasRoom (c : CaptureStream) : Bool := c.nextPos != c.readPos

/-- The record index of the write position (R144). -/
def CaptureStream.recordIndex (c : CaptureStream) : Nat := (c.writePos - c.base) / 16

/-- The bytes that the present SQ and CQ rings and the rings of active capture streams other than `except` occupy. -/
def State.ringRanges (s : State) (except : Option (Fin 2)) : List (Nat × Nat) :=
  ((allLanes.map fun q => ((s.sq q).base, 64 * (s.sq q).size)) ++ (allPairs.map fun q => ((s.cq q).base, 16 * (s.cq q).size))) ++
    (allPairs.filter fun n => (s.stream n).active && some n != except).map fun n => ((s.stream n).base, (s.stream n).size)

/-- A range of bytes shares a byte with the configuration block or with a ring in use (R137, R146). -/
def State.overlaps (s : State) (except : Option (Fin 2)) (r : Nat × Nat) : Bool :=
  ((0, Config.configBlockSize) :: s.ringRanges except).any (rangesMeet r)

/-! ### The engine -/

/-- The drain conditions of START (R113). -/
def State.drained (s : State) : Bool :=
  (allLanes.all fun l => !(s.lane l).isRunning && (s.lane l).state != .gated && (s.lane l).queue.isEmpty && (s.lane l).outbox.isEmpty) &&
    s.pendingList.isEmpty && s.fetch == .idle

/-- The posting engine writes into no CQ: from the moment the drain wait of START is satisfied until that START succeeds,
fails or is abandoned (R113, R126). -/
def State.postingHeld (s : State) : Bool := s.engine == .starting && (s.configRead.isSome || s.drained)

/-! ### Interrupts and registers -/

/-- IRQN is asserted while an enabled CAUSE bit is set (R136). -/
def State.irqnAsserted (s : State) : Bool := s.cause &&& s.enables != 0

/-- The cause of the permit: 0 NONE, 1 ENABLE, 2 SUPPLY, 3 BOTH (R88, R129). -/
def State.permitCause (s : State) : Nat :=
  (if s.permit.enableHigh then 0 else 1) + (if s.permit.supplyGood then 0 else 2)

/-- 1 for true. -/
def bit (b : Bool) : Nat := if b then 1 else 0

/-- The engine state's code in STATUS (section 10.8). -/
def EngineState.code : EngineState → Nat
  | .stopped => 0
  | .starting => 1
  | .running => 2
  | .stopping => 3
  | .configError => 4

/-- The config error code in STATUS (section 10.8). -/
def ConfigError.code : ConfigError → Nat
  | .none => 0
  | .badSignature => 1
  | .badGeometry => 2
  | .overlap => 3
  | .missingQueue => 4
  | .badTarget => 5

/-- The fetch engine state's code in STATUS (section 10.8). -/
def FetchState.code : FetchState → Nat
  | .idle => 0
  | .reading _ _ _ => 1
  | .loading _ _ _ _ => 2
  | .snapshotting _ _ _ _ => 2
  | .waitPost _ => 3

/-- The reset cause's code in STATUS (section 10.8). -/
def ResetCause.code : ResetCause → Nat
  | .por => 0
  | .pin => 1
  | .soft => 2

/-- CONTROL.RUN reads 1 while the engine is STARTING or RUNNING (R112). -/
def State.runBit (s : State) : Bool := s.engine == .starting || s.engine == .running

/-- CONTROL as read (R169). -/
def State.controlValue (s : State) : BitVec 32 := BitVec.ofNat 32 (bit s.runBit + 16 * s.enables.toNat)

/-- STATUS as read (R168). -/
def State.statusValue (s : State) : BitVec 32 :=
  BitVec.ofNat 32 (s.engine.code + 8 * s.configError.code + 64 * s.fetch.code + 256 * s.resetCause.code + 1024 * bit s.permitOn +
    2048 * s.permitCause + 8192 * bit s.postError + 16384 * bit s.releaseError + 65536 * (s.linkErrors % 256))

/-- CAUSE as read (R135). -/
def State.causeValue (s : State) : BitVec 32 := s.cause.zeroExtend 32

/-- The value of register k of the window: IDENT, CONTROL, STATUS, POST, RELEASE, CAUSE (R168). -/
def State.register (s : State) (k : Nat) : BitVec 32 :=
  match k with
  | 0 => Config.ident
  | 1 => s.controlValue
  | 2 => s.statusValue
  | 5 => s.causeValue
  | _ => 0

/-- The byte a read frame finds at a host address: exchange memory, the register window, or nothing (R161). -/
def State.hostByte (s : State) (a : Nat) : Byte :=
  if a < 0x4000 then Memory.read s.xm a
  else if a < 0x4018 then ((s.register ((a - 0x4000) / 4)) >>> (8 * (a % 4))).setWidth 8
  else 0

end Sys2Proof.Machine
end

