-- ==== Sys2Proof/Machine/Operands.lean ====
section
/-! DEFINITION. The operand forms: the fields of command records, phase entries, pattern images, the configuration block and
the written registers as chapter 10 lays them out, and the bytes of the records that the part writes. -/

namespace Sys2Proof.Machine

/-! ### Command records (section 10.2) -/

/-- The tag of a record. -/
def recordTag (r : List Byte) : BitVec 16 := BitVec.ofNat 16 (field16 r 0)

/-- The kind byte of a record. -/
def recordKind (r : List Byte) : Byte := r.getD 2 0

/-- The sequence byte of a record. -/
def recordSequence (r : List Byte) : Nat := byteAt r 3

/-- The check byte of a record. -/
def recordCheck (r : List Byte) : Byte := r.getD 63 0

/-- The CRC of bytes 0 to 62 equals byte 63 (R100). -/
def recordCrcOk (r : List Byte) : Bool := crc8 (r.take 63) == recordCheck r

/-- The kinds that the fetch engine executes itself (R102): BIND to SNAPSHOT. -/
def isControlKind (k : Byte) : Bool := decide (0x10 ≤ k.toNat) && decide (k.toNat ≤ 0x19)

/-- The kinds that any SQ carries: NOP, SEGMENT, HALT (R102). -/
def isOpenKind (k : Byte) : Bool := decide (0x01 ≤ k.toNat) && decide (k.toNat ≤ 0x03)

/-- The kind field of a completion: the kind byte as read, 0x00 in place of 0xE0 (R102, R105). -/
def completionKind (k : Byte) : Byte := if k = 0xE0 then 0 else k

/-! ### Phase entries and pattern images -/

/-- The code of one drive-code nibble: its bit 3 is ignored (R175). -/
def phaseCode (n : Nat) : PhaseCode :=
  match n % 8 with
  | 0 => .keep
  | 1 => .drive .off
  | 2 => .drive .high
  | 3 => .drive .low
  | 4 => .drive .pwmH
  | 5 => .drive .pwmL
  | 6 => .drive .pwmC
  | _ => .invalid

/-- The phase entry at byte o. -/
def phaseAt (r : List Byte) (o : Nat) : Phase where
  duration := field16 r o
  codes := #v[phaseCode (byteAt r (o + 2)), phaseCode (byteAt r (o + 2) / 16), phaseCode (byteAt r (o + 3)),
    phaseCode (byteAt r (o + 3) / 16), phaseCode (byteAt r (o + 4)), phaseCode (byteAt r (o + 4) / 16)]
  duty := field16 r (o + 5)

/-- n phase entries from byte o on. -/
def phasesAt (r : List Byte) : Nat → Nat → List Phase
  | _, 0 => []
  | o, n + 1 => phaseAt r o :: phasesAt r (o + 8) n

/-- A phase carries the invalid code for some channel (R4). -/
def Phase.hasInvalid (p : Phase) : Bool := p.codes.toList.any (· == .invalid)

/-- A phase carries a code other than KEEP for a channel outside a set (R23, check 5). -/
def Phase.reaches (p : Phase) (owned : ChannelSet) : Bool :=
  allChannels.any fun c => p.codes[c] != .keep && !owned.getLsbD c.val

/-- What the pattern loader knows of an image from the bytes read so far (R53, R54): it needs more, a check failed with a
detail and the failing phase, or every phase has passed. -/
inductive ImageVerdict where
  | more
  | bad (detail : Nat) (phase : Option Nat)
  | good (phases : List Phase)
deriving DecidableEq, Repr

/-- Checks phases i, i+1, ... of an image, n of them, of which `got` bytes have been read (R54). -/
def checkPhases (image : List Byte) (got : Nat) : Nat → Nat → List Phase → ImageVerdict
  | _, 0, acc => .good acc
  | i, n + 1, acc =>
    if got < 16 + 8 * i then .more
    else
      let p := phaseAt image (8 + 8 * i)
      if p.duration = 0 then .bad 2 (some i)
      else if p.hasInvalid then .bad 3 (some i)
      else checkPhases image got (i + 1) n (acc ++ [p])

/-- Checks the image of a source offset from the aligned spans read so far (R54). -/
def imageVerdict (src : Nat) (spans : List Byte) : ImageVerdict :=
  let image := spans.drop (src % 16)
  let got := image.length
  if got < 8 then .more
  else
    let count := byteAt image 0
    if count = 0 ∨ 16 < count then .bad 1 none else checkPhases image got 0 count []

/-! ### SEGMENT fields -/

/-- The phase source of a SEGMENT (R21): an inline count of 1 to 5, or a slot as its number plus 16. -/
inductive SourceField where
  | inline (n : Nat)
  | slot (n : Fin 16)
deriving DecidableEq, Repr

/-- The phase source byte; none fails check 1. -/
def sourceField (b : Nat) : Option SourceField :=
  if 1 ≤ b ∧ b ≤ 5 then some (.inline b)
  else if 16 ≤ b ∧ b ≤ 31 then (asFin 16 (b - 16)).map .slot
  else none

/-- The end action byte; none fails check 8. -/
def endActionField (b : Nat) : Option EndAction :=
  match b with
  | 0 => some .coast
  | 1 => some .hold
  | _ => none

/-- The stop direction byte; none fails check 9. -/
def directionField (b : Nat) : Option StopDirection :=
  match b with
  | 0 => some .riseAbove
  | 1 => some .fallBelow
  | _ => none

/-- The edge byte; none fails check 10. -/
def edgeField (b : Nat) : Option Edge :=
  match b with
  | 0 => some .rise
  | 1 => some .fall
  | 2 => some .any
  | _ => none

/-- The current stop of a SEGMENT: absent for the channel byte 0xFF (R21). -/
def currentStopField (r : List Byte) : Option CurrentStop :=
  if byteAt r 12 = 0xFF then none
  else
    match asFin 6 (byteAt r 12), directionField (byteAt r 13) with
    | some c, some d => some { channel := c, direction := d, threshold := field16 r 14, blanking := byteAt r 16 }
    | _, _ => none

/-- The input stop of a SEGMENT: absent for the input byte 0xFF (R21). -/
def inputStopField (r : List Byte) : Option InputStop :=
  if byteAt r 17 = 0xFF then none
  else
    match asFin 4 (byteAt r 17), edgeField (byteAt r 18) with
    | some i, some e => some { input := i, edge := e }
    | _, _ => none

/-- The gate of a SEGMENT: none for gate number 0 (R58). -/
def gateField (b : Nat) : Option (Fin 4) := if b = 0 then none else asFin 4 (b - 1)

/-- The queue entry of a validated SEGMENT record (R27). -/
def segmentOf (r : List Byte) (o : Origin) : Segment where
  origin := o
  gate := gateField (byteAt r 5)
  source :=
    match sourceField (byteAt r 6) with
    | some (.slot n) => .slot n
    | some (.inline n) => .inline (phasesAt r 20 n)
    | none => .inline []
  repeatCount := byteAt r 7
  endAction := (endActionField (byteAt r 8)).getD .coast
  period := byteAt r 9
  timeout := field16 r 10
  currentStop := currentStopField r
  inputStop := inputStopField r

/-- The first check of a list, numbered, that fails. -/
def firstFailing : List (Nat × Bool) → Option Nat
  | [] => none
  | (n, fails) :: rest => if fails then some n else firstFailing rest

/-- The phases that validation reads (R24). -/
def State.recordPhases (s : State) (r : List Byte) : List Phase :=
  match sourceField (byteAt r 6) with
  | some (.inline n) => phasesAt r 20 n
  | some (.slot n) => (s.slot n).phases
  | none => []

/-- The named slot is not VALID (R23, check 2). -/
def State.slotMissing (s : State) (r : List Byte) : Bool :=
  match sourceField (byteAt r 6) with
  | some (.slot n) => !(s.slot n).valid
  | _ => false

/-- A present current stop is not acceptable for a channel set (R23, check 9). -/
def currentStopBad (r : List Byte) (owned : ChannelSet) : Bool :=
  byteAt r 12 != 0xFF &&
    (!owned.getLsbD (byteAt r 12) || (directionField (byteAt r 13)).isNone || decide (4000 < field16 r 14))

/-- A present input stop is not acceptable (R23, check 10). -/
def inputStopBad (r : List Byte) : Bool :=
  byteAt r 17 != 0xFF && (decide (3 < byteAt r 17) || (edgeField (byteAt r 18)).isNone)

/-- The gate number is above 4, or names a gate of which the lane is no member (R23, check 11). -/
def State.gateBad (s : State) (l : Fin 4) (r : List Byte) : Bool :=
  decide (4 < byteAt r 5) ||
    match gateField (byteAt r 5) with
    | some g => !(s.gate g).members.getLsbD l.val
    | none => false

/-- The first failing check of a SEGMENT record for a lane, by its number (R23). -/
def State.segmentCheck (s : State) (l : Fin 4) (r : List Byte) : Option Nat :=
  let phases := s.recordPhases r
  let owned := (s.lane l).owned
  firstFailing
    [(1, (sourceField (byteAt r 6)).isNone),
     (2, s.slotMissing r),
     (3, phases.any fun p => p.duration == 0),
     (4, phases.any fun p => p.hasInvalid),
     (5, phases.any fun p => p.reaches owned),
     (6, decide (byteAt r 9 < 20) || decide (200 < byteAt r 9)),
     (7, phases.any fun p => decide (1000 < p.duty)),
     (8, (endActionField (byteAt r 8)).isNone),
     (9, currentStopBad r owned),
     (10, inputStopBad r),
     (11, s.gateBad l r),
     (12, byteAt r 7 == 0 && byteAt r 12 == 0xFF && byteAt r 17 == 0xFF && field16 r 10 == 0)]

/-! ### Configuration block (section 10.6) -/

/-- The size in entries that a log2 byte gives: 0 is absent. -/
def ringSize (log2 : Nat) : Nat := if log2 = 0 then 0 else 2 ^ log2

/-- The byte of SQ descriptor n at position k. -/
def sqDescriptor (b : List Byte) (n : Fin 4) (k : Nat) : Nat := byteAt b (0x10 + 8 * n.val + k)

/-- The byte of CQ descriptor n at position k. -/
def cqDescriptor (b : List Byte) (n : Fin 2) (k : Nat) : Nat := byteAt b (0x30 + 8 * n.val + k)

/-- The base of SQ n. -/
def sqBase (b : List Byte) (n : Fin 4) : Nat := field16 b (0x10 + 8 * n.val)

/-- The base of CQ n. -/
def cqBase (b : List Byte) (n : Fin 2) : Nat := field16 b (0x30 + 8 * n.val)

/-- SQ n is present in the block (R114). -/
def sqPresent (b : List Byte) (n : Fin 4) : Bool := sqDescriptor b n 2 != 0

/-- CQ n is present in the block (R114). -/
def cqPresent (b : List Byte) (n : Fin 2) : Bool := cqDescriptor b n 2 != 0

/-- The geometry check of a present SQ fails (R114, order 2). -/
def sqGeometryBad (b : List Byte) (n : Fin 4) : Bool :=
  decide (sqDescriptor b n 2 < 2) || decide (7 < sqDescriptor b n 2) || sqBase b n % 64 != 0 ||
    decide (Config.xmSize < sqBase b n + 64 * ringSize (sqDescriptor b n 2)) || decide (1 < sqDescriptor b n 3) ||
    (sqDescriptor b n 3 == 0 && (decide (sqDescriptor b n 4 < 1) || decide (8 < sqDescriptor b n 4)))

/-- The geometry check of a present CQ fails (R114, order 2). -/
def cqGeometryBad (b : List Byte) (n : Fin 2) : Bool :=
  decide (cqDescriptor b n 2 < 3) || decide (8 < cqDescriptor b n 2) || cqBase b n % 16 != 0 ||
    decide (Config.xmSize < cqBase b n + 16 * ringSize (cqDescriptor b n 2)) || decide (cqDescriptor b n 3 < 1) ||
    decide (32 < cqDescriptor b n 3)

/-- The ring of SQ n by its descriptor; an absent ring is empty. -/
def sqRange (b : List Byte) (n : Fin 4) : Nat × Nat := (sqBase b n, 64 * ringSize (sqDescriptor b n 2))

/-- The ring of CQ n by its descriptor; an absent ring is empty. -/
def cqRange (b : List Byte) (n : Fin 2) : Nat × Nat := (cqBase b n, 16 * ringSize (cqDescriptor b n 2))

/-- Two ranges of a list share a byte. -/
def anyMeet : List (Nat × Nat) → Bool
  | [] => false
  | r :: rs => rs.any (rangesMeet r) || anyMeet rs

/-- A present ring shares a byte with the configuration block, another present ring or an active capture ring (R114, order 3). -/
def State.configOverlap (s : State) (b : List Byte) : Bool :=
  let rings := allLanes.map (sqRange b) ++ allPairs.map (cqRange b)
  let captures := (allPairs.filter fun n => (s.stream n).active).map fun n => ((s.stream n).base, (s.stream n).size)
  anyMeet rings || rings.any fun r => ((0, Config.configBlockSize) :: captures).any (rangesMeet r)

/-- A target or the event-CQ selector names no present CQ (R114, order 5). -/
def configBadTarget (b : List Byte) : Bool :=
  let absent := fun t => match asFin 2 t with
    | some q => !cqPresent b q
    | none => true
  (allLanes.any fun n => sqPresent b n && absent (sqDescriptor b n 5)) || absent (byteAt b 0x40)

/-- The config error of a block as read; none when it passes every check (R114). -/
def State.configCheck (s : State) (b : List Byte) : ConfigError :=
  if b.take 4 ≠ [0x54, 0x51, 0x36, 0x43] then .badSignature
  else if (allLanes.any fun n => sqPresent b n && sqGeometryBad b n) || (allPairs.any fun n => cqPresent b n && cqGeometryBad b n) then
    .badGeometry
  else if s.configOverlap b then .overlap
  else if !sqPresent b 0 || !cqPresent b 0 then .missingQueue
  else if configBadTarget b then .badTarget
  else .none

/-- The SQ context of a descriptor after a successful START (R115). The weight byte of an URGENT SQ is kept as it stands, which no
rule reads (notes/assumptions/4.md). -/
def sqFromConfig (b : List Byte) (n : Fin 4) : Sq where
  base := if sqPresent b n then sqBase b n else 0
  size := ringSize (sqDescriptor b n 2)
  cls := if sqPresent b n && sqDescriptor b n 3 == 1 then .urgent else .normal
  weight := if sqPresent b n then sqDescriptor b n 4 else 0
  target := if sqPresent b n then (asFin 2 (sqDescriptor b n 5)).getD 0 else 0
  state := if sqPresent b n then .empty else .absent
  head := 0
  tail := 0
  expected := 0

/-- The CQ context of a descriptor after a successful START (R115). -/
def cqFromConfig (b : List Byte) (n : Fin 2) : Cq where
  base := if cqPresent b n then cqBase b n else 0
  size := ringSize (cqDescriptor b n 2)
  coalCount := if cqPresent b n then cqDescriptor b n 3 else 0
  coalDelay := if cqPresent b n then cqDescriptor b n 4 else 0
  tail := 0
  hostHead := 0
  phaseTag := true
  unsignalled := 0
  delayTimer := none

/-! ### Written registers (section 10.8) -/

/-- CONTROL.RUN of a written value. -/
def controlRun (v : BitVec 32) : Bool := v.getLsbD 0

/-- CONTROL.SOFT_RESET of a written value. -/
def controlSoftReset (v : BitVec 32) : Bool := v.getLsbD 1

/-- CONTROL.CLEAR_ERRORS of a written value. -/
def controlClearErrors (v : BitVec 32) : Bool := v.getLsbD 2

/-- The IRQ enables of a written CONTROL value: bits 4 to 6. -/
def controlEnables (v : BitVec 32) : BitVec 3 := v.extractLsb' 4 3

/-- The value field of a POST write. -/
def postValue (v : BitVec 32) : Nat := (v.extractLsb' 0 8).toNat

/-- The queue number of a POST write. -/
def postQueue (v : BitVec 32) : Nat := (v.extractLsb' 8 4).toNat

/-- The action of a POST write: 0 TAIL, 1 RESUME, 2 RESET, 3 names none. -/
def postAction (v : BitVec 32) : Nat := (v.extractLsb' 12 2).toNat

/-- The position of a RELEASE write. -/
def releasePosition (v : BitVec 32) : Nat := (v.extractLsb' 0 16).toNat

/-- The target of a RELEASE write: 0 CQ0, 1 CQ1, 2 CAP0, 3 CAP1, 4 to 7 name none. -/
def releaseTarget (v : BitVec 32) : Nat := (v.extractLsb' 16 3).toNat

/-- The bits of a CAUSE write. -/
def causeBits (v : BitVec 32) : BitVec 3 := v.extractLsb' 0 3

/-! ### Records the part writes -/

/-- The code of a status (section 10.4). -/
def Status.code : Status → Nat
  | .done => 0x00
  | .stoppedCurrent => 0x01
  | .stoppedInput => 0x02
  | .timedOut => 0x03
  | .aborted => 0x04
  | .tripped => 0x05
  | .disabled => 0x06
  | .gateTimeout => 0x07
  | .badKind => 0x20
  | .refusedQueue => 0x21
  | .notBound => 0x22
  | .badSegment => 0x23
  | .conflict => 0x24
  | .busy => 0x25
  | .badPattern => 0x26
  | .inUse => 0x27
  | .notTripped => 0x28
  | .lockedOut => 0x29
  | .badArgument => 0x2A

/-- An index byte, 0xFF for none. -/
def indexByte {n : Nat} (i : Option (Fin n)) : Nat := (i.map (·.val)).getD 0xFF

/-- The 16 bytes of a completion record with a phase tag (section 10.4). -/
def completionBytes (c : Completion) (tag : Bool) : List Byte :=
  enc16 c.origin.tag.toNat ++ [c.origin.kind] ++ enc8 c.status.code ++ enc8 c.origin.sq.val ++ enc8 c.origin.sqHead ++
    enc8 (indexByte c.lane) ++ enc8 c.detail ++ enc8 c.repeats ++ enc8 (c.lastPhase.getD 0xFF) ++ enc32 c.elapsed ++
    enc8 c.peak ++ enc8 (bit tag)

/-- The 16 bytes of an event record with a phase tag (section 10.4, R130). -/
def eventBytes (source : Fin 12) (count : Nat) (d : EventDetail) (first : Tick) (tag : Bool) : List Byte :=
  enc16 0 ++ [0xE0] ++ enc8 source.val ++ enc8 count ++ enc8 d.first ++ enc8 d.second ++ enc8 d.third ++ enc32 first.toNat ++
    enc16 0 ++ enc8 0 ++ enc8 (bit tag)

/-- The 16 bytes of a SAMPLE record (R148, section 10.5). -/
def sampleBytes (sequence : Nat) (tick : Tick) (currents : Vector Int 6) : List Byte :=
  enc8 1 ++ enc8 sequence ++ enc16 tick.toNat ++ currents.toList.flatMap encCurrent

/-- The 16 bytes of a GAP record (R151, section 10.5). -/
def gapBytes (sequence : Nat) (tick : Tick) (dropped : Nat) : List Byte :=
  enc8 2 ++ enc8 sequence ++ enc16 tick.toNat ++ enc32 dropped ++ enc32 0 ++ enc32 0

/-- A drive code's value in a record (section 10.2). -/
def DriveCode.code : DriveCode → Nat
  | .off => 1
  | .high => 2
  | .low => 3
  | .pwmH => 4
  | .pwmL => 5
  | .pwmC => 6

/-- A lane state's code in the snapshot (section 10.7). -/
def LaneState.code : LaneState → Nat
  | .unbound => 0
  | .idle => 1
  | .holding => 2
  | .gated => 3
  | .running _ => 4
  | .held => 5

/-- A domain state's code in the snapshot (section 10.7). -/
def DomainState.code : DomainState → Nat
  | .armed => 0
  | .tripped => 1
  | .locked => 2

/-- The tag of the running segment, 0 when there is none (R139). -/
def Lane.runningTag (l : Lane) : Nat :=
  match l.state with
  | .running r => r.seg.origin.tag.toNat
  | _ => 0

/-- The remaining hold in ms, rounded up, at least 1 until the expiry is taken (notes/assumptions/2.md), and 0 while the timer is
stopped (R139). -/
def Lane.remainingHold (l : Lane) : Nat :=
  match l.holdTimer with
  | none => 0
  | some n => max 1 ((n + (Config.ticksPerMs - 1)) / Config.ticksPerMs)

/-- The head gate's number, 0 for none (R139). -/
def Lane.headGateNumber (l : Lane) : Nat := (l.headGate.map (·.val + 1)).getD 0

/-- The 12 bytes of a lane record of the snapshot (section 10.7). -/
def laneBytes (l : Lane) : List Byte :=
  enc8 l.state.code ++ enc8 l.owned.toNat ++ enc8 l.queue.length ++ enc8 l.outbox.length ++ enc8 l.headGateNumber ++
    enc8 l.expiryCount ++ enc16 l.holdLimit ++ enc16 l.remainingHold ++ enc16 l.runningTag

/-- The 7 bytes of a channel record of the snapshot (section 10.7). -/
def channelBytes (c : Channel) (current : Int) : List Byte :=
  enc8 c.code.code ++ enc8 (indexByte c.owner) ++ enc16 (if c.code.isPwm then c.duty else 0) ++
    enc8 (if c.code.isPwm then c.period else 0) ++ encCurrent current

/-- The 4 bytes of a domain record of the snapshot (section 10.7). -/
def domainBytes (d : Domain) : List Byte :=
  enc8 d.state.code ++ enc8 d.tripCount ++ enc8 d.tripLimit ++ enc8 d.members.toNat

/-- The byte of a pattern slot in the snapshot (section 10.7). -/
def slotByte (n : Slot) : List Byte := enc8 (n.useCount % 32 + 128 * bit n.valid)

/-- The 128 bytes of the snapshot picture (R139, section 10.7). -/
def State.picture (s : State) : List Byte :=
  enc32 s.tick.toNat ++ enc8 (bit s.permitOn) ++ enc8 s.permitCause ++ enc16 0 ++
    (allLanes.flatMap fun l => laneBytes (s.lane l)) ++
    (allChannels.flatMap fun c => channelBytes (s.channel c) s.lastSample[c]) ++
    (allDomains.flatMap fun d => domainBytes (s.domain d)) ++ enc16 0 ++
    s.slots.toList.flatMap slotByte

end Sys2Proof.Machine
end

