-- ==== Sys2Proof/Machine/Capture.lean ====
section
/-! DEFINITION. The capture writer (chapter 8): triggers, sample instants, freezes, and the RELEASE of a capture ring. -/

namespace Sys2Proof.Machine

/-- Hands a CAPTURE_STATE occurrence with a state code and the record index of the write position (R157). -/
def State.captureStateEvent (s : State) (n : Fin 2) (code : Nat) : State :=
  let i := (s.stream n).recordIndex
  s.recordEvent (captureStateSource n) { first := code, second := i % 256, third := i / 256 }

/-- A stream freezes: it writes no more, and hands its CAPTURE_STATE occurrence (R154). -/
def State.freezeStream (s : State) (n : Fin 2) : State :=
  (s.updStream n fun c => { c with state := .frozen, nextInstant := none }).captureStateEvent n
    (if (s.stream n).wrapCount = 0 then 2 else 3)

/-- A stream freezes if it is a HISTORY stream in RUNNING with a condition that is met (R154). -/
def State.freezeIf (s : State) (n : Fin 2) (cond : FreezeCondition) : State :=
  let c := s.stream n
  if c.mode = .history ∧ c.state = .running ∧ c.freeze = cond then s.freezeStream n else s

/-- A domain trip reaches the capture writer (R77, R154). -/
def State.tripFreeze (s : State) : State := (s.freezeIf 0 .onTrip).freezeIf 1 .onTrip

/-- A lane fault reaches the capture writer (R47, R154). -/
def State.laneFault (s : State) (l : Fin 4) : State := (s.freezeIf 0 (.onLaneFault l)).freezeIf 1 (.onLaneFault l)

/-- An ARMED stream whose trigger lane enters RUNNING takes its first sample instant at this tick (R147). -/
def State.triggerStream (s : State) (n : Fin 2) (l : Fin 4) : State :=
  let c := s.stream n
  if c.state = .armed ∧ c.trigger = .laneStart l then
    s.updStream n fun c => { c with state := .running, nextInstant := some s.tick }
  else s

/-- A lane's entry into RUNNING reaches the capture writer (R28, R62, R147). -/
def State.laneEntered (s : State) (l : Fin 4) : State := (s.triggerStream 0 l).triggerStream 1 l

/-- Writes one record at a stream's write position in one access and advances the position, which may return to the base
(R149). -/
def State.writeCapture (s : State) (n : Fin 2) (record : List Byte) : State :=
  let c := s.stream n
  let s := { s with xm := Memory.writeBytes s.xm c.writePos record, rotation := .capture }
  if c.writePos + 16 = c.base + c.size then
    let w := satSucc 16777215 c.wrapCount
    let s := s.updStream n fun c => { c with writePos := c.base, wrapCount := w }
    if c.mode = .stream then
      s.recordEvent (captureWrapSource n) { first := w % 256, second := w / 256 % 256, third := w / 65536 }
    else s
  else s.updStream n fun c => { c with writePos := c.nextPos }

/-- What a sample instant writes or drops (R148 to R151, R153). -/
def State.captureRecord (s : State) (n : Fin 2) : State :=
  let c := s.stream n
  if c.mode = .history then s.writeCapture n (sampleBytes c.sequence s.tick s.lastSample)
  else if c.hasRoom then
    if c.state = .overrun then
      (s.writeCapture n (gapBytes c.sequence s.tick (satSucc 4294967295 c.dropCount))).updStream n fun c =>
        { c with dropCount := 0, state := .running }
    else s.writeCapture n (sampleBytes c.sequence s.tick s.lastSample)
  else if c.state = .overrun then s.updStream n fun c => { c with dropCount := satSucc 4294967295 c.dropCount }
  else (s.updStream n fun c => { c with dropCount := 1, state := .overrun }).captureStateEvent n 1

/-- A sample instant falls at the present tick (R148). -/
def State.instantDue (s : State) (n : Fin 2) : Bool :=
  ((s.stream n).state == .running || (s.stream n).state == .overrun) && (s.stream n).nextInstant == some s.tick

/-- Takes a sample instant: the record, then the next instant and the next sequence (R148). -/
def State.captureInstant (s : State) (n : Fin 2) : State :=
  if s.instantDue n then
    (s.captureRecord n).updStream n fun c =>
      { c with sequence := (c.sequence + 1) % 256, nextInstant := some (s.tick + BitVec.ofNat 32 c.interval) }
  else s

/-- A RELEASE of a capture ring is not acceptable (R152). -/
def CaptureStream.releaseBad (c : CaptureStream) (p : Nat) : Bool :=
  c.state == .off || c.mode == .history || decide (p < c.base) || decide (c.base + c.size ≤ p) || p % 16 != 0 ||
    !inForwardRange (c.size / 16) ((c.readPos - c.base) / 16) ((c.writePos - c.base) / 16) ((p - c.base) / 16)

/-- RELEASE of a capture ring (R152). -/
def State.releaseCapture (s : State) (n : Fin 2) (p : Nat) : State :=
  if (s.stream n).releaseBad p then { s with releaseError := true }
  else s.updStream n fun c => { c with readPos := p }

end Sys2Proof.Machine
end

