-- ==== Sys2Proof/Machine/Lanes.lean ====
section
/-! DEFINITION. The lane sequencer and the gate unit (chapters 1, 2 and 4): the start test, gate arrival and firing, phase
boundaries, the endings of a segment, holds, and the flush that a HALT and the loss of the permit make. -/

namespace Sys2Proof.Machine

/-! ### Completions and use counts -/

/-- A completion with the never-started progress values (R44). -/
def neverStarted (o : Origin) (st : Status) (lane : Option (Fin 4)) (detail : Nat) : Completion where
  origin := o
  status := st
  lane := lane
  detail := detail
  repeats := 0
  lastPhase := none
  elapsed := 0
  peak := 0

/-- The phase list of a segment (R22): its inline phases, or those of its slot as they stand (R49). -/
def State.phasesOf (s : State) (g : Segment) : List Phase :=
  match g.source with
  | .inline ps => ps
  | .slot n => (s.slot n).phases

/-- The running phase is the last of its list (R29). -/
def State.atLastPhase (s : State) (r : Running) : Bool := decide ((s.phasesOf r.seg).length ≤ r.phaseIndex + 1)

/-- The repeats done at the present tick: a pass whose last phase ends at this tick is counted (R34, R44). -/
def State.repeatsNow (s : State) (r : Running) : Nat :=
  if r.phaseEnd = s.tick ∧ s.atLastPhase r then satSucc 255 r.repeatsDone else r.repeatsDone

/-- The completion of a segment that has run, with its progress at the present tick (R44). -/
def State.ranCompletion (s : State) (l : Fin 4) (r : Running) (st : Status) (detail : Nat) : Completion where
  origin := r.seg.origin
  status := st
  lane := some l
  detail := detail
  repeats := s.repeatsNow r
  lastPhase := some (r.endedPhase.getD r.phaseIndex)
  elapsed := r.elapsed
  peak := r.peak / 20

/-- A segment's slot is held in use (R25, R50). -/
def State.holdSlot (s : State) (g : Segment) : State :=
  match g.source with
  | .inline _ => s
  | .slot n => s.updSlot n fun p => { p with useCount := p.useCount + 1 }

/-- A segment gives its slot up, as its completion joins the outbox (R46, R50). -/
def State.releaseSlot (s : State) (g : Segment) : State :=
  match g.source with
  | .inline _ => s
  | .slot n => s.updSlot n fun p => { p with useCount := p.useCount - 1 }

/-- Segments give their slots up, in order. -/
def State.releaseSlots : State → List Segment → State
  | s, [] => s
  | s, g :: gs => State.releaseSlots (s.releaseSlot g) gs

/-- Completions join the tail of a lane's outbox, in order (R14). -/
def State.addOutbox (s : State) (l : Fin 4) (cs : List Completion) : State :=
  s.updLane l fun ln => { ln with outbox := ln.outbox ++ cs }

/-! ### Readiness notices -/

/-- An SQ blocked on a lane leaves BLOCKED when the lane is ready for its kind (R111). -/
def Sq.unblock (q : Sq) (l : Fin 4) (ready : LaneKind → Bool) : Sq :=
  match q.state with
  | .blocked l' k => if l' = l ∧ ready k then { q with state := if q.head = q.tail then .empty else .ready } else q
  | _ => q

/-- A readiness notice of a lane reaches the fetch engine (R111). -/
def State.readinessNotice (s : State) (l : Fin 4) : State :=
  s.mapSqs fun _ q => q.unblock l fun k => (s.lane l).readyFor k

/-! ### Starting -/

/-- The segment runs no phase: what an empty phase list would give. No validated segment has one (R22). -/
def Phase.none : Phase where
  duration := 0
  codes := Vector.replicate 6 .keep
  duty := 0

/-- The running segment context at the start tick (R28). -/
def State.startContext (s : State) (g : Segment) : Running where
  seg := g
  phaseIndex := 0
  phaseEnd := s.tick + BitVec.ofNat 32 ((s.phasesOf g).headD Phase.none).duration
  repeatsDone := 0
  elapsed := 0
  peak := 0
  samples := 0
  timeoutTick := if g.timeout = 0 then Option.none else some (s.tick + BitVec.ofNat 32 (Config.ticksPerMs * g.timeout))
  stopMet := false
  endedPhase := Option.none

/-- A lane's head segment leaves the queue and starts (R28): a hold ends, phase 0 is applied, and the capture writer hears of
the lane's entry into RUNNING. -/
def State.startHead (s : State) (l : Fin 4) : State :=
  match (s.lane l).queue with
  | [] => s
  | g :: rest =>
    let first := (s.phasesOf g).headD Phase.none
    let s1 := s.updLane l fun ln => { ln with state := .running (s.startContext g), queue := rest, holdTimer := none }
    ((s1.applyPhase l first g.period).laneEntered l).readinessNotice l

/-- A lane enters GATED and records its resume state (R13, R61). -/
def State.enterGated (s : State) (l : Fin 4) : State :=
  s.updLane l fun ln => { ln with state := .gated, resume := if ln.state = .holding then .holding else .idle }

/-- Starts the heads of the lanes of a set, in lane order (R62). -/
def State.startSet (s : State) (set : LaneSet) : State :=
  allLanes.foldl (fun s l => if set.getLsbD l.val then s.startHead l else s) s

/-- A gate fires: its arrival set empties, its timer stops, and every member starts (R62). -/
def State.fireGate (s : State) (g : Fin 4) : State :=
  (s.updGate g fun x => { x with arrivals := 0, waitTimer := none }).startSet (s.gate g).members

/-- The gate unit takes a lane's entry into GATED: a lane that is no member is stranded (R60); a member joins the arrival set,
and the gate fires (R62) or, at a first arrival, starts its wait timer (R61, R63). -/
def State.arrive (s : State) (l : Fin 4) (g : Fin 4) : State :=
  let x := s.gate g
  if !x.members.getLsbD l.val then s
  else
    let arrivals := x.arrivals ||| laneBit l
    if arrivals = x.members then s.fireGate g
    else s.updGate g fun x =>
      { x with
        arrivals := arrivals
        waitTimer := if x.arrivals = 0 ∧ x.timeout ≠ 0 then some (Config.ticksPerMs * x.timeout) else x.waitTimer }

/-- The start test (R13). -/
def State.startTest (s : State) (l : Fin 4) : State :=
  if s.mayStart l then
    match (s.lane l).queue with
    | [] => s
    | g :: _ =>
      match g.gate with
      | none => s.startHead l
      | some x => (s.enterGated l).arrive l x
  else s

/-- A lane leaves the arrival set it is in; a gate whose set empties becomes quiet (R64). -/
def State.leaveGates (s : State) (l : Fin 4) : State :=
  s.mapGates fun _ g =>
    if g.arrivals.getLsbD l.val then
      { g with
        arrivals := g.arrivals &&& ~~~laneBit l
        waitTimer := if g.arrivals &&& ~~~laneBit l = 0 then none else g.waitTimer }
    else g

/-! ### Running -/

/-- A change of a filtered input meets an edge (R32): `high` is the filtered state before the change. -/
def Edge.metBy (e : Edge) (high : Bool) : Bool :=
  match e with
  | .rise => !high
  | .fall => high
  | .any => true

/-- The input stop of a running segment is met by a change due at the present tick (R32): not at its own start tick. -/
def State.inputStopMet (s : State) (r : Running) : Bool :=
  match r.seg.inputStop with
  | none => false
  | some i => decide (0 < r.elapsed) && (s.senseInput i.input).due && i.edge.metBy (s.senseInput i.input).high

/-- The last pass of a counted segment completes at the present tick (R29). -/
def State.lastPassDone (s : State) (r : Running) : Bool :=
  r.phaseEnd == s.tick && s.atLastPhase r && r.seg.repeatCount != 0 && satSucc 255 r.repeatsDone == r.seg.repeatCount

/-- The status with which a running segment ends at the present tick, by the precedence of R34; none if no cause has arisen. -/
def State.endCause (s : State) (r : Running) : Option Status :=
  if r.stopMet then some .stoppedCurrent
  else if s.inputStopMet r then some .stoppedInput
  else if r.timeoutTick = some s.tick then some .timedOut
  else if s.lastPassDone r then some .done
  else none

/-- The detail of an ending (R44): the stop channel, the stop input, or 0. -/
def endDetail (g : Segment) : Status → Nat
  | .stoppedCurrent => (g.currentStop.map (·.channel.val)).getD 0
  | .stoppedInput => (g.inputStop.map (·.input.val)).getD 0
  | _ => 0

/-- The hold timer that starts when a segment ends with HOLD (R37). -/
def holdStart (limit : Nat) : Option Nat := if limit = 0 then none else some (Config.ticksPerMs * limit)

/-- A lane's state after an end action (R35). -/
def EndAction.nextState : EndAction → LaneState
  | .coast => .idle
  | .hold => .holding

/-- A running segment ends (R35): end action, use count, completion, lane state, lane fault for TIMED_OUT, start test. HOLD leaves
the carrier running: the PWM period in progress is not cut off (notes/assumptions/24.md). -/
def State.endSegment (s : State) (l : Fin 4) (r : Running) (st : Status) : State :=
  let c := s.ranCompletion l r st (endDetail r.seg st)
  let s := if r.seg.endAction = .coast then s.laneOff l else s
  let s := (s.releaseSlot r.seg).addOutbox l [c]
  let s := s.updLane l fun ln =>
    { ln with
      state := r.seg.endAction.nextState
      holdTimer := if r.seg.endAction = .hold then holdStart ln.holdLimit else none }
  (if st = .timedOut then s.laneFault l else s).startTest l

/-- The running segment of a lane ends if a cause of R34 has arisen. -/
def State.endIfDue (s : State) (l : Fin 4) : State :=
  match (s.lane l).state with
  | .running r =>
    match s.endCause r with
    | some st => s.endSegment l r st
    | none => s
  | _ => s

/-- The context after a phase boundary that does not end the segment (R29). -/
def State.nextPhase (s : State) (r : Running) : Running :=
  let last := s.atLastPhase r
  let i := if last then 0 else r.phaseIndex + 1
  { r with
    phaseIndex := i
    phaseEnd := s.tick + BitVec.ofNat 32 ((s.phasesOf r.seg).getD i Phase.none).duration
    repeatsDone := if last then satSucc 255 r.repeatsDone else r.repeatsDone
    endedPhase := some r.phaseIndex }

/-- A phase end tick is reached (R29): the segment ends if any cause of R34 falls at this tick, else the next phase, or phase 0
of the next pass, is applied. -/
def State.phaseEnd (s : State) (l : Fin 4) : State :=
  match (s.lane l).state with
  | .running r =>
    if r.phaseEnd = s.tick then
      match s.endCause r with
      | some st => s.endSegment l r st
      | none =>
        let n := s.nextPhase r
        (s.updLane l fun ln => { ln with state := .running n }).applyPhase l
          ((s.phasesOf r.seg).getD n.phaseIndex Phase.none) r.seg.period
    else s
  | _ => s

/-- A timeout tick is reached (R33, R34). -/
def State.segmentTimeout (s : State) (l : Fin 4) : State :=
  match (s.lane l).state with
  | .running r => if r.timeoutTick = some s.tick then s.endIfDue l else s
  | _ => s

/-- The current stop met on this tick's sample is taken (R31, R34). -/
def State.currentStop (s : State) (l : Fin 4) : State :=
  match (s.lane l).state with
  | .running r => if r.stopMet then s.endIfDue l else s
  | _ => s

/-- The change of a filtered input reaches a running segment whose stop names the input (R32, R143). -/
def State.inputStop (s : State) (i : Fin 4) (l : Fin 4) : State :=
  match (s.lane l).state with
  | .running r => if (r.seg.inputStop.map (·.input)) = some i ∧ s.inputStopMet r then s.endIfDue l else s
  | _ => s

/-! ### Holds and gate timeouts -/

/-- The hold timer of a lane reaches zero (R38). -/
def State.holdExpiry (s : State) (l : Fin 4) : State :=
  if (s.lane l).holdTimer = some 0 then
    match (s.lane l).state with
    | .holding =>
      ((s.laneOff l).updLane l fun ln =>
        { ln with state := .idle, holdTimer := none, expiryCount := satSucc 255 ln.expiryCount }).startTest l
    | .gated =>
      (s.laneOff l).updLane l fun ln =>
        { ln with resume := .idle, holdTimer := none, expiryCount := satSucc 255 ln.expiryCount }
    | _ => s
  else s

/-- The state a resume state names. -/
def Resume.state : Resume → LaneState
  | .idle => .idle
  | .holding => .holding

/-- A lane of the arrival set takes the expiry of its gate's wait timer (R65). -/
def State.gateTimeoutLane (s : State) (g : Fin 4) (l : Fin 4) : State :=
  match (s.lane l).queue with
  | [] => s
  | x :: rest =>
    let c := neverStarted x.origin .gateTimeout (some l) (g.val + 1)
    let s := (s.releaseSlot x).updLane l fun ln =>
      { ln with queue := rest, outbox := ln.outbox ++ [c], state := ln.resume.state }
    (s.startTest l).readinessNotice l

/-- The wait timer of a gate reaches zero (R65): the lanes of the arrival set take it in the order of their numbers. -/
def State.gateTimeout (s : State) (g : Fin 4) : State :=
  if (s.gate g).waitTimer = some 0 then
    let set := (s.gate g).arrivals
    allLanes.foldl (fun s l => if set.getLsbD l.val then s.gateTimeoutLane g l else s)
      (s.updGate g fun x => { x with arrivals := 0, waitTimer := none })
  else s

/-! ### Flushing a lane: HALT and the loss of the permit -/

/-- The completions of a lane's work when it is flushed, in the order of R41 and R89: the running segment (detail 1), the gated
head (detail 2), the queued segments (detail 0). -/
def State.flushCompletions (s : State) (l : Fin 4) (st : Status) : List Completion :=
  let ln := s.lane l
  let queued := ln.queue.map fun g => neverStarted g.origin st (some l) 0
  match ln.state with
  | .running r => s.ranCompletion l r st 1 :: queued
  | .gated =>
    match ln.queue with
    | [] => []
    | g :: rest => neverStarted g.origin st (some l) 2 :: rest.map fun g => neverStarted g.origin st (some l) 0
  | _ => queued

/-- The segments a lane holds: the running one and the queue. -/
def Lane.segments (ln : Lane) : List Segment :=
  match ln.state with
  | .running r => r.seg :: ln.queue
  | _ => ln.queue

/-- The state of a lane after a flush: HELD stays HELD, any other bound lane becomes IDLE (R41, R89). -/
def LaneState.afterFlush : LaneState → LaneState
  | .held => .held
  | .unbound => .unbound
  | _ => .idle

/-- A lane gives up all its work with a status (R41, R89): its channels go OFF, the hold timer stops, it leaves its gate, every
segment gives its slot up and the completions join the outbox. -/
def State.flushLane (s : State) (l : Fin 4) (st : Status) (offset : Nat := 0) : State :=
  let cs := s.flushCompletions l st
  let gs := (s.lane l).segments
  (((s.leaveGates l).laneOff l offset).releaseSlots gs).updLane l fun ln =>
    { ln with state := ln.state.afterFlush, queue := [], holdTimer := none, outbox := ln.outbox ++ cs }

/-- A lane takes a delivered HALT (R41): the flush, then the HALT's own DONE with the number of segments aborted. -/
def State.takeHalt (s : State) (l : Fin 4) (o : Origin) (offset : Nat := 0) : State :=
  let n := (s.flushCompletions l .aborted).length
  (((s.flushLane l .aborted offset).addOutbox l [neverStarted o .done (some l) n]).startTest l).readinessNotice l

/-- A bound lane takes the loss of the permit (R89): each DISABLED completion is a lane fault (R47). -/
def State.disableLane (s : State) (l : Fin 4) : State :=
  if (s.lane l).state = .unbound then s
  else
    let faults := !(s.flushCompletions l .disabled).isEmpty
    let s := s.flushLane l .disabled
    (if faults then s.laneFault l else s).readinessNotice l

/-- A valid segment reaches its lane (R25): it joins the queue, or, while the permit is off, is completed DISABLED at once. -/
def State.deliverSegment (s : State) (l : Fin 4) (g : Segment) : State :=
  if s.permitOn then
    ((s.holdSlot g).updLane l fun ln => { ln with queue := ln.queue ++ [g] }).startTest l
  else (s.addOutbox l [neverStarted g.origin .disabled (some l) 0]).laneFault l

/-! ### Trips and re-arming, as a lane takes them -/

/-- Every channel of the lane goes OFF, the hold is dropped and the lane becomes HELD (R78). -/
def State.holdLane (s : State) (l : Fin 4) (offset : Nat := 0) : State :=
  (s.laneOff l offset).updLane l fun ln => { ln with state := .held, holdTimer := none }

/-- A lane takes a domain trip (R78). -/
def State.laneTrip (s : State) (l : Fin 4) (c : Fin 6) (offset : Nat := 0) : State :=
  match (s.lane l).state with
  | .unbound => s
  | .held => s
  | .idle => s.updLane l fun ln => { ln with state := .held }
  | .holding => s.holdLane l offset
  | .gated => (s.leaveGates l).holdLane l offset
  | .running r =>
    (((s.holdLane l offset).releaseSlot r.seg).addOutbox l [s.ranCompletion l r .tripped c.val]).laneFault l

/-- A HELD lane is handed a re-arming (R84). -/
def State.leaveHeld (s : State) (l : Fin 4) : State :=
  if (s.lane l).state = .held ∧ s.domainsArmed l then (s.updLane l fun ln => { ln with state := .idle }).startTest l else s

end Sys2Proof.Machine
end

