-- ==== Sys2Proof/Machine/Protection.lean ====
section
/-! DEFINITION. The domain unit and the drive permit monitor (chapter 5): trips of a domain, and the changes of the permit. -/

namespace Sys2Proof.Machine

/-- The cause of a channel trip (R74). -/
inductive TripCause where
  | overcurrent
  | short
deriving DecidableEq, Repr

/-- The code of a trip cause in an event (R129). -/
def TripCause.code : TripCause → Nat
  | .overcurrent => 1
  | .short => 2

/-- The domain of a channel: each channel belongs to exactly one (R77). -/
def State.domainOf (s : State) (c : Fin 6) : Option (Fin 3) :=
  allDomains.find? fun d => (s.domain d).members.getLsbD c.val

/-- The trip count and state of an ARMED domain after a trip (R77). -/
def Domain.trip (d : Domain) : Domain :=
  let n := satSucc 255 d.tripCount
  { d with tripCount := n, state := if d.tripLimit ≠ 0 ∧ d.tripLimit ≤ n then .locked else .tripped }

/-- The lanes that meet a domain take its trip, in lane order (R77, R78). -/
def State.tripLanes (s : State) (d : Fin 3) (c : Fin 6) (offset : Nat := 0) : State :=
  allLanes.foldl (fun s l => if s.meetsDomain l d then s.laneTrip l c offset else s) s

/-- An ARMED domain trips (R77): count and state, its channels OFF, its lanes, the event, the capture writer. -/
def State.tripDomain (s : State) (d : Fin 3) (c : Fin 6) (cause : TripCause) (offset : Nat := 0) : State :=
  let s := s.updDomain d Domain.trip
  let s := (s.setOff (s.domain d).members offset).tripLanes d c offset
  (s.recordEvent (domainTripSource d)
    { first := c.val, second := cause.code, third := (s.domain d).state.code }).tripFreeze

/-- The domain unit takes a channel trip (R74): it has an effect on an ARMED domain alone. -/
def State.channelTrip (s : State) (c : Fin 6) (cause : TripCause) (offset : Nat := 0) : State :=
  match s.domainOf c with
  | none => s
  | some d => if (s.domain d).state = .armed then s.tripDomain d c cause offset else s

/-- The overcurrent report of a channel that has tripped on this tick's sample is taken, whatever the channel's drive is by then
(R72, R74). -/
def State.overcurrentTrip (s : State) (c : Fin 6) : State :=
  if s.tripsDue.contains c then { s with tripsDue := s.tripsDue.filter (· != c) }.channelTrip c .overcurrent else s

/-- Every HELD lane is handed a re-arming, in lane order (R82 to R84). -/
def State.rearmLanes (s : State) : State := allLanes.foldl (fun s l => s.leaveHeld l) s

/-- A change of the permit is an occurrence of DRIVE_PERMIT (R88); its stored detail is not used (R129). -/
def State.permitEvent (s : State) : State := s.recordEvent drivePermitSource { first := 0, second := 0, third := 0 }

/-- The permit changes from ON to OFF (R89). -/
def State.permitLoss (s : State) : State :=
  (allLanes.foldl (fun s l => s.disableLane l) (s.setOff 0x3F)).permitEvent

/-- The permit changes from OFF to ON (R90): IDLE lanes make the start test. -/
def State.permitReturn (s : State) : State :=
  allLanes.foldl (fun s l => if (s.lane l).state = .idle then s.startTest l else s) s.permitEvent

/-- The permit monitor takes new filtered states, and the lanes take the change of the permit if there is one (R88). -/
def State.setPermit (s : State) (p : PermitMonitor) : State :=
  let t := { s with permit := p }
  if s.permitOn && !t.permitOn then t.permitLoss
  else if !s.permitOn && t.permitOn then t.permitReturn
  else t

/-- The fifth differing ENABLE sample changes the filtered ENABLE state (R86). -/
def State.enableChange (s : State) : State :=
  if s.permit.enableDue then
    s.setPermit { s.permit with enableHigh := !s.permit.enableHigh, enableCount := 0, enableDue := false }
  else s

/-- The fifth counting VS sample changes the filtered supply state (R87). -/
def State.supplyChange (s : State) : State :=
  if s.permit.supplyDue then
    s.setPermit { s.permit with supplyGood := !s.permit.supplyGood, supplyCount := 0, supplyDue := false }
  else s

/-- The third differing sample changes a sense input's filtered state, which is reported to the running segments (R143). -/
def State.senseChange (s : State) (i : Fin 4) : State :=
  if (s.senseInput i).due then
    (allLanes.foldl (fun s l => s.inputStop i l) s).updSenseInput i fun x => { high := !x.high, count := 0, due := false }
  else s

end Sys2Proof.Machine
end

