-- ==== Sys2Proof/Machine/Posting.lean ====
section
/-! DEFINITION. The posting engine (chapter 7): the pending list, the choice of a CQ, the writing of completion and event
records, interrupt coalescing, and RELEASE of a completion ring. -/

namespace Sys2Proof.Machine

/-! ### Causes -/

/-- The CAUSE bit of a CQ: bit 0 or 1 (R135). -/
def cqCause (q : Fin 2) : BitVec 3 := 1#3 <<< q.val

/-- The CAUSE bit of the engine (R135). -/
def engineCause : BitVec 3 := 4#3

/-- A CAUSE bit is set (R132, R135). -/
def State.setCause (s : State) (bits : BitVec 3) : State := { s with cause := s.cause ||| bits }

/-! ### Engine stop and the hand-over of completions -/

/-- A STOPPING engine becomes STOPPED when the fetch engine is IDLE (R117). -/
def State.settleStop (s : State) : State :=
  if s.engine = .stopping ∧ s.fetch = .idle then { s with engine := .stopped } else s

/-- The pending list has a free place (R123). -/
def State.listHasRoom (s : State) : Bool := decide (s.pendingList.length < Config.pendingMax)

/-- A completion joins the tail of the pending list (R123). -/
def State.addPending (s : State) (c : Completion) : State := { s with pendingList := s.pendingList ++ [c] }

/-- The fetch engine hands over a completion it has made: accepted at once, or held in WAIT_POST (R105, R124). -/
def State.offer (s : State) (c : Completion) : State :=
  if s.listHasRoom then ({ s.addPending c with fetch := .idle }).settleStop else { s with fetch := .waitPost c }

/-- The pending list accepts the completion held in WAIT_POST (R107). -/
def State.acceptHeld (s : State) : State :=
  match s.fetch with
  | .waitPost c => if s.listHasRoom then s.offer c else s
  | _ => s

/-- The fetch engine holds a completion, which goes ahead of the outboxes (R124). -/
def FetchState.holdsCompletion : FetchState → Bool
  | .waitPost _ => true
  | _ => false

/-- The first of the four numbers after p, in rotating order, that has a property (R108, R124). -/
def rotateFrom (p : Fin 4) (f : Fin 4 → Bool) : Option (Fin 4) := [p + 1, p + 2, p + 3, p].find? f

/-- The lane whose outbox the posting engine takes from next (R124). -/
def State.outboxTurn (s : State) : Option (Fin 4) :=
  if s.listHasRoom && !s.fetch.holdsCompletion then rotateFrom s.lanePointer fun l => !(s.lane l).outbox.isEmpty else none

/-- The oldest entry of a lane's outbox moves into the pending list (R15, R124): the lane's readiness is told, and when the last
entry has left the lane makes the start test. -/
def State.takeOutbox (s : State) (l : Fin 4) : State :=
  match (s.lane l).outbox with
  | [] => s
  | c :: rest =>
    let s := ({ s with lanePointer := l }.addPending c).updLane l fun ln => { ln with outbox := rest }
    (s.readinessNotice l).startTest l

/-- The posting engine accepts an outbox entry, if a producer's turn has come (R124). -/
def State.acceptOutbox (s : State) : State :=
  match s.outboxTurn with
  | some l => s.takeOutbox l
  | none => s

/-! ### Choosing and writing -/

/-- The pending event of the lowest source number (R125). -/
def State.firstEvent (s : State) : Option (Fin 12) := allSources.find? fun e => (s.event e).isSome

/-- The oldest completion of a list tied to a CQ (R125). -/
def oldestFor (q : Fin 2) (cs : List Completion) : Option Completion := cs.find? fun c => c.origin.cq == q

/-- What the posting engine writes into a CQ next (R125): for the event CQ the first pending event, then the oldest completion;
for the other CQ the oldest completion. -/
inductive PostItem where
  | event (e : Fin 12)
  | completion (c : Completion)
deriving DecidableEq, Repr

/-- The item a CQ has to write, if any (R125). -/
def State.itemFor (s : State) (q : Fin 2) : Option PostItem :=
  match (if s.eventCq = some q then s.firstEvent else none) with
  | some e => some (.event e)
  | none => (oldestFor q s.pendingList).map .completion

/-- A CQ is a candidate: it has a geometry and room, and something to write (R125, R126). -/
def State.candidate (s : State) (q : Fin 2) : Option PostItem :=
  if (s.cq q).hasGeometry && (s.cq q).hasRoom then s.itemFor q else none

/-- The CQ the posting engine writes next, with what it writes (R125): the CQ not written last when both are candidates. -/
def State.nextPost (s : State) : Option (Fin 2 × PostItem) :=
  if s.postingHeld then none
  else
    match s.candidate (s.cqTurn + 1), s.candidate s.cqTurn with
    | some i, _ => some (s.cqTurn + 1, i)
    | none, some i => some (s.cqTurn, i)
    | none, none => none

/-- A CQ context after a record has been written (R120, R132, R133). -/
def Cq.advance (q : Cq) : Cq :=
  let tail := (q.tail + 1) % q.size
  let full := q.unsignalled + 1 = q.coalCount
  { q with
    tail := tail
    phaseTag := if tail = 0 then !q.phaseTag else q.phaseTag
    unsignalled := if full then 0 else q.unsignalled + 1
    delayTimer :=
      if full then none
      else if q.unsignalled = 0 ∧ q.coalDelay ≠ 0 then some (10 * q.coalDelay)
      else q.delayTimer }

/-- Writes 16 bytes at a CQ's tail in one access (R120), with what coalescing makes of it (R132). -/
def State.writeCq (s : State) (q : Fin 2) (record : List Byte) : State :=
  let x := s.cq q
  let s := { s with xm := Memory.writeBytes s.xm (x.base + 16 * x.tail) record, rotation := .posting, cqTurn := q }
  let s := s.updCq q Cq.advance
  if x.unsignalled + 1 = x.coalCount then s.setCause (cqCause q) else s

/-- The detail of an event as it is written: DRIVE_PERMIT carries the permit and its cause at the write (R129). -/
def State.eventDetail (s : State) (e : Fin 12) (d : EventDetail) : EventDetail :=
  if e = drivePermitSource then { first := bit s.permitOn, second := s.permitCause, third := 0 } else d

/-- Writes the event of a source and clears its pending flag (R130). -/
def State.writeEvent (s : State) (q : Fin 2) (e : Fin 12) : State :=
  match s.event e with
  | none => s
  | some o =>
    (s.writeCq q (eventBytes e o.count (s.eventDetail e o.detail) o.first (s.cq q).phaseTag)).updEvent e fun _ => none

/-- Writes a completion of the pending list, which leaves it (R125). -/
def State.writeCompletion (s : State) (q : Fin 2) (c : Completion) : State :=
  let s := s.writeCq q (completionBytes c (s.cq q).phaseTag)
  { s with pendingList := s.pendingList.eraseP fun x => x.origin.cq == q }

/-- A CQ's delay timer expires (R133). -/
def State.delayExpiry (s : State) (q : Fin 2) : State :=
  if (s.cq q).delayTimer = some 0 then
    let signal := decide (0 < (s.cq q).unsignalled)
    let s := s.updCq q fun x => { x with unsignalled := 0, delayTimer := none }
    if signal then s.setCause (cqCause q) else s
  else s

/-- A RELEASE of a completion ring is not acceptable (R122). -/
def Cq.releaseBad (q : Cq) (p : Nat) : Bool :=
  !q.hasGeometry || decide (q.size ≤ p) || !inForwardRange q.size q.hostHead q.tail p

/-- RELEASE of a completion ring (R122). -/
def State.releaseCq (s : State) (q : Fin 2) (p : Nat) : State :=
  if (s.cq q).releaseBad p then { s with releaseError := true } else s.updCq q fun x => { x with hostHead := p }

end Sys2Proof.Machine
end

