-- ==== Sys2Proof/Machine/Time.lean ====
section
/-! DEFINITION. The tick (R1): the counters and timers that advance, the samples that are delivered and tested, and the taking
of events that fall due at a tick. -/

namespace Sys2Proof.Machine

/-! ### Due events -/

/-- Takes a due event; one that is not due changes nothing (notes/assumptions/1.md). -/
def State.takeDue (s : State) : DueEvent → State
  | .currentStop l => s.currentStop l
  | .overcurrentTrip c => s.overcurrentTrip c
  | .enableChange => s.enableChange
  | .supplyChange => s.supplyChange
  | .senseChange i => s.senseChange i
  | .segmentTimeout l => s.segmentTimeout l
  | .phaseEnd l => s.phaseEnd l
  | .holdExpiry l => s.holdExpiry l
  | .gateTimeout g => s.gateTimeout g
  | .captureInstant n => s.captureInstant n
  | .delayExpiry q => s.delayExpiry q

/-- Takes due events in an order. -/
def State.takeAll (s : State) (es : List DueEvent) : State := es.foldl State.takeDue s

/-- What the samples of a tick can bring (R31, R72). -/
def sampleEvents : List DueEvent := allChannels.map .overcurrentTrip ++ allLanes.map .currentStop

/-- Every event that can fall due, in the order in which a tick that is over takes what is left (notes/assumptions/2.md). -/
def dueOrder : List DueEvent :=
  sampleEvents ++ [.enableChange, .supplyChange] ++ allLanes.map .senseChange ++ allLanes.map .segmentTimeout ++ allLanes.map .phaseEnd ++
    allLanes.map .holdExpiry ++ allLanes.map .gateTimeout ++ allPairs.map .captureInstant ++ allPairs.map .delayExpiry

/-! ### The counters -/

/-- A running segment one tick later (R28, R30). -/
def Running.advance (r : Running) : Running :=
  { r with elapsed := satSucc 4294967295 r.elapsed, endedPhase := none }

/-- A lane state one tick later. -/
def LaneState.advance : LaneState → LaneState
  | .running r => .running r.advance
  | x => x

/-- The tick counter and every timer advance by one tick (R1, R37, R63, R133). -/
def State.advance (s : State) : State :=
  let s := { s with tick := s.tick + 1 }
  let s := s.mapLanes fun _ ln => { ln with state := ln.state.advance, holdTimer := countDown ln.holdTimer }
  let s := s.mapChannels fun _ ch => ch.rebase s.tick
  let s := s.mapGates fun _ g => { g with waitTimer := countDown g.waitTimer }
  s.mapCqs fun _ q => { q with delayTimer := countDown q.delayTimer }

/-! ### The samples -/

/-- A current as delivered: clamped to the range (R142). -/
def clampCurrent (i : Int) : Int := max (-Config.currentRange) (min Config.currentRange i)

/-- The samples of a tick (R142). -/
def samplesOf (p : PinSample) : Vector Int 6 :=
  #v[clampCurrent p.currents[0], clampCurrent p.currents[1], clampCurrent p.currents[2], clampCurrent p.currents[3],
    clampCurrent p.currents[4], clampCurrent p.currents[5]]

/-- The largest magnitude among the channels of a set (R30). -/
def peakOf (samples : Vector Int 6) (set : ChannelSet) : Nat :=
  allChannels.foldl (fun m c => if set.getLsbD c.val then max m samples[c].natAbs else m) 0

/-- A current stop is met by a magnitude (R31). -/
def CurrentStop.metBy (x : CurrentStop) (magnitude : Nat) : Bool :=
  match x.direction with
  | .riseAbove => decide (x.threshold < magnitude)
  | .fallBelow => decide (magnitude < x.threshold)

/-- A running segment takes a sample (R30, R31): the samples taken, the peak, and its current stop once past blanking. -/
def Running.sample (r : Running) (samples : Vector Int 6) (owned : ChannelSet) : Running :=
  { r with
    samples := r.samples + 1
    peak := max r.peak (peakOf samples owned)
    stopMet :=
      match r.seg.currentStop with
      | none => false
      | some x => decide (x.blanking < r.samples + 1) && x.metBy samples[x.channel].natAbs }

/-- A lane state after a sample. -/
def LaneState.sample (st : LaneState) (samples : Vector Int 6) (owned : ChannelSet) : LaneState :=
  match st with
  | .running r => .running (r.sample samples owned)
  | x => x

/-- A sample of a channel counts against its trip threshold (R72). -/
def Channel.overThreshold (c : Channel) (current : Int) : Bool := c.driven && decide (c.threshold < current.natAbs)

/-- A sample makes a channel trip: the second of two consecutive ones over the threshold (R72). -/
def Channel.trips (c : Channel) (current : Int) : Bool := c.overThreshold current && c.overCount

/-- The over-count after a sample (R72). -/
def Channel.sample (c : Channel) (current : Int) : Channel :=
  { c with overCount := c.overThreshold current && !c.overCount }

/-- The channels that trip on the samples of a tick. -/
def State.tripping (s : State) (samples : Vector Int 6) : List (Fin 6) :=
  allChannels.filter fun c => (s.channel c).trips samples[c]

/-- A filter after a sample: its count, and whether its change is due (R86, R87, R143). -/
def filterCount (bound : Nat) (differs : Bool) (count : Nat) : Nat × Bool :=
  if differs then (if bound ≤ count + 1 then (count, true) else (count + 1, false)) else (0, false)

/-- The permit monitor samples ENABLE and VS (R86, R87). -/
def PermitMonitor.sample (p : PermitMonitor) (enable : Bool) (supply : Nat) : PermitMonitor :=
  let e := filterCount Config.permitSamples (enable != p.enableHigh) p.enableCount
  let v := filterCount Config.permitSamples
    (if p.supplyGood then decide (supply < Config.supplyLow) else decide (Config.supplyGood < supply)) p.supplyCount
  { p with enableCount := e.1, enableDue := e.2, supplyCount := v.1, supplyDue := v.2 }

/-- A sense input is sampled (R143). -/
def SenseInput.sample (x : SenseInput) (level : Bool) : SenseInput :=
  let f := filterCount Config.senseSamples (level != x.high) x.count
  { x with count := f.1, due := f.2 }

/-- The samples of a tick are delivered (R142, R143, R86, R87): the last-sample store, the running segments, the over-counts and
the filters take them. -/
def State.observe (s : State) (p : PinSample) : State :=
  let samples := samplesOf p
  let s := { s with lastSample := samples, permit := s.permit.sample p.enable p.supply }
  let s := s.mapSenseInputs fun i x => x.sample p.sense[i]
  let s := s.mapLanes fun _ ln => { ln with state := ln.state.sample samples ln.owned }
  s.mapChannels fun c ch => ch.sample samples[c]

/-- What the samples of a tick bring and its order does not leave for later. -/
def samplesTaken (o : TickOrder) : List DueEvent := sampleEvents.filter fun e => !o.late.contains e

/-- One tick (R1): what was left due is taken, the counters advance, the samples are delivered, and what they bring is taken in
the order given. Which channels trip depends on their drive during the tick that ends (R72). -/
def State.tickStep (s : State) (p : PinSample) (o : TickOrder) : State :=
  let s := s.takeAll dueOrder
  ({ s.advance.observe p with tripsDue := s.tripping (samplesOf p) }.takeAll o.first).takeAll (samplesTaken o)

/-- The samples of tick 0 after a reset (R142, R143): after a power-on or pin reset each sense input takes its level, after a
soft reset its filter goes on. -/
def State.firstSamples (s : State) (p : PinSample) (takeLevels : Bool) : State :=
  let s := if takeLevels then s.mapSenseInputs fun i _ => { high := p.sense[i], count := 0, due := false } else s
  s.observe p

end Sys2Proof.Machine
end

