-- ==== Sys2Proof/Machine/Fetch.lean ====
section
/-! DEFINITION. The fetch engine, its arbiter and the engine (chapter 6): accesses to exchange memory, the choice of an SQ, the
record check, consumption, blocking, POST, and the start and stop of the engine. -/

namespace Sys2Proof.Machine

/-! ### Accesses of the fetch engine, the pattern loader and the snapshot writer (R166) -/

/-- Reads one aligned span for an agent: the 16 bytes, with the rotation position at the agent (R166). -/
def State.spanAt (s : State) (a : Nat) : List Byte := Memory.readBytes s.xm a 16

/-- The offset of the next span of the record that the fetch engine reads (R100). -/
def State.recordOffset (s : State) (q : Fin 4) (got : List Byte) : Nat := (s.sq q).base + 64 * (s.sq q).head + got.length

/-- One access of whichever of these agents is at work: a span of the configuration block (R114), of a command record (R100) or
of a pattern image (R53), or one of the eight writes of a snapshot (R138). -/
def State.fetchTurn (s : State) : State :=
  match s.configRead with
  | some got =>
    if got.length < 80 then { s with configRead := some (got ++ s.spanAt got.length), rotation := .fetch } else s
  | none =>
    match s.fetch with
    | .reading q got false =>
      if got.length < 64 then
        { s with fetch := .reading q (got ++ s.spanAt (s.recordOffset q got)) false, rotation := .fetch }
      else s
    | .loading slot src o got =>
      if imageVerdict src got = .more then
        { s with fetch := .loading slot src o (got ++ s.spanAt (src / 16 * 16 + got.length)), rotation := .loader }
      else s
    | .snapshotting target o picture taken =>
      if taken < 8 then
        { s with
          xm := Memory.writeBytes s.xm (target + 16 * taken) ((picture.drop (16 * taken)).take 16)
          fetch := .snapshotting target o picture (taken + 1)
          rotation := .snapshot }
      else s
    | _ => s

/-- The agent of the fetch side that has an access to make, if one is at work (R100, R114, R53, R138). -/
def State.fetchAgent (s : State) : Option XmAgent :=
  match s.configRead, s.fetch with
  | some got, _ => if got.length < 80 then some .fetch else none
  | none, .reading _ got false => if got.length < 64 then some .fetch else none
  | none, .loading _ src _ got => if imageVerdict src got = .more then some .loader else none
  | none, .snapshotting _ _ _ taken => if taken < 8 then some .snapshot else none
  | none, _ => none

/-- A read frame has shifted out all that it has been asked for. -/
def OpenRead.done (o : OpenRead) : Bool := o.want == 0 && o.bits == 0

/-- A read frame needs an access to exchange memory before it shifts out more (R161). -/
def OpenRead.needsAccess (o : OpenRead) : Bool := !o.done && o.held.isEmpty && decide (o.addr.toNat < Config.xmSize)

/-- The link has an access to make: a chunk of a write, or a span of a read that no longer waits (R161, R163, R164). -/
def State.linkAccess (s : State) : Bool :=
  match s.linkQueue with
  | [] => s.openRead.any OpenRead.needsAccess
  | .chunk _ _ :: _ => true
  | .read o :: _ => o.needsAccess
  | _ => false

/-- An agent has an access to make (R166). A sample instant that is due counts as one of the capture writer's, be it one that only
drops its sample: the model's choice (notes/assumptions/8.md). -/
def State.hasAccess (s : State) (a : XmAgent) : Bool :=
  match a with
  | .link => s.linkAccess
  | .posting => s.nextPost.isSome
  | .capture => s.instantDue 0 || s.instantDue 1
  | a => s.fetchAgent == some a

/-- The place of an agent in the order of R166. -/
def agentIndex : XmAgent → Fin 6
  | .link => 0
  | .fetch => 1
  | .loader => 2
  | .snapshot => 3
  | .posting => 4
  | .capture => 5

/-- How far an agent stands from the rotation position, the agent after it being at 0 (R166). -/
def State.turnOf (s : State) (a : XmAgent) : Nat := (agentIndex a - agentIndex s.rotation - 1).val

/-- The arbiter takes an agent's access while others wait: none of them stands before it in rotating order (R166). An agent that
has no access to make does not wait (notes/assumptions/8.md). -/
def State.serves (s : State) (a : XmAgent) (waiting : List XmAgent) : Bool :=
  (waiting.filter s.hasAccess).all fun b => decide (s.turnOf a ≤ s.turnOf b)

/-- The fetch side has an access to make, and the arbiter takes it while others wait (R166). -/
def State.fetchServed (s : State) (waiting : List XmAgent) : Bool :=
  match s.fetchAgent with
  | some a => s.serves a waiting
  | none => false

/-- Up to so many accesses of the fetch side, one after another, as long as no other waiting agent comes first (R166). -/
def State.iterateTurns (waiting : List XmAgent) : Nat → State → State
  | 0, s => s
  | n + 1, s => if s.fetchServed waiting then State.iterateTurns waiting n s.fetchTurn else s

/-- The number of accesses after which each of these agents has finished: a pattern image needs the most, 9 (R53). -/
def maxTurns : Nat := 9

/-- A number of accesses of the fetch side taken before something else, while no other agent waited (R167); no agent has more than
`maxTurns` to take. -/
def State.fetchTurns (s : State) (n : Nat) : State := State.iterateTurns [] (min n maxTurns) s

/-- An agent's access after those of the fetch side that the arbiter took before it; where another waiting agent comes first in
rotation, this is not the access that the arbiter takes, and nothing happens (R166; notes/assumptions/1.md). -/
def State.withAccess (s : State) (a : XmAgent) (x : Access) (f : State → State) : State :=
  let u := s.fetchTurns x.turns
  if u.serves a x.waiting then f u else s

/-! ### Arbitration (R108, R109) -/

/-- The eligible URGENT SQ that is served next (R108). -/
def State.urgentChoice (s : State) : Option (Fin 4) :=
  rotateFrom s.urgentPointer fun q => (s.sq q).eligible && (s.sq q).cls == .urgent

/-- The NORMAL SQ that is served next, with the burst credit that is left (R109). While no NORMAL SQ is eligible nothing is
chosen, and the credit stands (notes/assumptions/23.md). -/
def State.normalChoice (s : State) : Option (Fin 4 × Nat) :=
  let ok := fun q => (s.sq q).eligible && (s.sq q).cls == .normal
  if 0 < s.burstCredit ∧ ok s.normalPointer then some (s.normalPointer, s.burstCredit - 1)
  else (rotateFrom s.normalPointer ok).map fun q => (q, (s.sq q).weight - 1)

/-- The arbiter chooses an SQ for an IDLE fetch engine of a RUNNING engine, which begins to read its head record (R104, R108). -/
def State.arbitrate (s : State) : State :=
  if s.engine = .running ∧ s.fetch = .idle then
    match s.urgentChoice with
    | some q => { s with urgentPointer := q, fetch := .reading q [] false }
    | none =>
      match s.normalChoice with
      | some (q, credit) => { s with normalPointer := q, burstCredit := credit, fetch := .reading q [] false }
      | none => s
  else s

/-! ### Consumption (R105) -/

/-- The head of an SQ after the consumption of its head record (R105). -/
def Sq.nextHead (q : Sq) : Nat := (q.head + 1) % q.size

/-- An SQ after the consumption of its head record (R105). -/
def Sq.consume (q : Sq) : Sq :=
  { q with
    head := q.nextHead
    expected := (q.expected + 1) % 256
    state := if q.nextHead = q.tail then .empty else q.state }

/-- A record of an SQ is consumed (R105). -/
def State.consume (s : State) (q : Fin 4) : State := s.updSq q Sq.consume

/-- The identity a completion of the head record of an SQ carries (R105). -/
def State.originOf (s : State) (q : Fin 4) (r : List Byte) : Origin where
  tag := recordTag r
  kind := completionKind (recordKind r)
  sq := q
  sqHead := (s.sq q).nextHead
  cq := (s.sq q).target

/-- The fetch engine has handled a record and is IDLE again (R104, R117). -/
def State.fetchIdle (s : State) : State := ({ s with fetch := .idle }).settleStop

/-- A record is consumed and completed by the fetch engine, with the never-started progress values (R105). -/
def State.refuse (s : State) (q : Fin 4) (r : List Byte) (st : Status) (lane : Option (Fin 4)) (detail : Nat) : State :=
  (s.consume q).offer (neverStarted (s.originOf q r) st lane detail)

/-- An SQ whose head record is for a lane that is not ready becomes BLOCKED; nothing is consumed (R110). -/
def State.block (s : State) (q : Fin 4) (l : Fin 4) (k : LaneKind) : State :=
  (s.updSq q fun x => { x with state := .blocked l k }).fetchIdle

/-- An SQ faults on its head record; nothing is consumed (R100, R101, R103). -/
def State.faultSq (s : State) (q : Fin 4) (d : EventDetail) : State :=
  ((s.updSq q fun x => { x with state := .faulted }).recordEvent (queueFaultSource q) d).fetchIdle

/-! ### The record check (R100 to R102) -/

/-- A record that has passed CRC and sequence is classified (R102). -/
def State.classify (s : State) (q : Fin 4) (r : List Byte) : State :=
  let k := recordKind r
  if isOpenKind k ∨ (isControlKind k ∧ q = 0) then { s with fetch := .reading q r true }
  else if isControlKind k then s.refuse q r .refusedQueue none 0
  else s.refuse q r .badKind none 0

/-- The checks of a record that has been read whole (R100 to R102). -/
def State.checkRecord (s : State) (q : Fin 4) (r : List Byte) : State :=
  if !recordCrcOk r then
    s.faultSq q { first := 1, second := (s.sq q).head, third := (recordCheck r).toNat }
  else if recordSequence r ≠ (s.sq q).expected then
    s.faultSq q { first := 2, second := (s.sq q).expected, third := recordSequence r }
  else s.classify q r

/-- The four reads of a command record end, and the record is checked (R100). While another agent comes first at one of them, they
have not ended (R166). -/
def State.finishRead (s : State) (waiting : List XmAgent) : State :=
  match s.fetch with
  | .reading _ _ false =>
    let s := s.iterateTurns waiting 4
    match s.fetch with
    | .reading q r false => if r.length < 64 then s else s.checkRecord q r
    | _ => s
  | _ => s

/-- The checked record the fetch engine holds, if it is of a kind. -/
def State.heldRecord (s : State) (kind : Byte) : Option (Fin 4 × List Byte) :=
  match s.fetch with
  | .reading q r true => if recordKind r = kind then some (q, r) else none
  | _ => none

/-- Handles the checked record of a kind; without one nothing happens (notes/assumptions/1.md). -/
def State.withRecord (s : State) (kind : Byte) (f : Fin 4 → List Byte → State) : State :=
  match s.heldRecord kind with
  | some (q, r) => f q r
  | none => s

/-! ### POST (R95 to R99) -/

/-- A POST write is ignored (R95). -/
def State.postRefused (s : State) (v : BitVec 32) : Bool :=
  s.engine != .running ||
    match asFin 4 (postQueue v) with
    | none => true
    | some q =>
      (s.sq q).state == .absent ||
        match postAction v with
        | 0 => decide ((s.sq q).size ≤ postValue v)
        | 1 => (s.sq q).state != .faulted
        | 2 => false
        | _ => true

/-- An SQ after POST TAIL (R94, R96). -/
def Sq.postTail (q : Sq) (v : Nat) : Sq :=
  { q with
    tail := v
    state :=
      match q.state with
      | .empty => if v = q.head then .empty else .ready
      | .ready => if v = q.head then .empty else .ready
      | x => x }

/-- An SQ after POST RESUME (R97). -/
def Sq.postResume (q : Sq) : Sq := { q with state := if q.head = q.tail then .empty else .ready }

/-- An SQ after POST RESET (R98). -/
def Sq.postReset (q : Sq) : Sq := { q with head := 0, tail := 0, expected := 0, state := .empty }

/-- The fetch engine abandons the read of an SQ's head record, if it is reading one (R96, R99). The read counts as taken when the
record's kind is handled, so a record that has been checked is abandoned too (notes/assumptions/22.md). -/
def State.abandonRead (s : State) (q : Fin 4) : State :=
  match s.fetch with
  | .reading q' _ _ => if q' = q then { s with fetch := .idle } else s
  | _ => s

/-- A POST write is taken by the fetch engine (R95 to R98). -/
def State.post (s : State) (v : BitVec 32) : State :=
  if s.postRefused v then { s with postError := true }
  else
    match asFin 4 (postQueue v), postAction v with
    | some q, 0 =>
      let s := s.updSq q fun x => x.postTail (postValue v)
      if (s.sq q).state = .empty then s.abandonRead q else s
    | some q, 1 => s.updSq q Sq.postResume
    | some q, 2 => (s.updSq q Sq.postReset).abandonRead q
    | _, _ => s

/-! ### Start and stop (R112 to R117) -/

/-- The drain conditions of a START hold, and the engine begins to read the configuration block (R113). -/
def State.startDrained (s : State) : State :=
  if s.engine = .starting ∧ s.configRead = none ∧ s.drained then { s with configRead := some [] } else s

/-- START succeeds with a configuration block (R115). -/
def State.startSuccess (s : State) (b : List Byte) : State :=
  let s := (s.mapSqs fun n _ => sqFromConfig b n).mapCqs fun n _ => cqFromConfig b n
  { s with
    eventCq := asFin 2 (byteAt b 0x40)
    urgentPointer := 3
    normalPointer := 3
    burstCredit := 0
    configError := .none
    engine := .running
    configRead := none }.setCause engineCause

/-- START fails with a config error (R116). -/
def State.startFailure (s : State) (e : ConfigError) : State :=
  { s with engine := .configError, configError := e, configRead := none }.setCause engineCause

/-- The five reads of the configuration block end, and what was read decides the START (R114). While another agent comes first at
one of them, they have not ended (R166). -/
def State.finishConfig (s : State) (waiting : List XmAgent) : State :=
  if s.engine = .starting ∧ s.configRead.isSome then
    let s := s.iterateTurns waiting 5
    let b := s.configRead.getD []
    if b.length < 80 then s
    else if s.configCheck b = .none then s.startSuccess b else s.startFailure (s.configCheck b)
  else s

/-- A CONTROL write's RUN reaches the engine (R112). -/
def State.run (s : State) (run : Bool) : State :=
  match s.engine, run with
  | .stopped, true => { s with engine := .starting, configRead := none }
  | .configError, true => { s with engine := .starting, configRead := none }
  | .starting, false => { s with engine := .stopped, configRead := none }
  | .running, false => ({ s with engine := .stopping }).settleStop
  | _, _ => s

/-- A CONTROL write with SOFT_RESET 0 is taken whole (R169). -/
def State.controlWrite (s : State) (v : BitVec 32) : State :=
  let s := if controlClearErrors v then { s with postError := false, releaseError := false, linkErrors := 0 } else s
  { s with enables := controlEnables v }.run (controlRun v)

/-- A RELEASE write is taken by the owner of its target (R122, R152, R170). -/
def State.release (s : State) (v : BitVec 32) : State :=
  match releaseTarget v with
  | 0 => s.releaseCq 0 (releasePosition v)
  | 1 => s.releaseCq 1 (releasePosition v)
  | 2 => s.releaseCapture 0 (releasePosition v)
  | 3 => s.releaseCapture 1 (releasePosition v)
  | _ => { s with releaseError := true }

/-- A CAUSE write clears each bit written with 1 (R135). -/
def State.clearCause (s : State) (v : BitVec 32) : State := { s with cause := s.cause &&& ~~~causeBits v }

end Sys2Proof.Machine
end

