-- ==== Sys2Proof/Machine/Commands.lean ====
section
/-! DEFINITION. What the fetch engine does with each kind of command record: lane commands (R23, R40) and control commands
(R106). Each takes the SQ, the record as read, and the state, and answers the state after the record's handling. -/

namespace Sys2Proof.Machine

/-! ### Lane commands -/

/-- A SEGMENT record is validated and delivered, refused, or blocks its SQ (R23). -/
def State.handleSegment (s : State) (q : Fin 4) (r : List Byte) : State :=
  match asFin 4 (byteAt r 4) with
  | none => s.refuse q r .badArgument none 0
  | some l =>
    if !(s.lane l).readyFor .segment then s.block q l .segment
    else if (s.lane l).state = .unbound then s.refuse q r .notBound (some l) 0
    else
      match s.segmentCheck l r with
      | some n => s.refuse q r .badSegment (some l) n
      | none => ((s.consume q).deliverSegment l (segmentOf r (s.originOf q r))).fetchIdle

/-- A HALT record is checked and delivered, refused, or blocks its SQ (R40). -/
def State.handleHalt (s : State) (q : Fin 4) (r : List Byte) (offset : Nat := 0) : State :=
  match asFin 4 (byteAt r 4) with
  | none => s.refuse q r .badArgument none 0
  | some l =>
    if !(s.lane l).readyFor .halt then s.block q l .halt
    else if (s.lane l).state = .unbound then s.refuse q r .notBound (some l) 0
    else ((s.consume q).takeHalt l (s.originOf q r) offset).fetchIdle

/-! ### Lane ownership -/

/-- The lowest-numbered channel of a set with a property. -/
def lowestChannel (set : ChannelSet) (f : Fin 6 → Bool) : Option (Fin 6) :=
  allChannels.find? fun c => set.getLsbD c.val && f c

/-- An accepted BIND (R17): owner, channel set, hold limit, expiry count, and HELD if a domain it meets is not ARMED. -/
def State.bindLane (s : State) (l : Fin 4) (set : ChannelSet) (limit : Nat) : State :=
  let s := s.mapChannels fun c ch => if set.getLsbD c.val then { ch with owner := some l } else ch
  let s := s.updLane l fun ln => { ln with owned := set, holdLimit := limit, expiryCount := 0 }
  let st := if s.domainsArmed l then LaneState.idle else LaneState.held
  s.updLane l fun ln => { ln with state := st }

/-- BIND (R17). -/
def State.handleBind (s : State) (q : Fin 4) (r : List Byte) : State :=
  match asFin 4 (byteAt r 4) with
  | none => s.refuse q r .badArgument none 0
  | some l =>
    let set : ChannelSet := BitVec.ofNat 6 (byteAt r 5)
    if 64 ≤ byteAt r 5 then s.refuse q r .badArgument (some l) 0
    else if (s.lane l).state ≠ .unbound then s.refuse q r .busy (some l) 0
    else if set = 0 then s.refuse q r .badArgument (some l) 0
    else
      match lowestChannel set fun c => (s.channel c).owner.isSome with
      | some c => s.refuse q r .conflict (some l) c.val
      | none => (s.bindLane l set (field16 r 6)).refuse q r .done (some l) 0

/-- An accepted UNBIND (R18): the lane's channels OFF and unowned, the hold dropped, the lane UNBOUND. -/
def State.unbindLane (s : State) (l : Fin 4) (offset : Nat := 0) : State :=
  let s := (s.laneOff l offset).mapChannels fun _ ch => if ch.owner = some l then { ch with owner := none } else ch
  s.updLane l fun ln => { ln with state := .unbound, owned := 0, holdTimer := none }

/-- The lane holds work (R18, order 3). -/
def Lane.hasWork (l : Lane) : Bool := l.isRunning || l.state == .gated || !l.queue.isEmpty || !l.outbox.isEmpty

/-- UNBIND (R18). Its completion has detail 0 in every outcome: R18 gives a status and a lane field but no detail, so the 0 is the
model's choice (notes/assumptions/29.md). -/
def State.handleUnbind (s : State) (q : Fin 4) (r : List Byte) (offset : Nat := 0) : State :=
  match asFin 4 (byteAt r 4) with
  | none => s.refuse q r .badArgument none 0
  | some l =>
    if (s.lane l).state = .unbound then s.refuse q r .notBound (some l) 0
    else if (s.lane l).hasWork then s.refuse q r .busy (some l) 0
    else (s.unbindLane l offset).refuse q r .done (some l) 0

/-! ### Limits and domains -/

/-- The trip threshold that a SET_LIMITS record gives a channel. -/
def limitThreshold (r : List Byte) (c : Fin 6) : Nat := field16 r (20 + 2 * c.val)

/-- The BBM interval that a SET_LIMITS record gives a channel. -/
def limitBbm (r : List Byte) (c : Fin 6) : Nat := byteAt r (32 + c.val)

/-- A trip threshold is not acceptable (R75, order 2). -/
def thresholdBad (t : Nat) : Bool := decide (t < 100) || decide (4000 < t) || t % 50 != 0

/-- A BBM interval is not acceptable (R75, order 3). -/
def bbmBad (b : Nat) : Bool := decide (b < 1) || decide (16 < b)

/-- An accepted SET_LIMITS (R75); the over-counts are kept. -/
def State.setLimits (s : State) (r : List Byte) (set : ChannelSet) (offset : Nat := 0) : State :=
  s.mapChannels fun c ch =>
    if set.getLsbD c.val then ch.takeLimits s.tick (limitThreshold r c) (limitBbm r c) offset else ch

/-- SET_LIMITS (R75). -/
def State.handleSetLimits (s : State) (q : Fin 4) (r : List Byte) (offset : Nat := 0) : State :=
  let set : ChannelSet := BitVec.ofNat 6 (byteAt r 4)
  if byteAt r 4 = 0 ∨ 64 ≤ byteAt r 4 then s.refuse q r .badArgument none 0
  else
    match lowestChannel set fun c => thresholdBad (limitThreshold r c) with
    | some c => s.refuse q r .badArgument none (0x10 + c.val)
    | none =>
      match lowestChannel set fun c => bbmBad (limitBbm r c) with
      | some c => s.refuse q r .badArgument none (0x20 + c.val)
      | none => (s.setLimits r set offset).refuse q r .done none 0

/-- The channels a SET_DOMAINS record assigns to a domain (R82). -/
def domainMembers (r : List Byte) (d : Fin 3) : ChannelSet :=
  allChannels.foldl (fun set c => if byteAt r (4 + c.val) = d.val then set ||| (1#6 <<< c.val) else set) 0

/-- The trip limit that a SET_DOMAINS record gives a domain. -/
def domainLimit (r : List Byte) (d : Fin 3) : Nat := byteAt r (10 + d.val)

/-- An accepted SET_DOMAINS (R82): assignment, limits, every domain ARMED with count 0, and HELD lanes released. -/
def State.setDomains (s : State) (r : List Byte) : State :=
  (s.mapDomains fun d _ =>
    { members := domainMembers r d, state := .armed, tripCount := 0, tripLimit := domainLimit r d }).rearmLanes

/-- SET_DOMAINS (R81). -/
def State.handleSetDomains (s : State) (q : Fin 4) (r : List Byte) : State :=
  match allChannels.find? fun c => decide (2 < byteAt r (4 + c.val)) with
  | some c => s.refuse q r .badArgument none (0x10 + c.val)
  | none =>
    match allDomains.find? fun d => decide (15 < domainLimit r d) with
    | some d => s.refuse q r .badArgument none (0x20 + d.val)
    | none =>
      match allChannels.find? fun c => (s.channel c).code != .off with
      | some c => s.refuse q r .busy none c.val
      | none =>
        match allLanes.find? fun l => (s.lane l).isRunning with
        | some l => s.refuse q r .busy none (0x10 + l.val)
        | none => (s.setDomains r).refuse q r .done none 0

/-- A TRIPPED domain is re-armed, and every HELD lane is handed the re-arming (R83). -/
def State.rearmDomain (s : State) (d : Fin 3) : State := (s.updDomain d fun x => { x with state := .armed }).rearmLanes

/-- REARM (R83). -/
def State.handleRearm (s : State) (q : Fin 4) (r : List Byte) : State :=
  match asFin 3 (byteAt r 4) with
  | none => s.refuse q r .badArgument none 0
  | some d =>
    match (s.domain d).state with
    | .armed => s.refuse q r .notTripped none (s.domain d).tripCount
    | .locked => s.refuse q r .lockedOut none (s.domain d).tripCount
    | .tripped => (s.rearmDomain d).refuse q r .done none (s.domain d).tripCount

/-! ### Patterns -/

/-- LOAD_PATTERN at its consumption (R52): refused, or the copy begins (R53). -/
def State.handleLoadPattern (s : State) (q : Fin 4) (r : List Byte) : State :=
  match asFin 16 (byteAt r 4) with
  | none => s.refuse q r .badArgument none 1
  | some n =>
    let src := field16 r 6
    if src % 8 ≠ 0 then s.refuse q r .badArgument none 2
    else if Config.xmSize < src + 136 then s.refuse q r .badArgument none 3
    else if (s.slot n).useCount ≠ 0 then s.refuse q r .inUse none (s.slot n).useCount
    else { s.consume q with fetch := .loading n src (s.originOf q r) [] }

/-- The completion of a pattern copy that failed a check (R54, R55). -/
def badPattern (o : Origin) (detail : Nat) (phase : Option Nat) : Completion :=
  { neverStarted o .badPattern none detail with lastPhase := phase }

/-- The pattern copy ends (R55): the slot is replaced and VALID, or the load is completed BAD_PATTERN (R54). While another agent
comes first at one of its reads, it has not ended (R166). -/
def State.finishCopy (s : State) (waiting : List XmAgent) : State :=
  match s.fetch with
  | .loading _ _ _ _ =>
    let s := s.iterateTurns waiting maxTurns
    match s.fetch with
    | .loading n src o got =>
      match imageVerdict src got with
      | .good ps =>
        (s.updSlot n fun x => { x with valid := true, phases := ps }).offer (neverStarted o .done none ps.length)
      | .bad detail phase => s.offer (badPattern o detail phase)
      | .more => s
    | _ => s
  | _ => s

/-! ### Gates -/

/-- SET_GATE (R59). -/
def State.handleSetGate (s : State) (q : Fin 4) (r : List Byte) : State :=
  match gateField (byteAt r 4) with
  | none => s.refuse q r .badArgument none 1
  | some g =>
    let set : LaneSet := BitVec.ofNat 4 (byteAt r 5)
    if 16 ≤ byteAt r 5 then s.refuse q r .badArgument none 2
    else
      match allLanes.find? fun l => ((s.gate g).members ||| set).getLsbD l.val && (s.lane l).gatedOn g with
      | some l => s.refuse q r .busy none l.val
      | none => (s.updGate g fun x => { x with members := set, timeout := field16 r 6 }).refuse q r .done none 0

/-! ### Capture -/

/-- The mode byte of CAPTURE_START. -/
def modeField (b : Nat) : Option CaptureMode :=
  match b with
  | 0 => some .stream
  | 1 => some .history
  | _ => none

/-- The trigger bytes of CAPTURE_START; the lane is examined for LANE_START only. -/
def triggerField (b lane : Nat) : Option Trigger :=
  match b with
  | 0 => some .immediate
  | 1 => (asFin 4 lane).map .laneStart
  | _ => none

/-- The freeze bytes of CAPTURE_START; the lane is examined for ON_LANE_FAULT only. -/
def freezeField (b lane : Nat) : Option FreezeCondition :=
  match b with
  | 0 => some .onTrip
  | 1 => (asFin 4 lane).map .onLaneFault
  | 2 => some .manual
  | _ => none

/-- A stream state's code in a detail (R146, R156). -/
def CaptureState.code : CaptureState → Nat
  | .off => 0
  | .armed => 1
  | .running => 2
  | .overrun => 3
  | .frozen => 4

/-- The stream record after an accepted CAPTURE_START (R147). -/
def startedStream (now : Tick) (mode : CaptureMode) (base size interval : Nat) (t : Trigger) (f : FreezeCondition) :
    CaptureStream where
  mode := mode
  state := if t = .immediate then .running else .armed
  base := base
  size := size
  writePos := base
  readPos := base
  interval := interval
  trigger := t
  freeze := f
  nextInstant := if t = .immediate then some (now + 1) else none
  sequence := 0
  dropCount := 0
  wrapCount := 0

/-- CAPTURE_START (R146, R147). -/
def State.handleCaptureStart (s : State) (q : Fin 4) (r : List Byte) : State :=
  match asFin 2 (byteAt r 4) with
  | none => s.refuse q r .badArgument none 1
  | some n =>
    let c := s.stream n
    let base := field16 r 8
    let size := field16 r 10
    if c.state = .armed ∨ c.state = .running ∨ c.state = .overrun then s.refuse q r .busy none c.state.code
    else
      match modeField (byteAt r 5) with
      | none => s.refuse q r .badArgument none 2
      | some mode =>
        if base % 16 ≠ 0 then s.refuse q r .badArgument none 3
        else if size < 256 ∨ 8192 < size ∨ size % 16 ≠ 0 then s.refuse q r .badArgument none 4
        else if Config.xmSize < base + size then s.refuse q r .badArgument none 5
        else
          match triggerField (byteAt r 12) (byteAt r 13) with
          | none => s.refuse q r .badArgument none 6
          | some t =>
            let f := freezeField (byteAt r 14) (byteAt r 15)
            if mode = .history ∧ f = none then s.refuse q r .badArgument none 7
            else if s.overlaps (some n) (base, size) then s.refuse q r .badArgument none 8
            else
              (s.updStream n fun _ => startedStream s.tick mode base size (byteAt r 6 + 1) t (f.getD .manual)).refuse q r
                .done none 0

/-- A stream that its trigger lane has started has written no record yet (notes/assumptions/25.md). -/
def CaptureStream.fresh (c : CaptureStream) : Bool := c.trigger != .immediate && c.writePos == c.base && c.wrapCount == 0

/-- A stream that its trigger lane has started at the present tick writes its first record before a CAPTURE_STOP reaches it
(R156). -/
def State.firstRecord (s : State) (n : Fin 2) : State := if (s.stream n).fresh then s.captureInstant n else s

/-- What CAPTURE_STOP does to a stream (R156). -/
def State.stopStream (s : State) (n : Fin 2) : State :=
  let c := s.stream n
  match c.state with
  | .off => s
  | .frozen => s
  | .armed => s.updStream n fun c => { c with state := .off, nextInstant := none }
  | _ =>
    if c.mode = .history then s.freezeStream n
    else s.updStream n fun c => { c with state := .off, nextInstant := none }

/-- The completion of an accepted CAPTURE_STOP (R156): the state found, the wrap count and the write position. -/
def stopCompletion (o : Origin) (c : CaptureStream) : Completion :=
  { neverStarted o .done none c.state.code with repeats := min 255 c.wrapCount, elapsed := c.writePos }

/-- CAPTURE_STOP (R156). -/
def State.handleCaptureStop (s : State) (q : Fin 4) (r : List Byte) : State :=
  match asFin 2 (byteAt r 4) with
  | none => s.refuse q r .badArgument none 1
  | some n =>
    let s := s.firstRecord n
    ((s.stopStream n).consume q).offer (stopCompletion (s.originOf q r) (s.stream n))

/-! ### Snapshots -/

/-- SNAPSHOT at its consumption (R137): refused, or the picture is taken and its write begins (R138). -/
def State.handleSnapshot (s : State) (q : Fin 4) (r : List Byte) : State :=
  let target := field16 r 4
  if target % 16 ≠ 0 then s.refuse q r .badArgument none 1
  else if Config.xmSize < target + 128 then s.refuse q r .badArgument none 2
  else if s.overlaps none (target, 128) then s.refuse q r .badArgument none 3
  else { s.consume q with fetch := .snapshotting target (s.originOf q r) s.picture 0 }

/-- The eighth access of the snapshot write is taken, and the SNAPSHOT is completed (R138). While another agent comes first at one
of its accesses, it is not (R166). -/
def State.finishSnapshot (s : State) (waiting : List XmAgent) : State :=
  match s.fetch with
  | .snapshotting _ _ _ _ =>
    let s := s.iterateTurns waiting 8
    match s.fetch with
    | .snapshotting _ o _ taken => if taken < 8 then s else s.offer (neverStarted o .done none 0)
    | _ => s
  | _ => s

end Sys2Proof.Machine
end

