-- ==== Sys2Proof/Machine/Link.lean ====
section
/-! DEFINITION. The host link (chapter 9): write frames as they are taken when CSN rises, read frames as they go on, the chunks
of a write, and the register writes that accepted frames hand on in frame order. -/

namespace Sys2Proof.Machine

/-! ### Reading -/

/-- The bytes that consecutive host addresses show, wrapping from 0xFFFF to 0 (R161). -/
def State.hostBytes (s : State) : Nat → Nat → List Byte
  | _, 0 => []
  | a, n + 1 => s.hostByte (a % 65536) :: State.hostBytes s (a + 1) n

/-- The bytes that stand on MISO for the code and the address of a read frame (R159). -/
def readLead : List Byte := [0, 0, 0]

/-- How many bytes from a host address on a frame takes at one moment: to the end of the span, of the register, or the byte
alone where nothing is selected (R161). -/
def unitLength (a : Nat) : Nat :=
  if a < Config.xmSize then 16 - a % 16 else if a < 0x4018 then 4 - a % 4 else 1

/-- The first n bits of a byte, the most significant first (R159). -/
def topBits (n : Nat) (b : Byte) : List Bool := (List.range n).map fun i => b.getMsbD i

/-- A read frame shifts out the bytes that it holds, as far as it has been asked for them, and then the bits of an incomplete byte
(R159, R161). -/
def OpenRead.shift (o : OpenRead) : OpenRead :=
  let n := min o.want o.held.length
  let o := { o with
    addr := o.addr + BitVec.ofNat 16 n, held := o.held.drop n, want := o.want - n, sent := o.sent ++ o.held.take n }
  match o.held with
  | [] => o
  | b :: _ => if o.want = 0 then { o with sentBits := o.sentBits ++ topBits o.bits.val b, bits := 0 } else o

/-- A read frame takes the span, the register or the byte at its next address (R161). -/
def State.takeUnit (s : State) (o : OpenRead) : OpenRead := { o with held := s.hostBytes o.addr.toNat (unitLength o.addr.toNat) }

/-- The arbiter takes the link's access for a read frame at now: none where the command offers it no access, else while the named
agents wait together with it (R166). -/
def State.linkServed (s : State) : Option (List XmAgent) → Bool
  | none => false
  | some waiting => s.serves .link waiting

/-- A read frame goes on, one span, register or byte after another, at most n of them, until it has shifted out what it has been
asked for or the arbiter does not take its next access (R161, R166). -/
def State.runRead (s : State) (access : Option (List XmAgent)) : Nat → OpenRead → State × OpenRead
  | 0, o => (s, o.shift)
  | n + 1, o =>
    let o := o.shift
    if o.done then (s, o)
    else if o.needsAccess then
      if s.linkServed access then State.runRead { s with rotation := .link } access n (s.takeUnit o) else (s, o)
    else State.runRead s access n (s.takeUnit o)

/-- No read frame takes more spans, registers and bytes than it has been asked for bytes, and one for an incomplete byte. -/
def OpenRead.units (o : OpenRead) : Nat := o.want + 1

/-- MISO has carried what a read frame has shifted out (R159). -/
def State.showRead (s : State) (o : OpenRead) : State := { s with miso := o.sent, misoBits := o.sentBits }

/-! ### The order of frames -/

/-- A discarded frame is counted (R165). -/
def State.countDiscard (s : State) : State := { s with linkErrors := satSucc 255 s.linkErrors }

/-- Lets the frames at the front of the link's queue go on as far as they can (R164): discarded frames are counted, and reads go on
while the arbiter takes their accesses; a chunk, a register write or an access that is not taken stops them. The read frame in
progress goes on when nothing stands before it. -/
def State.settleFrom (s : State) (access : Option (List XmAgent)) : List LinkEntry → State
  | [] =>
    match s.openRead with
    | none => { s with linkQueue := [] }
    | some o =>
      let u := State.runRead { s with linkQueue := [] } access o.units o
      { u.1.showRead u.2 with openRead := some u.2 }
  | .discard :: rest => State.settleFrom s.countDiscard access rest
  | .read o :: rest =>
    let u := s.runRead access o.units o
    if u.2.done then State.settleFrom (u.1.showRead u.2) access rest else { u.1 with linkQueue := .read u.2 :: rest }
  | .chunk a data :: rest => { s with linkQueue := .chunk a data :: rest }
  | .reg r v :: rest => { s with linkQueue := .reg r v :: rest }

/-- The entry at the front of the link's queue is done (R164). -/
def State.popLink (s : State) : State := s.settleFrom none s.linkQueue.tail

/-- A frame of n complete bytes is discarded: MISO carried 0 bits, and the frame is counted in frame order (R160, R164, R165). -/
def State.discardFrame (s : State) (n : Nat) (extra : Fin 8) : State :=
  ({ s with miso := List.replicate n 0, misoBits := List.replicate extra.val false }).settleFrom none
    (s.linkQueue ++ [LinkEntry.discard])

/-- A frame, unless it is the remainder of one that a reset has cut, which lasts until CSN rises (R173). -/
def State.takeFrame (s : State) (ends : Bool) (f : State → State) : State :=
  if s.awaitCsnRise then { s with awaitCsnRise := !ends } else f s

/-! ### Read frames -/

/-- The reads of the link go on, with the access that a command gives them after those of the fetch side that the arbiter took
before (R166). -/
def State.serveReads (s : State) (access : Access) : State :=
  let u := s.fetchTurns access.turns
  u.settleFrom (some access.waiting) u.linkQueue

/-- A read frame has been asked for what `o` says, and goes on as far as the frames before it and the arbiter let it; one that has
ended leaves its rest in the link's queue, behind which the next frame may begin (R161, R164). -/
def State.readOn (s : State) (o : OpenRead) (ends : Bool) (access : Access) : State :=
  let s := s.showRead o
  State.serveReads
    (if ends then { s with linkQueue := s.linkQueue ++ [.read o], openRead := none } else { s with openRead := some o }) access

/-- A read that has ended stands at the front of the link's queue and waits for an access (R161, R164). -/
def State.readWaits (s : State) : Bool :=
  match s.linkQueue with
  | .read o :: _ => o.needsAccess
  | _ => false

/-- A read frame whose complete bytes after the code begin with `body`, or the part of one that holds those bytes
(R160, R161, R164). The address comes with the first part. A part without a byte gives a read that has ended and waits for an
access of its own that access. -/
def State.takeRead (s : State) (body : List Byte) (extra : Fin 8) (ends : Bool) (access : Access) : State :=
  let bits := if ends then extra else 0
  match s.openRead with
  | none =>
    if body.length < 2 then
      if ends then s.discardFrame (1 + body.length) extra
      else if body.isEmpty && s.readWaits then s.serveReads access
      else s
    else
      s.readOn
        { addr := BitVec.ofNat 16 (field16 body 0), held := [], want := body.length - 2, bits := bits, sent := readLead
          sentBits := [] } ends access
  | some o => s.readOn { o with want := o.want + body.length, bits := bits } ends access

/-- A read frame, or a part of one (R161). -/
def State.readFrame (s : State) (body : List Byte) (extra : Fin 8) (ends : Bool) (access : Access) : State :=
  s.takeFrame ends fun s => s.takeRead body extra ends access

/-- A whole frame that is no read frame. None begins while a read frame is in progress (R159; notes/assumptions/18.md). -/
def State.wholeFrame (s : State) (f : State → State) : State :=
  s.takeFrame true fun s => if s.openRead.isNone then f s else s

/-- CSN is low, as far as the part can tell between two commands (R159, R173). -/
def State.csnLow (s : State) : Bool := s.awaitCsnRise || s.openRead.isSome

/-- The part drives MISO; otherwise MISO is at high impedance (R159, R171). -/
def State.misoDriven (s : State) : Bool := s.csnLow && !s.inReset

/-! ### Write frames -/

/-- The register that a write of exactly four bytes at an address reaches (R163). -/
def writableAt (a : Nat) : Option WritableRegister :=
  match a with
  | 0x4004 => some .control
  | 0x400C => some .post
  | 0x4010 => some .release
  | 0x4014 => some .cause
  | _ => none

/-- The chunks of a memory write, at most `fuel` of them: each holds the bytes that fall into one aligned span (R163). -/
def chunksOf : Nat → Nat → List Byte → List LinkEntry
  | 0, _, _ => []
  | _ + 1, _, [] => []
  | fuel + 1, a, b :: bs =>
    .chunk a ((b :: bs).take (16 - a % 16)) :: chunksOf fuel (a + (16 - a % 16)) ((b :: bs).drop (16 - a % 16))

/-- A write of at most 256 bytes covers at most 17 spans. -/
def maxChunks : Nat := 17

/-- What a write of some data at an address becomes; none where it is discarded (R163). -/
def writeEntries (a : Nat) (data : List Byte) : Option (List LinkEntry) :=
  if a + data.length ≤ Config.xmSize then some (chunksOf maxChunks a data)
  else if data.length = 4 then (writableAt a).map fun r => [.reg r (word32 data)]
  else none

/-- The data bytes of a write frame: between the address and the trailer (R162). -/
def writeData (body : List Byte) : List Byte := (body.drop 2).dropLast

/-- The trailer of a write frame: its last complete byte (R162). -/
def writeTrailer (body : List Byte) : Byte := body.getLastD 0

/-- A write frame is malformed: an incomplete byte, no data, too much data, or a wrong trailer (R160, R162). `body` holds the
complete bytes after the code. -/
def writeMalformed (body : List Byte) (extra : Fin 8) : Bool :=
  extra != 0 || decide (body.length < 4) || decide (259 < body.length) ||
    crc8 (Config.writeCode :: body.dropLast) != writeTrailer body

/-- A write frame is checked and, if accepted, its effects join the link's queue (R160, R162 to R164). -/
def State.takeWrite (s : State) (body : List Byte) (extra : Fin 8) : State :=
  if writeMalformed body extra then s.discardFrame (1 + body.length) extra
  else
    match writeEntries (field16 body 0) (writeData body) with
    | none => s.discardFrame (1 + body.length) extra
    | some es =>
      { s with linkQueue := s.linkQueue ++ es, miso := List.replicate (1 + body.length) 0, misoBits := [] }

/-- A write frame (R162). -/
def State.writeFrame (s : State) (body : List Byte) (extra : Fin 8) : State :=
  s.wholeFrame fun s => s.takeWrite body extra

/-- A frame whose code is neither a read's nor a write's is discarded (R160). -/
def State.unknownFrame (s : State) (code : Byte) (body : List Byte) (extra : Fin 8) : State :=
  if code = Config.readCode then s.readFrame body extra true ⟨0, []⟩
  else if code = Config.writeCode then s.writeFrame body extra
  else s.wholeFrame fun s => s.discardFrame (1 + body.length) extra

/-- The host address of a register that cannot be written (R168). -/
def readOnlyAddress : ReadOnlyRegister → Nat
  | .ident => 0x4000
  | .status => 0x4008

/-- The bytes after the code of a four-byte write to a register that cannot be written. -/
def readOnlyBody (r : ReadOnlyRegister) (data : Vector Byte 4) (trailer : Byte) : List Byte :=
  enc16 (readOnlyAddress r) ++ data.toList ++ [trailer]

/-! ### Taking the effects of accepted frames -/

/-- The chunk at the front of the link's queue is written, as one access (R163). -/
def State.writeChunk (s : State) : State :=
  match s.linkQueue with
  | .chunk a data :: _ => ({ s with xm := Memory.writeBytes s.xm a data, rotation := .link }).popLink
  | _ => s

/-- The arbiter takes the chunk at the front of the link's queue; where none stands there nothing happens (R163). -/
def State.takeChunk (s : State) (access : Access) : State :=
  match s.linkQueue with
  | .chunk _ _ :: _ => s.withAccess .link access State.writeChunk
  | _ => s

/-- The value of the register write at the front of the link's queue, if it is a write of a register. -/
def State.frontWrite (s : State) (r : WritableRegister) : Option (BitVec 32) :=
  match s.linkQueue with
  | .reg r' v :: _ => if r' = r then some v else none
  | _ => none

/-- Hands the register write at the front of the link's queue to its register's owner, if it is a write of this register that
a row takes (R164). -/
def State.takeRegister (s : State) (r : WritableRegister) (takes : BitVec 32 → Bool) (f : State → BitVec 32 → State) : State :=
  match s.frontWrite r with
  | some v => if takes v then (f s v).popLink else s
  | none => s

/-- A CONTROL write that a row takes which asks for no soft reset (R169). -/
def controlRow (field : BitVec 32 → Bool) (v : BitVec 32) : Bool := !controlSoftReset v && field v

/-- A POST write of an action, or of the action code that names none (R95). -/
def postRow (action : Nat) (v : BitVec 32) : Bool := postAction v == action || postAction v == 3

/-- A RELEASE of one of two targets, or of a target code that names none (R170). -/
def releaseRow (a b : Nat) (v : BitVec 32) : Bool := releaseTarget v == a || releaseTarget v == b || decide (3 < releaseTarget v)

end Sys2Proof.Machine
end

