-- ==== Sys2Proof/Machine/Resets.lean ====
section
/-! DEFINITION. The three resets (R171 to R173). -/

namespace Sys2Proof.Machine

/-- The part while a power-on or pin reset lasts: every block at its values after a reset, the tick counter standing, the
reset cause and exchange memory as they were (R171; notes/assumptions/9.md). -/
def State.held (s : State) (h : ResetHold) : State :=
  { State.reset with pending := s.pending, hold := h, resetCause := s.resetCause, tick := s.tick, xm := s.xm }

/-- VDD leaves its operating range (R171). Accesses taken before it leave no trace, since exchange memory is 0 when it ends. -/
def State.powerOnBegin (s : State) : State := s.held { s.hold with vddLow := true, por := true }

/-- RESETN has been low for 1 us (R171), after some accesses of the fetch side, which stand (R140, R166); during a reset that lasts
it changes nothing. -/
def State.pinBegin (s : State) (turns : Nat) : State :=
  if s.inReset then s else (s.fetchTurns turns).held { vddLow := false, resetnLow := true, por := false }

/-- The part leaves a power-on or pin reset (R171): the tick counter is 0 and its first samples are taken, exchange memory is
zero after a power-on reset, and a frame that the reset cut is waited out (R173). -/
def State.leave (s : State) (p : PinSample) (csnLow : Bool) : State :=
  State.firstSamples
    { State.reset with
      pending := s.pending
      resetCause := if s.hold.por then .por else .pin
      awaitCsnRise := csnLow
      xm := if s.hold.por then [] else s.xm } p true

/-- The part leaves its reset unless something else still holds it (R171). -/
def State.endReset (s : State) (h : ResetHold) (p : PinSample) (csnLow : Bool) : State :=
  if h.vddLow || h.resetnLow then { s with hold := h } else State.leave { s with hold := h } p csnLow

/-- VDD has been in range for the power-on interval (R171). -/
def State.powerOnEnd (s : State) (p : PinSample) (csnLow : Bool) : State :=
  if s.hold.vddLow then s.endReset { s.hold with vddLow := false } p csnLow else s

/-- RESETN returns high (R171). -/
def State.pinEnd (s : State) (p : PinSample) (csnLow : Bool) : State :=
  if s.hold.resetnLow then s.endReset { s.hold with resetnLow := false } p csnLow else s

/-- The filter changes that have fallen due, which a soft reset keeps (R172). -/
def filterEvents : List DueEvent := [.enableChange, .supplyChange] ++ allLanes.map .senseChange

/-- What a soft reset keeps, with every other block at its values after a reset (R172). -/
def State.softly (s : State) : State :=
  { State.reset with
    pending := s.pending
    resetCause := .soft
    permit := s.permit
    senseInputs := s.senseInputs
    linkQueue := s.linkQueue
    openRead := s.openRead
    miso := s.miso
    misoBits := s.misoBits
    awaitCsnRise := s.awaitCsnRise
    xm := s.xm }

/-- A soft reset (R172): the filters go on with the samples of tick 0. -/
def State.softReset (s : State) (p : PinSample) : State := (s.takeAll filterEvents).softly.firstSamples p false

end Sys2Proof.Machine
end

