-- ==== Sys2Proof/Machine/TimeMeanings.lean ====
section
/-! DEFINITION. The meanings of the rows that time and the pins bring: the tick, the short detectors, the filters, and what
falls due at a tick. -/

namespace Sys2Proof.Machine

/-- What a command does, unless a power-on or pin reset holds the part (R171). -/
def State.act (s : State) (f : State → State) : Host.Outcome State Fault Refusal := .next (s.unlessReset f)

/-- TICK: the counter advances by one modulo 2^32, and the tick's samples are delivered and tested (R1, R72, R142). -/
def execTick (pins : PinSample) (order : TickOrder) (s : State) : Host.Outcome State Fault Refusal :=
  s.act fun s => s.tickStep pins order

/-- SHORT_DETECT: a detector fires at a moment of the tick at which one of its switches conducts, and reports a trip with cause
SHORT; the switches go off at that moment (R73). -/
def execShortDetect (c : Fin 6) (offset : Nat) (s : State) : Host.Outcome State Fault Refusal :=
  s.act fun s => if s.conducting c offset then s.channelTrip c .short offset else s

/-- ENABLE_FILTER_CHANGE: the filtered ENABLE state changes when the fifth differing sample has made it due (R86, R88). -/
def execEnableFilterChange (s : State) : Host.Outcome State Fault Refusal :=
  s.act fun s => s.enableChange

/-- SUPPLY_FILTER_CHANGE: the filtered supply state changes when the fifth counting sample has made it due (R87, R88). -/
def execSupplyFilterChange (s : State) : Host.Outcome State Fault Refusal :=
  s.act fun s => s.supplyChange

/-- SENSE_INPUT_CHANGE: a filtered input changes when the third differing sample has made it due, and is reported (R143, R32). -/
def execSenseInputChange (i : Fin 4) (s : State) : Host.Outcome State Fault Refusal :=
  s.act fun s => s.senseChange i

/-- PHASE_END: a running segment's phase end tick is reached (R29, R34). -/
def execPhaseEnd (l : Fin 4) (s : State) : Host.Outcome State Fault Refusal :=
  s.act fun s => s.phaseEnd l

/-- SEGMENT_TIMEOUT: a running segment's timeout tick is reached (R33, R34). -/
def execSegmentTimeout (l : Fin 4) (s : State) : Host.Outcome State Fault Refusal :=
  s.act fun s => s.segmentTimeout l

/-- HOLD_EXPIRY: a lane's hold timer has reached zero (R38). -/
def execHoldExpiry (l : Fin 4) (s : State) : Host.Outcome State Fault Refusal :=
  s.act fun s => s.holdExpiry l

/-- GATE_TIMEOUT: a gate's wait timer has reached zero (R65). -/
def execGateTimeout (g : Fin 4) (s : State) : Host.Outcome State Fault Refusal :=
  s.act fun s => s.gateTimeout g

/-- COALESCING_DELAY_EXPIRY: a CQ's delay timer has reached zero (R133). -/
def execCoalescingDelayExpiry (q : Fin 2) (s : State) : Host.Outcome State Fault Refusal :=
  s.act fun s => s.delayExpiry q

/-- CAPTURE_SAMPLE_INSTANT: a stream takes its sample instant (R148), when the arbiter takes its access (R166). An instant that only
drops its sample waits for the arbiter too: the model's choice (notes/assumptions/8.md). -/
def execCaptureSampleInstant (n : Fin 2) (access : Access) (s : State) : Host.Outcome State Fault Refusal :=
  s.act fun s => if s.instantDue n then s.withAccess .capture access fun s => s.captureInstant n else s

end Sys2Proof.Machine
end

