-- ==== Sys2Proof/Machine/LinkMeanings.lean ====
section
/-! DEFINITION. The meanings of the frames on the host link and of the chunks that accepted writes leave. -/

namespace Sys2Proof.Machine

/-- READ_FRAME: a read frame, or a part of one, shifts out bytes from its address on (R159 to R161, R164). -/
def execReadFrame (body : List Byte) (extra : Fin 8) (access : Access) (s : State) (ends : Bool := true) :
    Host.Outcome State Fault Refusal :=
  s.act fun s => s.readFrame body extra ends access

/-- WRITE_FRAME: a write frame is checked at CSN rising and, if accepted, sent on (R160, R162, R163). -/
def execWriteFrame (body : List Byte) (extra : Fin 8) (s : State) : Host.Outcome State Fault Refusal :=
  s.act fun s => s.writeFrame body extra

/-- WRITE_CHUNK: the arbiter takes the next chunk of an accepted write as one access (R163, R164). -/
def execWriteChunk (access : Access) (s : State) : Host.Outcome State Fault Refusal :=
  s.act fun s => s.takeChunk access

/-- REGISTER_WRITE: a four-byte write to IDENT or STATUS (R163). -/
def execRegisterWrite (reg : ReadOnlyRegister) (data : Vector Byte 4) (trailer : Byte) (s : State) :
    Host.Outcome State Fault Refusal :=
  s.act fun s => s.writeFrame (readOnlyBody reg data trailer) 0

/-- UNKNOWN_CODE_FRAME: a frame whose code is neither a read's nor a write's is discarded (R160). -/
def execUnknownCodeFrame (code : Byte) (body : List Byte) (extra : Fin 8) (s : State) : Host.Outcome State Fault Refusal :=
  s.act fun s => s.unknownFrame code body extra

end Sys2Proof.Machine
end

