-- ==== Sys2Proof/Machine/RegisterMeanings.lean ====
section
/-! DEFINITION. The meanings of the register writes that accepted frames hand on (R164, R169, R170). -/

namespace Sys2Proof.Machine

/-- RUN_START: a CONTROL write with RUN 1, taken whole (R112, R169). -/
def execRunStart (s : State) : Host.Outcome State Fault Refusal :=
  s.act fun s => s.takeRegister .control (controlRow controlRun) State.controlWrite

/-- RUN_STOP: a CONTROL write with RUN 0, taken whole (R112, R169). -/
def execRunStop (s : State) : Host.Outcome State Fault Refusal :=
  s.act fun s => s.takeRegister .control (controlRow fun v => !controlRun v) State.controlWrite

/-- CLEAR_ERRORS: a CONTROL write with CLEAR_ERRORS 1, taken whole (R169). -/
def execClearErrors (s : State) : Host.Outcome State Fault Refusal :=
  s.act fun s => s.takeRegister .control (controlRow controlClearErrors) State.controlWrite

/-- IRQ_ENABLE: a CONTROL write sets the enables, and is taken whole (R169). -/
def execIrqEnable (s : State) : Host.Outcome State Fault Refusal :=
  s.act fun s => s.takeRegister .control (controlRow fun _ => true) State.controlWrite

/-- POST_TAIL: a POST write of action TAIL (R95, R96). -/
def execPostTail (s : State) : Host.Outcome State Fault Refusal :=
  s.act fun s => s.takeRegister .post (postRow 0) State.post

/-- POST_RESUME: a POST write of action RESUME (R95, R97). -/
def execPostResume (s : State) : Host.Outcome State Fault Refusal :=
  s.act fun s => s.takeRegister .post (postRow 1) State.post

/-- POST_RESET: a POST write of action RESET (R95, R98). -/
def execPostReset (s : State) : Host.Outcome State Fault Refusal :=
  s.act fun s => s.takeRegister .post (postRow 2) State.post

/-- RELEASE_CQ: a RELEASE of CQ0 or CQ1 (R122). -/
def execReleaseCq (s : State) : Host.Outcome State Fault Refusal :=
  s.act fun s => s.takeRegister .release (releaseRow 0 1) State.release

/-- RELEASE_CAP: a RELEASE of CAP0 or CAP1 (R152). -/
def execReleaseCap (s : State) : Host.Outcome State Fault Refusal :=
  s.act fun s => s.takeRegister .release (releaseRow 2 3) State.release

/-- CAUSE_CLEAR: a CAUSE write clears each bit written with 1 (R135). -/
def execCauseClear (s : State) : Host.Outcome State Fault Refusal :=
  s.act fun s => s.takeRegister .cause (fun _ => true) State.clearCause

end Sys2Proof.Machine
end

