-- ==== Sys2Proof/Machine/ResetMeanings.lean ====
section
/-! DEFINITION. The meanings of the three resets (R171, R172). -/

namespace Sys2Proof.Machine

/-- SOFT_RESET: a CONTROL write with SOFT_RESET 1; its other fields are not applied, and the accesses taken before it stand
(R166, R169, R172). -/
def execSoftReset (pins : PinSample) (s : State) (turns : Nat := 0) : Host.Outcome State Fault Refusal :=
  s.act fun s => s.takeRegister .control controlSoftReset fun s _ => (s.fetchTurns turns).softReset pins

/-- POWER_ON_RESET_BEGIN: VDD leaves its operating range (R171). -/
def execPowerOnResetBegin (s : State) : Host.Outcome State Fault Refusal :=
  .next (s.powerOnBegin)

/-- POWER_ON_RESET_END: VDD has been in range for the power-on interval (R171, R173). -/
def execPowerOnResetEnd (pins : PinSample) (csnLow : Bool) (s : State) : Host.Outcome State Fault Refusal :=
  .next (s.powerOnEnd pins csnLow)

/-- PIN_RESET_BEGIN: RESETN has been low for 1 us; the accesses taken before it stand (R166, R171). -/
def execPinResetBegin (s : State) (turns : Nat := 0) : Host.Outcome State Fault Refusal :=
  .next (s.pinBegin turns)

/-- PIN_RESET_END: RESETN returns high (R171, R173). -/
def execPinResetEnd (pins : PinSample) (csnLow : Bool) (s : State) : Host.Outcome State Fault Refusal :=
  .next (s.pinEnd pins csnLow)

end Sys2Proof.Machine
end

