-- ==== Sys2Proof/Machine/EngineMeanings.lean ====
section
/-! DEFINITION. The meanings of the rows by which the engine starts and the fetch engine chooses, reads and checks records.
-/

namespace Sys2Proof.Machine

/-- START_DRAINED: the drain conditions of START hold (R113). -/
def execStartDrained (s : State) : Host.Outcome State Fault Refusal :=
  s.act fun s => s.startDrained

/-- CONFIG_READ_COMPLETE: the block has been read and is validated (R114 to R116). -/
def execConfigReadComplete (s : State) (waiting : List XmAgent := []) : Host.Outcome State Fault Refusal :=
  s.act fun s => s.finishConfig waiting

/-- SQ_ARBITRATION: the arbiter chooses an SQ (R108, R109). -/
def execSqArbitration (s : State) : Host.Outcome State Fault Refusal :=
  s.act fun s => s.arbitrate

/-- RECORD_READ: the head record has been read and is checked (R100 to R103). -/
def execRecordRead (s : State) (waiting : List XmAgent := []) : Host.Outcome State Fault Refusal :=
  s.act fun s => s.finishRead waiting

end Sys2Proof.Machine
end

