-- ==== Sys2Proof/Machine/RecordMeanings.lean ====
section
/-! DEFINITION. The meanings of the command records, one for each kind, and of the ends of the two that take time. -/

namespace Sys2Proof.Machine

/-- NOP: consumed and completed DONE (R102). -/
def execNop (s : State) : Host.Outcome State Fault Refusal :=
  s.act fun s => s.withRecord 0x01 fun q r => s.refuse q r .done none 0

/-- SEGMENT (R23, R25). -/
def execSegment (s : State) : Host.Outcome State Fault Refusal :=
  s.act fun s => s.withRecord kindSegment s.handleSegment

/-- HALT (R40, R41), at a moment of the tick. -/
def execHalt (s : State) (offset : Nat := 0) : Host.Outcome State Fault Refusal :=
  s.act fun s => s.withRecord kindHalt fun q r => s.handleHalt q r offset

/-- BIND (R17). -/
def execBind (s : State) : Host.Outcome State Fault Refusal :=
  s.act fun s => s.withRecord 0x10 s.handleBind

/-- UNBIND (R18), at a moment of the tick. -/
def execUnbind (s : State) (offset : Nat := 0) : Host.Outcome State Fault Refusal :=
  s.act fun s => s.withRecord 0x11 fun q r => s.handleUnbind q r offset

/-- SET_LIMITS (R75), at a moment of the tick. -/
def execSetLimits (s : State) (offset : Nat := 0) : Host.Outcome State Fault Refusal :=
  s.act fun s => s.withRecord 0x12 fun q r => s.handleSetLimits q r offset

/-- SET_DOMAINS (R81, R82). -/
def execSetDomains (s : State) : Host.Outcome State Fault Refusal :=
  s.act fun s => s.withRecord 0x13 s.handleSetDomains

/-- REARM (R83, R84). -/
def execRearm (s : State) : Host.Outcome State Fault Refusal :=
  s.act fun s => s.withRecord 0x14 s.handleRearm

/-- LOAD_PATTERN at its consumption (R52). -/
def execLoadPattern (s : State) : Host.Outcome State Fault Refusal :=
  s.act fun s => s.withRecord 0x15 s.handleLoadPattern

/-- PATTERN_COPY_COMPLETE: the copy has read and checked its last phase, or failed a check (R53 to R55). -/
def execPatternCopyComplete (s : State) (waiting : List XmAgent := []) : Host.Outcome State Fault Refusal :=
  s.act fun s => s.finishCopy waiting

/-- SET_GATE (R59). -/
def execSetGate (s : State) : Host.Outcome State Fault Refusal :=
  s.act fun s => s.withRecord 0x16 s.handleSetGate

/-- CAPTURE_START (R146, R147). -/
def execCaptureStart (s : State) : Host.Outcome State Fault Refusal :=
  s.act fun s => s.withRecord 0x17 s.handleCaptureStart

/-- CAPTURE_STOP (R156). -/
def execCaptureStop (s : State) : Host.Outcome State Fault Refusal :=
  s.act fun s => s.withRecord 0x18 s.handleCaptureStop

/-- SNAPSHOT at its consumption (R137, R138). -/
def execSnapshot (s : State) : Host.Outcome State Fault Refusal :=
  s.act fun s => s.withRecord 0x19 s.handleSnapshot

/-- SNAPSHOT_WRITE_COMPLETE: the eighth access of the picture is taken (R138). -/
def execSnapshotWriteComplete (s : State) (waiting : List XmAgent := []) : Host.Outcome State Fault Refusal :=
  s.act fun s => s.finishSnapshot waiting

end Sys2Proof.Machine
end

