-- ==== Sys2Proof/Machine/PostingMeanings.lean ====
section
/-! DEFINITION. The meanings of the rows by which the posting engine accepts completions and writes records. -/

namespace Sys2Proof.Machine

/-- The posting engine writes a completion, if that is what it writes next (R125), when the arbiter takes its access (R166). -/
def State.postCompletion (s : State) (access : Access) : State :=
  match s.nextPost with
  | some (q, .completion c) => s.withAccess .posting access fun s => s.writeCompletion q c
  | _ => s

/-- The posting engine writes an event, if that is what it writes next (R125, R130), when the arbiter takes its access (R166). -/
def State.postEvent (s : State) (access : Access) : State :=
  match s.nextPost with
  | some (q, .event e) => s.withAccess .posting access fun s => s.writeEvent q e
  | _ => s

/-- WAIT_POST_ACCEPT: the pending list accepts the completion the fetch engine holds (R107). -/
def execWaitPostAccept (s : State) : Host.Outcome State Fault Refusal :=
  s.act fun s => s.acceptHeld

/-- OUTBOX_ACCEPT: the posting engine takes the oldest entry of a lane's outbox (R15, R124). -/
def execOutboxAccept (s : State) : Host.Outcome State Fault Refusal :=
  s.act fun s => s.acceptOutbox

/-- COMPLETION_WRITE: the oldest pending completion is written into the chosen CQ (R125). -/
def execCompletionWrite (access : Access) (s : State) : Host.Outcome State Fault Refusal :=
  s.act fun s => s.postCompletion access

/-- EVENT_WRITE: the pending event of the lowest source number is written into the event CQ (R130). -/
def execEventWrite (access : Access) (s : State) : Host.Outcome State Fault Refusal :=
  s.act fun s => s.postEvent access

end Sys2Proof.Machine
end

