-- ==== Sys2Proof/Machine/Dispatch.lean ====
section
/-! DEFINITION. One command: each row of the table calls its meaning. -/

namespace Sys2Proof.Machine

def exec (i : Instr) (s : State) : Host.Outcome State Fault Refusal :=
  match i with
  | .tick pins order => Sys2Proof.Machine.execTick pins order s
  | .shortDetect c offset => Sys2Proof.Machine.execShortDetect c offset s
  | .enableFilterChange => Sys2Proof.Machine.execEnableFilterChange s
  | .supplyFilterChange => Sys2Proof.Machine.execSupplyFilterChange s
  | .senseInputChange k => Sys2Proof.Machine.execSenseInputChange k s
  | .phaseEnd l => Sys2Proof.Machine.execPhaseEnd l s
  | .segmentTimeout l => Sys2Proof.Machine.execSegmentTimeout l s
  | .holdExpiry l => Sys2Proof.Machine.execHoldExpiry l s
  | .gateTimeout g => Sys2Proof.Machine.execGateTimeout g s
  | .coalescingDelayExpiry q => Sys2Proof.Machine.execCoalescingDelayExpiry q s
  | .captureSampleInstant n access => Sys2Proof.Machine.execCaptureSampleInstant n access s
  | .readFrame body extra access ends => Sys2Proof.Machine.execReadFrame body extra access s ends
  | .writeFrame body extra => Sys2Proof.Machine.execWriteFrame body extra s
  | .writeChunk access => Sys2Proof.Machine.execWriteChunk access s
  | .registerWrite reg data trailer => Sys2Proof.Machine.execRegisterWrite reg data trailer s
  | .runStart => Sys2Proof.Machine.execRunStart s
  | .runStop => Sys2Proof.Machine.execRunStop s
  | .clearErrors => Sys2Proof.Machine.execClearErrors s
  | .irqEnable => Sys2Proof.Machine.execIrqEnable s
  | .softReset pins turns => Sys2Proof.Machine.execSoftReset pins s turns
  | .postTail => Sys2Proof.Machine.execPostTail s
  | .postResume => Sys2Proof.Machine.execPostResume s
  | .postReset => Sys2Proof.Machine.execPostReset s
  | .releaseCq => Sys2Proof.Machine.execReleaseCq s
  | .releaseCap => Sys2Proof.Machine.execReleaseCap s
  | .causeClear => Sys2Proof.Machine.execCauseClear s
  | .powerOnResetBegin => Sys2Proof.Machine.execPowerOnResetBegin s
  | .powerOnResetEnd pins csnLow => Sys2Proof.Machine.execPowerOnResetEnd pins csnLow s
  | .pinResetBegin turns => Sys2Proof.Machine.execPinResetBegin s turns
  | .pinResetEnd pins csnLow => Sys2Proof.Machine.execPinResetEnd pins csnLow s
  | .startDrained => Sys2Proof.Machine.execStartDrained s
  | .configReadComplete waiting => Sys2Proof.Machine.execConfigReadComplete s waiting
  | .sqArbitration => Sys2Proof.Machine.execSqArbitration s
  | .recordRead waiting => Sys2Proof.Machine.execRecordRead s waiting
  | .nop => Sys2Proof.Machine.execNop s
  | .segment => Sys2Proof.Machine.execSegment s
  | .halt offset => Sys2Proof.Machine.execHalt s offset
  | .bind => Sys2Proof.Machine.execBind s
  | .unbind offset => Sys2Proof.Machine.execUnbind s offset
  | .setLimits offset => Sys2Proof.Machine.execSetLimits s offset
  | .setDomains => Sys2Proof.Machine.execSetDomains s
  | .rearm => Sys2Proof.Machine.execRearm s
  | .loadPattern => Sys2Proof.Machine.execLoadPattern s
  | .patternCopyComplete waiting => Sys2Proof.Machine.execPatternCopyComplete s waiting
  | .setGate => Sys2Proof.Machine.execSetGate s
  | .captureStart => Sys2Proof.Machine.execCaptureStart s
  | .captureStop => Sys2Proof.Machine.execCaptureStop s
  | .snapshot => Sys2Proof.Machine.execSnapshot s
  | .snapshotWriteComplete waiting => Sys2Proof.Machine.execSnapshotWriteComplete s waiting
  | .waitPostAccept => Sys2Proof.Machine.execWaitPostAccept s
  | .outboxAccept => Sys2Proof.Machine.execOutboxAccept s
  | .completionWrite access => Sys2Proof.Machine.execCompletionWrite access s
  | .eventWrite access => Sys2Proof.Machine.execEventWrite access s
  | .unknownCodeFrame code body extra => Sys2Proof.Machine.execUnknownCodeFrame code body extra s

end Sys2Proof.Machine
end

