-- ==== Sys2Proof/Safety.lean ====
section
/-! DEFINITION. The terms that statements about the part are made in: the laws that its states keep, and what the consumption
of a record and the hand-over of a completion come to, read from the rules. -/

namespace Sys2Proof.Machine

/-! ### Laws of a state -/

/-- Exchange memory is in its canonical form. -/
def State.MemoryOk (s : State) : Prop := Memory.wf s.xm = true

/-- The pending list holds at most 8 entries (R123). -/
def State.PendingOk (s : State) : Prop := s.pendingList.length ≤ 8

/-- A lane owns exactly the channels whose owner it is, and an UNBOUND lane owns none (R8, R12). -/
def State.OwnershipOk (s : State) : Prop :=
  (∀ (c : Fin 6) (l : Fin 4), (s.channel c).owner = some l ↔ (s.lane l).owned.getLsbD c.val = true) ∧
    ∀ l : Fin 4, (s.lane l).state = .unbound → (s.lane l).owned = 0

/-- A channel under a forced-off condition drives OFF (R10). -/
def State.ForcedOffOk (s : State) : Prop := ∀ c : Fin 6, s.forcedOff c = true → (s.channel c).code = .off

/-- The lane is RUNNING or GATED. -/
def Lane.atWork (l : Lane) : Bool := l.isRunning || l.state == .gated

/-- A lane is RUNNING or GATED only while the permit is on and every domain meeting its channels is ARMED (R13, R61), and a
gate's arrival set holds only lanes that are GATED on that gate (R58). -/
def State.LanesOk (s : State) : Prop :=
  (∀ l : Fin 4, (s.lane l).atWork = true → s.permitOn = true ∧ s.domainsArmed l = true) ∧
    ∀ (g l : Fin 4), (s.gate g).arrivals.getLsbD l.val = true → (s.lane l).gatedOn g = true

/-- The number of running segments of a lane: 0 or 1. -/
def Lane.runningCount (l : Lane) : Nat := if l.isRunning then 1 else 0

/-- The completions of kind HALT in a lane's outbox. -/
def Lane.halts (l : Lane) : Nat := l.outbox.countP fun c => c.origin.kind == kindHalt

/-- The bounds of a lane (R16): at most four queued segments, and together with the outbox entries and a running segment at
most five, apart from one HALT of its own. No segment it holds is of kind HALT. -/
def Lane.BoundsOk (l : Lane) : Prop :=
  l.queue.length ≤ 4 ∧ l.halts ≤ 1 ∧ l.queue.length + l.outbox.length + l.runningCount ≤ 5 + l.halts ∧
    ∀ g ∈ l.segments, g.origin.kind ≠ kindHalt

/-- Every lane keeps its bounds (R14, R16, R26). -/
def State.BoundsOk (s : State) : Prop := ∀ l : Fin 4, (s.lane l).BoundsOk

/-- A segment references a pattern slot. -/
def Segment.uses (g : Segment) (n : Fin 16) : Bool := g.source == .slot n

/-- The segments queued, gated or running in any lane that reference a slot (R50). -/
def State.usesOf (s : State) (n : Fin 16) : Nat := (allLanes.map fun l => (s.lane l).segments.countP fun g => g.uses n).sum

/-- A slot's use count is the number of segments that reference it (R50), and a gate's arrival set holds only lanes GATED on
that gate (R58). -/
def State.UseCountsOk (s : State) : Prop :=
  (∀ n : Fin 16, (s.slot n).useCount = s.usesOf n) ∧
    ∀ (g l : Fin 4), (s.gate g).arrivals.getLsbD l.val = true → (s.lane l).gatedOn g = true

/-- Each channel belongs to exactly one domain (R77). -/
def State.DomainsOk (s : State) : Prop :=
  ∀ c : Fin 6, ∃ d : Fin 3, ∀ d' : Fin 3, (s.domain d').members.getLsbD c.val = true ↔ d' = d

/-- The positions of every ring that has a size lie inside it (R93, R119). -/
def State.RingsOk (s : State) : Prop :=
  (∀ q : Fin 4, (s.sq q).size ≠ 0 → (s.sq q).head < (s.sq q).size ∧ (s.sq q).tail < (s.sq q).size) ∧
    ∀ q : Fin 2, (s.cq q).size ≠ 0 → (s.cq q).tail < (s.cq q).size ∧ (s.cq q).hostHead < (s.cq q).size

/-! ### What a command finds -/

/-- No power-on or pin reset holds the part (R171). -/
def State.Awake (s : State) : Prop := s.inReset = false

/-- The fetch engine holds a checked record of a kind from an SQ (R102). -/
def State.Holds (s : State) (kind : Byte) (q : Fin 4) (r : List Byte) : Prop :=
  s.Awake ∧ s.fetch = .reading q r true ∧ recordKind r = kind

/-- What stands in the link's queue waits: at its front is no discarded frame, which would be counted, and no read that could go on
without an access (R164). -/
def LinkWaits (es : List LinkEntry) : Prop :=
  es.head? ≠ some .discard ∧ ∀ o, es.head? = some (.read o) → o.needsAccess = true

/-- What stands in the link's queue behind the front entry waits further once that entry is done, and no read frame in progress
would go on then (R164). -/
def State.RestWaits (s : State) : Prop :=
  LinkWaits s.linkQueue.tail ∧ (s.linkQueue.tail = [] → s.openRead = none)

/-- The write of a register stands at the front of the link's queue, and what stands behind it waits further (R164). -/
def State.Handed (s : State) (r : WritableRegister) (v : BitVec 32) : Prop :=
  s.Awake ∧ s.linkQueue.head? = some (.reg r v) ∧ s.RestWaits

/-- Nothing falls due at the present tick (R1). -/
def State.NothingDue (s : State) : Prop :=
  s.permit.enableDue = false ∧ s.permit.supplyDue = false ∧ (∀ i : Fin 4, (s.senseInput i).due = false) ∧
    (∀ (l : Fin 4) (r : Running), (s.lane l).state = .running r →
      r.phaseEnd ≠ s.tick ∧ r.timeoutTick ≠ some s.tick ∧ r.stopMet = false) ∧
    (∀ l : Fin 4, (s.lane l).holdTimer ≠ some 0) ∧ (∀ g : Fin 4, (s.gate g).waitTimer ≠ some 0) ∧
    (∀ n : Fin 2, s.instantDue n = false) ∧ s.tripsDue = [] ∧ ∀ q : Fin 2, (s.cq q).delayTimer ≠ some 0

/-- A channel trip that an earlier sample brought may still be due; nothing else falls due at the present tick (R72, R74). -/
def State.OnlyTripsDue (s : State) : Prop := State.NothingDue { s with tripsDue := [] }

/-! ### Consumption and hand-over -/

/-- The head record of an SQ has been consumed, and no other SQ has changed (R105). -/
def Consumed (s t : State) (q : Fin 4) : Prop :=
  t.sq q =
      { s.sq q with
        head := ((s.sq q).head + 1) % (s.sq q).size
        expected := ((s.sq q).expected + 1) % 256
        state := if ((s.sq q).head + 1) % (s.sq q).size = (s.sq q).tail then .empty else (s.sq q).state } ∧
    ∀ p : Fin 4, p ≠ q → t.sq p = s.sq p

/-- The fetch engine has handed over a completion it made: the pending list has it, or WAIT_POST holds it while the list is
full; a STOPPING engine whose last completion was accepted is STOPPED (R105, R107, R117, R124). -/
def HandedOver (s t : State) (c : Completion) : Prop :=
  (s.pendingList.length < 8 →
      t.pendingList = s.pendingList ++ [c] ∧ t.fetch = .idle ∧
        t.engine = if s.engine = .stopping then .stopped else s.engine) ∧
    (8 ≤ s.pendingList.length → t.pendingList = s.pendingList ∧ t.fetch = .waitPost c ∧ t.engine = s.engine)

/-- The identity of a completion for the head record of an SQ: its tag and kind, the SQ, the head after its consumption, and
the CQ the SQ targets (R105). -/
def identity (s : State) (q : Fin 4) (r : List Byte) : Origin where
  tag := recordTag r
  kind := if recordKind r = 0xE0 then 0 else recordKind r
  sq := q
  sqHead := ((s.sq q).head + 1) % (s.sq q).size
  cq := (s.sq q).target

/-- A completion with the never-started progress values (R44). -/
def plainCompletion (o : Origin) (st : Status) (lane : Option (Fin 4)) (detail : Nat) : Completion where
  origin := o
  status := st
  lane := lane
  detail := detail
  repeats := 0
  lastPhase := none
  elapsed := 0
  peak := 0

/-- The phases that a segment runs (R22): its own, or those of the pattern slot it references (R49). -/
def segmentPhases (s : State) (g : Segment) : List Phase :=
  match g.source with
  | .inline ps => ps
  | .slot n => (s.slot n).phases

/-- A phase boundary falls at the present tick at which the last phase of a pass ends (R29). -/
abbrev PassEnds (s : State) (r : Running) : Prop := r.phaseEnd = s.tick ∧ (segmentPhases s r.seg).length ≤ r.phaseIndex + 1

/-- The completion of a segment that has run, with its progress at the present tick (R43, R44): the completed passes up to 255, one
that ends at this tick included; the index of the phase in effect, or of the phase that ended at this tick; the elapsed ticks; and
the peak magnitude in units of 20 mA. -/
def runCompletion (s : State) (l : Fin 4) (r : Running) (st : Status) (detail : Nat) : Completion where
  origin := r.seg.origin
  status := st
  lane := some l
  detail := detail
  repeats := if PassEnds s r then min 255 (r.repeatsDone + 1) else r.repeatsDone
  lastPhase :=
    match r.endedPhase with
    | some i => some i
    | none => some r.phaseIndex
  elapsed := r.elapsed
  peak := r.peak / 20

/-- The record has been consumed and completed by the fetch engine (R105). -/
def Completes (s t : State) (q : Fin 4) (r : List Byte) (st : Status) (lane : Option (Fin 4)) (detail : Nat) : Prop :=
  Consumed s t q ∧ HandedOver s t (plainCompletion (identity s q r) st lane detail)

/-- Only the SQs, the fetch engine, the pending list and the engine state differ: what a command record does that changes
nothing else. -/
def OnlyFetchSide (s t : State) : Prop :=
  t = { s with sqs := t.sqs, fetch := t.fetch, pendingList := t.pendingList, engine := t.engine }

/-- The head record of an SQ has been consumed, whatever readiness notices then did to the states of SQs (R105, R111). -/
def Advances (s t : State) (q : Fin 4) : Prop :=
  (t.sq q).head = ((s.sq q).head + 1) % (s.sq q).size ∧ (t.sq q).expected = ((s.sq q).expected + 1) % 256 ∧
    (t.sq q).tail = (s.sq q).tail ∧
    ∀ p : Fin 4, p ≠ q → (t.sq p).head = (s.sq p).head ∧ (t.sq p).expected = (s.sq p).expected ∧ (t.sq p).tail = (s.sq p).tail

/-- The fetch engine is IDLE again without a completion of its own; a STOPPING engine is STOPPED (R104, R117). -/
def BackToIdle (s t : State) : Prop :=
  t.fetch = .idle ∧ t.pendingList = s.pendingList ∧ t.engine = if s.engine = .stopping then .stopped else s.engine

/-! ### The register window -/

/-- The fields of register k of the window, IDENT, CONTROL, STATUS, POST, RELEASE and CAUSE in this order, each as its lowest bit,
its width and the value that it reads as (R168, R169, section 10.8). -/
def registerFields (s : State) (k : Nat) : List (Nat × Nat × Nat) :=
  let flag := fun b : Bool => if b then 1 else 0
  match k with
  | 0 => [(0, 8, 0x5A), (8, 8, 0x36), (16, 8, 1), (24, 8, 16)]
  | 1 =>
    let run := match s.engine with
      | .starting => 1
      | .running => 1
      | _ => 0
    [(0, 1, run), (4, 1, flag (s.enables.getLsbD 0)), (5, 1, flag (s.enables.getLsbD 1)), (6, 1, flag (s.enables.getLsbD 2))]
  | 2 =>
    let engine := match s.engine with
      | .stopped => 0
      | .starting => 1
      | .running => 2
      | .stopping => 3
      | .configError => 4
    let config := match s.configError with
      | .none => 0
      | .badSignature => 1
      | .badGeometry => 2
      | .overlap => 3
      | .missingQueue => 4
      | .badTarget => 5
    let fetch := match s.fetch with
      | .idle => 0
      | .reading _ _ _ => 1
      | .loading _ _ _ _ => 2
      | .snapshotting _ _ _ _ => 2
      | .waitPost _ => 3
    let cause := match s.resetCause with
      | .por => 0
      | .pin => 1
      | .soft => 2
    let permitCause := match s.permit.enableHigh, s.permit.supplyGood with
      | true, true => 0
      | false, true => 1
      | true, false => 2
      | false, false => 3
    [(0, 3, engine), (3, 3, config), (6, 2, fetch), (8, 2, cause), (10, 1, flag (s.permit.enableHigh && s.permit.supplyGood)),
      (11, 2, permitCause), (13, 1, flag s.postError), (14, 1, flag s.releaseError), (16, 8, s.linkErrors)]
  | 5 => [(0, 1, flag (s.cause.getLsbD 0)), (1, 1, flag (s.cause.getLsbD 1)), (2, 1, flag (s.cause.getLsbD 2))]
  | _ => []

/-- Bit b of register k as it reads: that of the field it lies in, and 0 in no field (section 10.8). -/
def registerBit (s : State) (k b : Nat) : Bool :=
  (registerFields s k).any fun f => decide (f.1 ≤ b) && decide (b < f.1 + f.2.1) && f.2.2.testBit (b - f.1)

/-- The register that a write of exactly four bytes at a host address reaches (R163, R168). -/
def writtenRegister (a : Nat) (r : WritableRegister) : Prop :=
  (a = 0x4004 ∧ r = .control) ∨ (a = 0x400C ∧ r = .post) ∨ (a = 0x4010 ∧ r = .release) ∨ (a = 0x4014 ∧ r = .cause)

/-! ### Accesses to exchange memory -/

/-- No other agent of those that wait together with an agent has an access to make (R166). -/
def State.Alone (s : State) (a : XmAgent) (waiting : List XmAgent) : Prop := ∀ b ∈ waiting, b = a ∨ s.hasAccess b = false

/-- The byte that a read frame shifts out i bytes after those it has shifted out: one of the span or register that it has taken, or
the byte at its host address (R161). -/
def readByte (s : State) (o : OpenRead) (i : Nat) : Byte :=
  if i < o.held.length then o.held.getD i 0 else s.hostByte (o.addr + BitVec.ofNat 16 i).toNat

/-- How many bytes a read frame still looks at: those it has been asked for, and one for an incomplete byte. -/
def OpenRead.wanted (o : OpenRead) : Nat := o.want + if o.bits = 0 then 0 else 1

/-- MISO carries all that a read frame has been asked for: the bytes in turn, and the first bits of the next (R159, R161). -/
def Answered (s : State) (o : OpenRead) (miso : List Byte) (misoBits : List Bool) : Prop :=
  miso = o.sent ++ (List.range o.want).map (readByte s o) ∧
    misoBits = o.sentBits ++ (List.range o.bits.val).map fun i => (readByte s o o.want).getMsbD i

/-- A read frame needs no access to exchange memory for what it has been asked for (R161). -/
def OpenRead.NeedsNone (o : OpenRead) : Prop :=
  ∀ i, o.held.length ≤ i → i < o.wanted → 0x4000 ≤ (o.addr + BitVec.ofNat 16 i).toNat

/-- A read frame needs one access to exchange memory, for one span, and that span holds all it has been asked for (R161, R166). -/
def OpenRead.NeedsOne (o : OpenRead) : Prop :=
  o.held = [] ∧ o.addr.toNat < 0x4000 ∧ 0 < o.wanted ∧ o.addr.toNat % 16 + o.wanted ≤ 16

/-- A read frame needs a span of exchange memory next, and the span after it too (R161, R166). -/
def OpenRead.NeedsMore (o : OpenRead) : Prop :=
  o.held = [] ∧ o.addr.toNat / 16 < 0x3FF ∧ 16 < o.addr.toNat % 16 + o.wanted

/-- A read frame that needs more than one span, when it has taken the first (R161). -/
def OpenRead.afterSpan (s : State) (o : OpenRead) : OpenRead :=
  let n := 16 - o.addr.toNat % 16
  { o with
    addr := o.addr + BitVec.ofNat 16 n, want := o.want - n
    sent := o.sent ++ (List.range n).map fun i => Memory.read s.xm (o.addr.toNat + i) }

/-- A read frame in progress, or ended, stands where the link keeps it, with nothing before it but `queue`; MISO carries `miso` and
`misoBits` (R161, R164). -/
def State.withRead (s : State) (queue : List LinkEntry) (o : OpenRead) (ends : Bool) : State :=
  { s with
    openRead := if ends then none else some o
    linkQueue := if ends then queue ++ [.read o] else queue }

/-- A read frame, or a part of one, has been asked for what `o` says (R159, R161, R164, R166): `u` is the state after the accesses
of the fetch side before it. Behind what waits in the link's queue it waits itself. With nothing before it, it shifts out all of it
if no other agent waits for an access, or if it needs no access, or one that it is given; else it waits for the access that it is
not given, or for the one after. -/
def ReadGoesOn (s t : State) (o : OpenRead) (ends : Bool) (x : Access) : Prop :=
  let u := s.fetchTurns x.turns
  let shown := { u with miso := o.sent, misoBits := o.sentBits }
  let served := u.serves .link x.waiting = true
  ((∃ e rest, s.linkQueue = e :: rest ∧ e ≠ .discard ∧ ∀ r, e ≠ .read r) → t = shown.withRead s.linkQueue o ends) ∧
  ((∃ r rest, s.linkQueue = .read r :: rest ∧ r.needsAccess = true) → ¬served → t = shown.withRead s.linkQueue o ends) ∧
  (s.linkQueue = [] → u.Alone .link x.waiting ∨ o.NeedsNone ∨ (o.NeedsOne ∧ served) →
    Answered u o t.miso t.misoBits ∧
    (ends = true → t.openRead = none) ∧
    (ends = false → ∃ held, t.openRead = some
        { addr := o.addr + BitVec.ofNat 16 o.want, held := held, want := 0, bits := 0, sent := t.miso, sentBits := t.misoBits } ∧
      (o.want ≤ o.held.length → held = o.held.drop o.want) ∧
      (o.held.length < o.want →
        let last := (o.addr + BitVec.ofNat 16 (o.want - 1)).toNat
        held = (List.range (if last < 0x4000 then 15 - last % 16 else if last < 0x4018 then 3 - last % 4 else 0)).map fun i =>
          readByte u o (o.want + i))) ∧
    (o.NeedsNone → t.rotation = u.rotation) ∧ (¬o.NeedsNone → t.rotation = .link) ∧
    t = { u with
      linkQueue := [], miso := t.miso, misoBits := t.misoBits, openRead := t.openRead, rotation := t.rotation }) ∧
  (s.linkQueue = [] → o.needsAccess = true → ¬served → t = shown.withRead [] o ends) ∧
  (s.linkQueue = [] → o.NeedsMore → served → ¬u.Alone .link x.waiting →
    let w := o.afterSpan u
    t = ({ u with
      rotation := .link, miso := if ends then o.sent else w.sent, misoBits := o.sentBits }).withRead [] w ends)

/-! ### Freezes of capture streams -/

/-- The RUNNING HISTORY streams whose freeze condition is met are FROZEN, with no next instant and the CAPTURE_STATE occurrence
recorded: code 2, or 3 once the ring has wrapped, and the record index of the write position. Every other stream and its
event-table entry is as it was (R154, R157). -/
def FreezesStreams (s t : State) (met : FreezeCondition → Prop) : Prop :=
  ∀ n : Fin 2,
    let c := s.stream n
    let index := (c.writePos - c.base) / 16
    let freezes := c.mode = .history ∧ c.state = .running ∧ met c.freeze
    (freezes → t.stream n = { c with state := .frozen, nextInstant := none } ∧
      t.event (captureStateSource n) =
        foldOccurrence s.tick
          { first := if c.wrapCount = 0 then 2 else 3, second := index % 256, third := index / 256 }
          (s.event (captureStateSource n))) ∧
    (¬freezes → t.stream n = c ∧ t.event (captureStateSource n) = s.event (captureStateSource n))

/-! ### Starts of a segment -/

/-- A phase has been applied to the channels of a lane (R9, R10): a forced-off channel is OFF, any other has the phase's code, KEEP
keeping its own, and a PWM code takes the phase's duty and the segment's period with its carrier restarted. -/
def PhaseApplied (s t : State) (l : Fin 4) (phase : Phase) (period : Nat) : Prop :=
  ∀ c : Fin 6, (s.channel c).owner = some l →
    (s.forcedOff c = true → (t.channel c).code = .off) ∧
    (s.forcedOff c = false →
      let code := phase.codeFor c (s.channel c).code
      (t.channel c).code = code ∧
        (code.isPwm = true →
          (t.channel c).duty = phase.duty ∧ (t.channel c).period = period ∧ (t.channel c).carrierStart = s.tick))

/-- The context of a segment that starts at the present tick (R28). -/
def freshRun (s : State) (g : Segment) : Running where
  seg := g
  phaseIndex := 0
  phaseEnd := s.tick + BitVec.ofNat 32 ((segmentPhases s g).headD Phase.none).duration
  repeatsDone := 0
  elapsed := 0
  peak := 0
  samples := 0
  timeoutTick := if g.timeout = 0 then none else some (s.tick + BitVec.ofNat 32 (100 * g.timeout))
  stopMet := false
  endedPhase := none

/-- Readiness notices of the lanes of a set, as they stand in `t`, have reached the fetch engine: an SQ blocked on a lane that is
ready for its kind is READY, or EMPTY with no record left; every other SQ is as it was (R111). -/
def Noticed (s t : State) (set : LaneSet) : Prop :=
  ∀ q : Fin 4,
    let told := ∃ l k, (s.sq q).state = .blocked l k ∧ set.getLsbD l.val = true ∧ (t.lane l).readyFor k = true
    (told → t.sq q = { s.sq q with state := if (s.sq q).head = (s.sq q).tail then .empty else .ready }) ∧
      (¬told → t.sq q = s.sq q)

/-- The lanes of a set have started the heads of their queues at the present tick (R28, R62): each is RUNNING at phase 0 with its
hold over, and its channels have that phase; a stream ARMED on one of the lanes is RUNNING with its first instant at this tick
(R147); no other lane, no channel of another lane and no other stream has changed. -/
def StartsHeads (s t : State) (set : LaneSet) : Prop :=
  (∀ (l : Fin 4) (g : Segment) (rest : List Segment), set.getLsbD l.val = true → (s.lane l).queue = g :: rest →
      t.lane l = { s.lane l with state := .running (freshRun s g), queue := rest, holdTimer := none } ∧
        PhaseApplied s t l ((segmentPhases s g).headD Phase.none) g.period) ∧
    (∀ l : Fin 4, set.getLsbD l.val = false → t.lane l = s.lane l) ∧
    (∀ c : Fin 6, (∀ l, (s.channel c).owner = some l → set.getLsbD l.val = false) → t.channel c = s.channel c) ∧
    (∀ n : Fin 2,
      let triggered := (s.stream n).state = .armed ∧ ∃ l : Fin 4, (s.stream n).trigger = .laneStart l ∧ set.getLsbD l.val = true
      (triggered → t.stream n = { s.stream n with state := .running, nextInstant := some s.tick }) ∧
        (¬triggered → t.stream n = s.stream n)) ∧
    Noticed s t set ∧ t = { s with lanes := t.lanes, channels := t.channels, streams := t.streams, sqs := t.sqs, gates := t.gates }

/-- A lane that may start has taken the head of its queue (R13): without a gate it has started; with a gate it is GATED and, if it
is no member of the gate, stranded (R60); a member has joined the arrival set, a first arrival has started the wait timer (R61,
R63), and the last one has fired the gate, so that every member has started its head at this tick (R62). -/
def TakesHead (s t : State) (l : Fin 4) (g : Segment) : Prop :=
  match g.gate with
  | none => StartsHeads s t (laneBit l) ∧ t.gates = s.gates
  | some x =>
    let gated := { s with
      lanes := s.lanes.set l
        { s.lane l with state := .gated, resume := if (s.lane l).state = .holding then .holding else .idle } }
    let gate := s.gate x
    let arrived := gate.arrivals ||| laneBit l
    (gate.members.getLsbD l.val = false → t = gated) ∧
      (gate.members.getLsbD l.val = true → arrived ≠ gate.members → t = { gated with
        gates := s.gates.set x
          { gate with
            arrivals := arrived
            waitTimer := if gate.arrivals = 0 ∧ gate.timeout ≠ 0 then some (100 * gate.timeout) else gate.waitTimer } }) ∧
      (gate.members.getLsbD l.val = true → arrived = gate.members →
        StartsHeads gated t gate.members ∧ t.gates = s.gates.set x { gate with arrivals := 0, waitTimer := none })

/-! ### Re-arming -/

/-- A lane has been handed a re-arming (R84): a HELD lane with every domain that meets its channels ARMED is IDLE and takes the head
of its queue if it may start (R13); any other lane takes nothing. -/
def HandedRearming (s t : State) (l : Fin 4) : Prop :=
  let released := (s.lane l).state = .held ∧ ∀ d : Fin 3, s.meetsDomain l d = true → (s.domain d).state = .armed
  let v := { s with lanes := s.lanes.set l { s.lane l with state := .idle } }
  (¬released → t = s) ∧
    (released → ((s.lane l).queue = [] ∨ v.mayStart l = false → t = v) ∧
      ∀ g rest, (s.lane l).queue = g :: rest → v.mayStart l = true → TakesHead v t l g)

/-- Every lane has been handed a re-arming, in the order of their numbers (R82 to R84; the order is the model's choice,
notes/assumptions/28.md). -/
def LanesRearmed (s t : State) : Prop :=
  ∃ a b c : State, HandedRearming s a 0 ∧ HandedRearming a b 1 ∧ HandedRearming b c 2 ∧ HandedRearming c t 3

/-! ### Endings of a segment -/

/-- A cause of R34 has arisen at the present tick for a running segment: its current stop is met on the sample of this tick, which
the segment is marked with (R31); its input stop is met by a change of its sense input that is due, at a tick after its start tick
(R32); its timeout tick is reached (R33); or the last pass of its repeat count completes (R29). -/
def CauseArises (s : State) (r : Running) : Status → Prop
  | .stoppedCurrent => r.stopMet = true
  | .stoppedInput => ∃ x, r.seg.inputStop = some x ∧ 0 < r.elapsed ∧ (s.senseInput x.input).due = true ∧
      match x.edge with
      | .rise => (s.senseInput x.input).high = false
      | .fall => (s.senseInput x.input).high = true
      | .any => True
  | .timedOut => r.timeoutTick = some s.tick
  | .done => PassEnds s r ∧ r.seg.repeatCount ≠ 0 ∧ min 255 (r.repeatsDone + 1) = r.seg.repeatCount
  | _ => False

/-- A running segment ends at the present tick with a status: that of the first cause in the order of R34 that has arisen. -/
def EndsNow (s : State) (r : Running) (st : Status) : Prop :=
  CauseArises s r st ∧
    match st with
    | .stoppedCurrent => True
    | .stoppedInput => ¬CauseArises s r .stoppedCurrent
    | .timedOut => ¬CauseArises s r .stoppedCurrent ∧ ¬CauseArises s r .stoppedInput
    | _ => ¬CauseArises s r .stoppedCurrent ∧ ¬CauseArises s r .stoppedInput ∧ ¬CauseArises s r .timedOut

/-- The detail of the completion of an ending (R44): the stop channel, the stop input, or 0. -/
def endingDetail (g : Segment) (st : Status) : Nat :=
  match st, g.currentStop, g.inputStop with
  | .stoppedCurrent, some x, _ => x.channel.val
  | .stoppedInput, _, some x => x.input.val
  | _, _, _ => 0

/-- The running segment of a lane has ended with a status (R35): its completion stands last in the outbox, the queue waits, the
lane is IDLE or HOLDING with its hold timer, COAST has turned the lane's channels OFF, a slot it referenced has been given
up, a TIMED_OUT ending has frozen the HISTORY streams that wait for a fault of the lane (R47), and no other lane, gate or channel
has changed. -/
def EndsWith (s t : State) (l : Fin 4) (r : Running) (st : Status) : Prop :=
  t.lane l =
      { s.lane l with
        state := if r.seg.endAction = .coast then .idle else .holding
        outbox := (s.lane l).outbox ++ [runCompletion s l r st (endingDetail r.seg st)]
        holdTimer :=
          if r.seg.endAction = .hold ∧ (s.lane l).holdLimit ≠ 0 then some (100 * (s.lane l).holdLimit) else none } ∧
    (∀ k : Fin 4, k ≠ l → t.lane k = s.lane k) ∧
    (∀ c : Fin 6, (s.channel c).owner = some l → r.seg.endAction = .coast → (t.channel c).code = .off) ∧
    (∀ c : Fin 6, (s.channel c).owner ≠ some l ∨ r.seg.endAction = .hold → t.channel c = s.channel c) ∧
    (∀ n : Fin 16, t.slot n =
      { s.slot n with useCount := if r.seg.uses n then (s.slot n).useCount - 1 else (s.slot n).useCount }) ∧
    FreezesStreams s t (fun f => st = .timedOut ∧ f = .onLaneFault l) ∧
    t = { s with channels := t.channels, lanes := t.lanes, slots := t.slots, streams := t.streams, events := t.events }

/-! ### Samples of the filters -/

/-- A filter has taken a sample (R86, R87, R143): one that does not count clears its count, one that counts adds to it, and the
one that completes the bound makes the change due. -/
def FilterTakes (bound : Nat) (counts : Bool) (count count' : Nat) (due' : Bool) : Prop :=
  (counts = false → count' = 0 ∧ due' = false) ∧
    (counts = true → count + 1 < bound → count' = count + 1 ∧ due' = false) ∧ (counts = true → bound ≤ count + 1 → due' = true)

/-- The filters of ENABLE and VS, at 5 samples, and of the sense inputs, at 3, have taken the samples of a tick; the filtered states
are as they were (R86, R87, R143). -/
def FiltersTake (s t : State) (p : PinSample) : Prop :=
  t.permit.enableHigh = s.permit.enableHigh ∧ t.permit.supplyGood = s.permit.supplyGood ∧
    FilterTakes 5 (p.enable != s.permit.enableHigh) s.permit.enableCount t.permit.enableCount t.permit.enableDue ∧
    FilterTakes 5 (if s.permit.supplyGood then decide (p.supply < 6000) else decide (6500 < p.supply)) s.permit.supplyCount
      t.permit.supplyCount t.permit.supplyDue ∧
    ∀ i : Fin 4, (t.senseInput i).high = (s.senseInput i).high ∧
      FilterTakes 3 (p.sense[i] != (s.senseInput i).high) (s.senseInput i).count (t.senseInput i).count (t.senseInput i).due

/-! ### Values after a reset -/

/-- Every lane, gate and domain at its values after any reset (R20, R71, R85). -/
def WorkAfterReset (t : State) : Prop :=
  (∀ l : Fin 4, (t.lane l).state = .unbound ∧ (t.lane l).owned = 0 ∧ (t.lane l).holdLimit = 0 ∧ (t.lane l).queue = [] ∧
      (t.lane l).resume = .idle ∧ (t.lane l).outbox = [] ∧ (t.lane l).holdTimer = none ∧ (t.lane l).expiryCount = 0 ∧
      ∀ k, (t.lane l).readyFor k = true) ∧
    (∀ g : Fin 4, (t.gate g).members = 0 ∧ (t.gate g).timeout = 0 ∧ (t.gate g).arrivals = 0 ∧ (t.gate g).waitTimer = none) ∧
    (t.domain 0).members = 0x3F ∧ (t.domain 1).members = 0 ∧ (t.domain 2).members = 0 ∧
    ∀ d : Fin 3, (t.domain d).state = .armed ∧ (t.domain d).tripCount = 0 ∧ (t.domain d).tripLimit = 0

/-- Every channel, pattern slot and capture stream at its values after any reset (R11, R57, R158). -/
def OutputAfterReset (t : State) : Prop :=
  (∀ c : Fin 6, (t.channel c).code = .off ∧ (t.channel c).duty = 0 ∧ (t.channel c).period = 0 ∧ (t.channel c).owner = none ∧
      (t.channel c).bbm = 4 ∧ (t.channel c).threshold = 2000 ∧ (t.channel c).overCount = false) ∧
    (∀ n : Fin 16, (t.slot n).valid = false ∧ (t.slot n).useCount = 0) ∧
    ∀ n : Fin 2, (t.stream n).state = .off ∧ (t.stream n).mode = .stream ∧ (t.stream n).base = 0 ∧ (t.stream n).size = 0 ∧
      (t.stream n).writePos = 0 ∧ (t.stream n).readPos = 0 ∧ (t.stream n).interval = 1 ∧ (t.stream n).trigger = .immediate ∧
      (t.stream n).freeze = .manual ∧ (t.stream n).nextInstant = none ∧ (t.stream n).sequence = 0 ∧
      (t.stream n).dropCount = 0 ∧ (t.stream n).wrapCount = 0

/-- The engine, the fetch engine, the posting engine and the link at their values after any reset (R118, R141, R165, R166). -/
def EngineAfterReset (t : State) : Prop :=
  t.engine = .stopped ∧ t.configError = .none ∧ t.fetch = .idle ∧ t.urgentPointer = 3 ∧ t.normalPointer = 3 ∧
    t.burstCredit = 0 ∧ t.postError = false ∧ t.releaseError = false ∧
    (∀ q : Fin 4, (t.sq q).state = .absent ∧ (t.sq q).head = 0 ∧ (t.sq q).tail = 0 ∧ (t.sq q).expected = 0) ∧
    (∀ q : Fin 2, (t.cq q).size = 0 ∧ (t.cq q).tail = 0 ∧ (t.cq q).hostHead = 0 ∧ (t.cq q).phaseTag = true ∧
      (t.cq q).unsignalled = 0 ∧ (t.cq q).delayTimer = none) ∧
    t.eventCq = none ∧ t.pendingList = [] ∧ t.lanePointer = 3 ∧ t.cqTurn = 1 ∧ (∀ e : Fin 12, t.event e = none) ∧
    t.cause = 0 ∧ t.enables = 0 ∧ t.irqnAsserted = false ∧ t.linkErrors = 0 ∧ t.rotation = .capture ∧ t.tripsDue = []

/-- Every block at its values after any reset. -/
def AfterReset (t : State) : Prop := WorkAfterReset t ∧ OutputAfterReset t ∧ EngineAfterReset t

/-- A row that begins or ends a power-on or pin reset (R171). -/
def isResetRow : Instr → Bool
  | .powerOnResetBegin => true
  | .powerOnResetEnd _ _ => true
  | .pinResetBegin _ => true
  | .pinResetEnd _ _ => true
  | _ => false

/-- A channel's sample counts against its trip threshold (R72): the channel is driven and the magnitude exceeds the threshold. -/
def countsAgainst (s : State) (p : PinSample) (c : Fin 6) : Bool :=
  (s.channel c).driven && decide ((s.channel c).threshold < (max (-4000) (min 4000 p.currents[c])).natAbs)

/-- A row that takes a HALT, a channel trip, a change of the permit or the end of a segment at a moment of the tick, by which a
drive may end (R74). -/
def endsDriveAt (c : Instr) (offset : Nat) : Prop :=
  c = .halt offset ∨ (∃ k, c = .shortDetect k offset) ∨
    (offset = 0 ∧ (c = .enableFilterChange ∨ c = .supplyFilterChange ∨
      ∃ l, c = .phaseEnd l ∨ c = .segmentTimeout l ∨ c = .holdExpiry l))

/-! ### The switches of a channel -/

/-- The BBM interval of a channel lies in its range (R3). -/
def bbmOk (bbm : Nat) : Prop := 1 ≤ bbm ∧ bbm ≤ 16

/-- The duty and the period of a drive lie in their ranges where its code is a PWM code (R3). -/
def driveOk (code : DriveCode) (duty period : Nat) : Prop :=
  code = .pwmH ∨ code = .pwmL ∨ code = .pwmC → duty ≤ 1000 ∧ 20 ≤ period ∧ period ≤ 200

/-- The high switch conducts at a moment of a drive, in ns from the drive's tick, by R4 to R6, with the interval b in force: always
under HIGH; in the on-time under PWM_H; and in the on-time under PWM_C, after b where the low switch conducted in the period before,
unless the on-time is not longer than b. What the earlier drive holds back (R7) comes on top. -/
def HighConducts (code : DriveCode) (duty period b t : Nat) : Prop :=
  let whole := 1000 * period
  let on := period * duty
  match code with
  | .high => True
  | .pwmH => t % whole < on
  | .pwmC => duty = 1000 ∨ (b < on ∧ t % whole < on ∧ (t < whole ∨ whole - on ≤ b ∨ b ≤ t % whole))
  | _ => False

/-- The low switch conducts at a moment of a drive, likewise: always under LOW; in the on-time under PWM_L; and in the off-time
under PWM_C, at once where the on-time is not longer than b, else after b, unless the off-time is not longer than b. -/
def LowConducts (code : DriveCode) (duty period b t : Nat) : Prop :=
  let whole := 1000 * period
  let on := period * duty
  match code with
  | .low => True
  | .pwmL => t % whole < on
  | .pwmC => on ≤ t % whole ∧ (on ≤ b ∨ (b < whole - on ∧ on + b ≤ t % whole))
  | _ => False

/-! ### The checks of a SEGMENT record -/

/-- A byte offset at which one of the record's inline phase entries stands: as many as the phase source counts (R24). -/
def inlineEntry (r : List Byte) (o : Nat) : Prop := ∃ i, i < byteAt r 6 ∧ byteAt r 6 ≤ 5 ∧ o = 20 + 8 * i

/-- A phase of the pattern slot that the record names as its phase source (R24). -/
def slotPhase (s : State) (r : List Byte) (p : Phase) : Prop := ∃ n : Fin 16, byteAt r 6 = 16 + n.val ∧ p ∈ (s.slot n).phases

/-- The value of the drive-code nibble of a channel in the phase entry at a byte offset, through its three low bits (R175). -/
def driveNibble (r : List Byte) (o : Nat) (c : Fin 6) : Nat :=
  (if c.val % 2 = 0 then byteAt r (o + 2 + c.val / 2) else byteAt r (o + 2 + c.val / 2) / 16) % 8

/-- The twelve checks of a SEGMENT record for a lane, by their numbers, in the record's bytes: what makes each fail (R23, R24). -/
def SegmentFault (s : State) (l : Fin 4) (r : List Byte) : Nat → Prop
  | 1 => byteAt r 6 = 0 ∨ (5 < byteAt r 6 ∧ byteAt r 6 < 16) ∨ 31 < byteAt r 6
  | 2 => ∃ n : Fin 16, byteAt r 6 = 16 + n.val ∧ (s.slot n).valid = false
  | 3 => (∃ o, inlineEntry r o ∧ field16 r o = 0) ∨ ∃ p, slotPhase s r p ∧ p.duration = 0
  | 4 => (∃ o c, inlineEntry r o ∧ driveNibble r o c = 7) ∨ ∃ p, slotPhase s r p ∧ ∃ c : Fin 6, p.codes[c] = .invalid
  | 5 => (∃ o c, inlineEntry r o ∧ driveNibble r o c ≠ 0 ∧ (s.lane l).owned.getLsbD c.val = false) ∨
      ∃ p, slotPhase s r p ∧ ∃ c : Fin 6, p.codes[c] ≠ .keep ∧ (s.lane l).owned.getLsbD c.val = false
  | 6 => byteAt r 9 < 20 ∨ 200 < byteAt r 9
  | 7 => (∃ o, inlineEntry r o ∧ 1000 < field16 r (o + 5)) ∨ ∃ p, slotPhase s r p ∧ 1000 < p.duty
  | 8 => 1 < byteAt r 8
  | 9 => byteAt r 12 ≠ 0xFF ∧ ((s.lane l).owned.getLsbD (byteAt r 12) = false ∨ 1 < byteAt r 13 ∨ 4000 < field16 r 14)
  | 10 => byteAt r 17 ≠ 0xFF ∧ (3 < byteAt r 17 ∨ 2 < byteAt r 18)
  | 11 => 4 < byteAt r 5 ∨ ∃ g : Fin 4, byteAt r 5 = g.val + 1 ∧ (s.gate g).members.getLsbD l.val = false
  | 12 => byteAt r 7 = 0 ∧ byteAt r 12 = 0xFF ∧ byteAt r 17 = 0xFF ∧ field16 r 10 = 0
  | _ => False

/-! ### Rings in use -/

/-- A byte of exchange memory belongs to the configuration block, to a present SQ or CQ ring (an absent one has size 0), or to the
ring of an active capture stream other than `except` (R137, R146). -/
def Occupied (s : State) (except : Option (Fin 2)) (a : Nat) : Prop :=
  a < 0x100 ∨ (∃ q : Fin 4, (s.sq q).base ≤ a ∧ a < (s.sq q).base + 64 * (s.sq q).size) ∨
    (∃ q : Fin 2, (s.cq q).base ≤ a ∧ a < (s.cq q).base + 16 * (s.cq q).size) ∨
    ∃ n : Fin 2, some n ≠ except ∧ (s.stream n).state ≠ .off ∧ (s.stream n).base ≤ a ∧
      a < (s.stream n).base + (s.stream n).size

/-- Some bytes from an offset on share a byte with what is occupied (R137, R146). -/
def SharesByte (s : State) (except : Option (Fin 2)) (base size : Nat) : Prop :=
  ∃ a, base ≤ a ∧ a < base + size ∧ Occupied s except a

/-! ### The checks of the configuration block -/

/-- A ring of the configuration block is present and occupies a byte of exchange memory: rings 0 to 3 are SQ0 to SQ3, with entries
of 64 bytes, rings 4 and 5 are CQ0 and CQ1, with entries of 16 (R114). -/
def ringCovers (b : List Byte) (i : Fin 6) (a : Nat) : Prop :=
  let d := 0x10 + 8 * i.val
  byteAt b (d + 2) ≠ 0 ∧ field16 b d ≤ a ∧ a < field16 b d + (if i.val < 4 then 64 else 16) * 2 ^ byteAt b (d + 2)

/-- A CQ number is above 1 or names a CQ that the block does not have (R114). -/
def namesNoCq (b : List Byte) (n : Nat) : Prop := 1 < n ∨ byteAt b (0x30 + 8 * n + 2) = 0

/-- The five checks of the configuration block, in its bytes: what makes each fail (R114). -/
def ConfigFault (s : State) (b : List Byte) : ConfigError → Prop
  | .badSignature => ¬(byteAt b 0 = 0x54 ∧ byteAt b 1 = 0x51 ∧ byteAt b 2 = 0x36 ∧ byteAt b 3 = 0x43)
  | .badGeometry =>
    (∃ q : Fin 4, let d := 0x10 + 8 * q.val
      let log2 := byteAt b (d + 2)
      log2 ≠ 0 ∧ (log2 < 2 ∨ 7 < log2 ∨ field16 b d % 64 ≠ 0 ∨ 0x4000 < field16 b d + 64 * 2 ^ log2 ∨ 1 < byteAt b (d + 3) ∨
        (byteAt b (d + 3) = 0 ∧ (byteAt b (d + 4) < 1 ∨ 8 < byteAt b (d + 4))))) ∨
    ∃ q : Fin 2, let d := 0x30 + 8 * q.val
      let log2 := byteAt b (d + 2)
      log2 ≠ 0 ∧ (log2 < 3 ∨ 8 < log2 ∨ field16 b d % 16 ≠ 0 ∨ 0x4000 < field16 b d + 16 * 2 ^ log2 ∨ byteAt b (d + 3) < 1 ∨
        32 < byteAt b (d + 3))
  | .overlap => ∃ i a, ringCovers b i a ∧ (a < 0x100 ∨ (∃ j, j ≠ i ∧ ringCovers b j a) ∨
      ∃ n : Fin 2, (s.stream n).state ≠ .off ∧ (s.stream n).base ≤ a ∧ a < (s.stream n).base + (s.stream n).size)
  | .missingQueue => byteAt b 0x12 = 0 ∨ byteAt b 0x32 = 0
  | .badTarget => (∃ q : Fin 4, byteAt b (0x10 + 8 * q.val + 2) ≠ 0 ∧ namesNoCq b (byteAt b (0x10 + 8 * q.val + 5))) ∨
      namesNoCq b (byteAt b 0x40)
  | .none => False

/-- A check of the configuration block is the first that fails, in the order of R114, which is that of the codes. -/
def firstConfigFault (s : State) (b : List Byte) (e : ConfigError) : Prop :=
  ConfigFault s b e ∧ ∀ e', e'.code < e.code → ¬ConfigFault s b e'

/-- A row takes a filter change of the permit monitor that is due, with the permit on. -/
def lossRow (s : State) (c : Instr) : Prop :=
  (c = .enableFilterChange ∧ s.permit.enableDue = true) ∨ (c = .supplyFilterChange ∧ s.permit.supplyDue = true)

/-- A channel has kept its owner, its trip threshold, its BBM interval and its over-count. -/
def KeepsLimits (c d : Channel) : Prop :=
  d.owner = c.owner ∧ d.threshold = c.threshold ∧ d.bbm = c.bbm ∧ d.overCount = c.overCount

/-- Exchange memory holds some bytes from an offset on. -/
def memoryHolds (s : State) (a : Nat) (bs : List Byte) : Prop := ∀ i (h : i < bs.length), Memory.read s.xm (a + i) = bs[i]

end Sys2Proof.Machine
end

