-- ==== Sys2Proof/Certificates/Slice0/Obligations.lean ====
section
/-! DEFINITION. The statements about the part, for the provers. -/

open Sys2Proof Sys2Proof.Machine

/-! ### The step -/

/-- A step takes the command at the front of the queue and leaves the rest; with none the part idles (the model's own queue,
notes/assumptions/11.md). -/
def Obligations.StepTakesFrontCommand : Prop :=
  (∀ (c : Instr) (s : State) (rest : List Instr), step { s with pending := c :: rest } = exec c { s with pending := rest }) ∧
    ∀ s : State, s.pending = [] → step s = .next s

/-- Every command answers a next state, and none touches the queue of waiting commands: the model's queue (notes/assumptions/11.md).
That no command stops is its deduction: the manual gives every row an effect in every state (notes/assumptions/13.md), and a row
whose occasion has not come changes nothing (notes/assumptions/1.md). -/
def Obligations.EveryCommandKeepsQueue : Prop :=
  ∀ (c : Instr) (s : State), ∃ t, exec c s = .next t ∧ t.pending = s.pending

/-- While a power-on or pin reset lasts, no block acts and the link takes no frame (R171). -/
def Obligations.HeldPartIgnoresCommands : Prop :=
  ∀ (c : Instr) (s : State), s.inReset = true → isResetRow c = false → exec c s = .next s

/-! ### Resets -/

/-- Each of the three resets leaves every lane, gate and domain at the values of R20, R71 and R85, and every channel with
over-count 0 and trip threshold 2000 mA (R11, R85). -/
def Obligations.EveryResetReturnsBlocks : Prop :=
  (∀ (s : State) (p : PinSample) (csnLow : Bool), s.hold.vddLow = true → s.hold.resetnLow = false →
      ∃ t, exec (.powerOnResetEnd p csnLow) s = .next t ∧ WorkAfterReset t ∧
        ∀ c : Fin 6, (t.channel c).overCount = false ∧ (t.channel c).threshold = 2000) ∧
    (∀ (s : State) (p : PinSample) (csnLow : Bool), s.hold.resetnLow = true → s.hold.vddLow = false →
      ∃ t, exec (.pinResetEnd p csnLow) s = .next t ∧ WorkAfterReset t ∧
        ∀ c : Fin 6, (t.channel c).overCount = false ∧ (t.channel c).threshold = 2000) ∧
    ∀ (s : State) (p : PinSample) (turns : Nat) (v : BitVec 32), s.Handed .control v → v.getLsbD 1 = true →
      ∃ t, exec (.softReset p turns) s = .next t ∧ WorkAfterReset t ∧
        ∀ c : Fin 6, (t.channel c).overCount = false ∧ (t.channel c).threshold = 2000

/-- A power-on or pin reset begins with every channel OFF, every block at its values after a reset, IRQN released, MISO not driven,
no frame in progress and the tick counter standing (R11, R165, R171; the state meanwhile is notes/assumptions/9.md). The accesses
that the fetch side has taken before a pin reset stand (R140, R166): `turns` of them. A pin reset of a part that is already held
changes nothing. -/
def Obligations.ResetBeginsWithDriveOff : Prop :=
  (∀ s : State, ∃ t, exec .powerOnResetBegin s = .next t ∧ t.inReset = true ∧ t.hold.por = true ∧ AfterReset t ∧
      t.tick = s.tick ∧ t.resetCause = s.resetCause ∧ t.linkQueue = [] ∧ t.openRead = none ∧ t.misoDriven = false) ∧
    (∀ (s : State) (turns : Nat), s.Awake →
      ∃ t, exec (.pinResetBegin turns) s = .next t ∧ t.inReset = true ∧ t.hold.por = false ∧ AfterReset t ∧
        t.tick = s.tick ∧ t.resetCause = s.resetCause ∧ t.xm = (s.fetchTurns turns).xm ∧ t.linkQueue = [] ∧ t.openRead = none ∧
        t.misoDriven = false) ∧
    ∀ (s : State) (turns : Nat), s.inReset = true → exec (.pinResetBegin turns) s = .next s

/-- What each reset leaves apart from the blocks' values: the tick counter at 0, its own reset cause, exchange memory zero after
a power-on reset and kept by the others with the accesses taken before them, the filters of ENABLE, VS and the sense inputs, with
their counts, kept by a soft reset alone, where they go on with the samples of tick 0, and after a power-on or pin reset the sense
inputs at the levels of the sample of tick 0 (R92, R143, R166, R171 to R173). A soft reset keeps the link's frames, a power-on or
pin reset none of them. A power-on reset that RESETN outlasts ends with RESETN. -/
def Obligations.ResetsKeepWhatTheyKeep : Prop :=
  (∀ (s : State) (p : PinSample) (csnLow : Bool), s.hold.vddLow = true → s.hold.resetnLow = false → s.hold.por = true →
      ∃ t, exec (.powerOnResetEnd p csnLow) s = .next t ∧ t.Awake ∧ AfterReset t ∧ t.tick = 0 ∧ t.resetCause = .por ∧
        t.xm = [] ∧ t.permitOn = false ∧ t.permitCause = 3 ∧ t.awaitCsnRise = csnLow ∧ t.linkQueue = [] ∧ t.openRead = none ∧
        ∀ i : Fin 4, (t.senseInput i).high = p.sense[i] ∧ (t.senseInput i).count = 0) ∧
    (∀ (s : State) (p : PinSample) (csnLow : Bool), s.hold.vddLow = true → s.hold.resetnLow = true →
      exec (.powerOnResetEnd p csnLow) s = .next { s with hold := { s.hold with vddLow := false } }) ∧
    (∀ (s : State) (p : PinSample) (csnLow : Bool), s.hold.resetnLow = true → s.hold.vddLow = false →
      ∃ t, exec (.pinResetEnd p csnLow) s = .next t ∧ t.Awake ∧ AfterReset t ∧ t.tick = 0 ∧
        t.resetCause = (if s.hold.por then .por else .pin) ∧ t.xm = (if s.hold.por then [] else s.xm) ∧
        t.permitOn = false ∧ t.permitCause = 3 ∧ t.awaitCsnRise = csnLow ∧ t.linkQueue = [] ∧ t.openRead = none ∧
        ∀ i : Fin 4, (t.senseInput i).high = p.sense[i] ∧ (t.senseInput i).count = 0) ∧
    ∀ (s : State) (p : PinSample) (turns : Nat) (v : BitVec 32), s.Handed .control v → v.getLsbD 1 = true →
      s.permit.enableDue = false → s.permit.supplyDue = false → (∀ i : Fin 4, (s.senseInput i).due = false) →
      ∃ t, exec (.softReset p turns) s = .next t ∧ t.Awake ∧ AfterReset t ∧ t.tick = 0 ∧ t.resetCause = .soft ∧
        t.xm = (s.fetchTurns turns).xm ∧ t.permitOn = s.permitOn ∧ t.permitCause = s.permitCause ∧ FiltersTake s t p ∧
        t.awaitCsnRise = s.awaitCsnRise ∧ t.linkQueue = s.linkQueue.tail ∧ t.openRead = s.openRead

/-! ### Ticks and samples -/

/-- A tick advances the counter by one modulo 2^32 and stores the samples, each clamped to -4000..4000 mA; the engine, the fetch
engine, the pending list, the frames of the link and exchange memory's reader of the configuration do not see it (R1, R142). At a
tick with nothing left due before it and no event taken first, on whose samples no channel trips, the filters of ENABLE, VS and the
sense inputs take their samples (R86, R87, R143), every hold, wait and delay timer that runs counts one tick (R37, R63, R133), and
apart from the running segments, the over-counts and what the end of a segment by its current stop does, nothing else changes: a
running lane keeps its channels, its hold limit and count and its queue, every channel its owner, threshold and interval, a channel
of no lane whose segment may end by a current stop its drive (whose start moves on when the drive lasts very long,
notes/assumptions/5.md), and a slot that no such segment uses its use count. -/
def Obligations.TickAdvancesAndSamples : Prop :=
  ∀ (s : State) (p : PinSample) (o : TickOrder), s.Awake →
    ∃ t, exec (.tick p o) s = .next t ∧ t.tick = s.tick + 1 ∧
      (∀ c : Fin 6, t.lastSample[c] = max (-4000) (min 4000 p.currents[c])) ∧ t.engine = s.engine ∧ t.fetch = s.fetch ∧
      t.configRead = s.configRead ∧ t.pendingList = s.pendingList ∧ t.linkQueue = s.linkQueue ∧ t.openRead = s.openRead ∧
      let mayEnd := fun l : Fin 4 => ∃ r, (s.lane l).state = .running r ∧ r.seg.currentStop ≠ none
      (s.NothingDue → o.first = [] → (∀ c : Fin 6, countsAgainst s p c = true → (s.channel c).overCount = false) →
        FiltersTake s t p ∧
        (∀ l : Fin 4, (s.lane l).isRunning = false →
          t.lane l = { s.lane l with holdTimer := (s.lane l).holdTimer.map (· - 1) }) ∧
        (∀ g : Fin 4, t.gate g = { s.gate g with waitTimer := (s.gate g).waitTimer.map (· - 1) }) ∧
        (∀ q : Fin 2, t.cq q = { s.cq q with delayTimer := (s.cq q).delayTimer.map (· - 1) }) ∧
        (∀ (l : Fin 4) (r : Running), (s.lane l).state = .running r →
          (t.lane l).owned = (s.lane l).owned ∧ (t.lane l).holdLimit = (s.lane l).holdLimit ∧
            (t.lane l).expiryCount = (s.lane l).expiryCount ∧ (t.lane l).queue = (s.lane l).queue ∧
            (t.lane l).resume = (s.lane l).resume) ∧
        (∀ c : Fin 6, (t.channel c).owner = (s.channel c).owner ∧ (t.channel c).threshold = (s.channel c).threshold ∧
          (t.channel c).bbm = (s.channel c).bbm) ∧
        (∀ c : Fin 6, (∀ l, (s.channel c).owner = some l → ¬mayEnd l) →
          t.channel c = { (s.channel c).rebase (s.tick + 1) with overCount := (t.channel c).overCount } ∧
            (t.channel c).code = (s.channel c).code ∧ (t.channel c).duty = (s.channel c).duty ∧
            (t.channel c).period = (s.channel c).period) ∧
        (∀ n : Fin 16, t.slot n = { s.slot n with useCount := (t.slot n).useCount }) ∧
        (∀ n : Fin 16, (∀ l r, mayEnd l → (s.lane l).state = .running r → r.seg.uses n = false) → t.slot n = s.slot n) ∧
        t = { s with
          tick := t.tick, channels := t.channels, lanes := t.lanes, gates := t.gates, cqs := t.cqs, lastSample := t.lastSample
          permit := t.permit, senseInputs := t.senseInputs, slots := t.slots })

/-- The over-count and the overcurrent trip (R72, R74, R77): at a tick before which nothing was due, each channel's over-count
follows the table of R72, and an ARMED domain trips, once, exactly when a channel of it takes its second sample over the
threshold, in whatever order the tick's events are taken (R79), unless its trips are left until other commands of the tick have
been taken. A trip that was left trips the ARMED domain of its channel whatever that channel's drive has become: a report that was
made is not withdrawn (R74, R82). -/
def Obligations.SecondSampleOverTripsDomain : Prop :=
  (∀ (s : State) (p : PinSample) (o : TickOrder), s.Awake → s.NothingDue → s.DomainsOk →
    (∀ c : Fin 6, .overcurrentTrip c ∉ o.late) →
    ∃ t, exec (.tick p o) s = .next t ∧
      (∀ c : Fin 6, (t.channel c).overCount = (countsAgainst s p c && !(s.channel c).overCount)) ∧
      ∀ d : Fin 3, t.domain d =
        if (s.domain d).state = .armed ∧
            ∃ c : Fin 6, (s.domain d).members.getLsbD c.val = true ∧ countsAgainst s p c = true ∧ (s.channel c).overCount = true
        then
          { s.domain d with
            tripCount := min 255 ((s.domain d).tripCount + 1)
            state :=
              if (s.domain d).tripLimit ≠ 0 ∧ (s.domain d).tripLimit ≤ min 255 ((s.domain d).tripCount + 1) then .locked
              else .tripped }
        else s.domain d) ∧
    ∀ (s : State) (p : PinSample) (o : TickOrder) (c : Fin 6) (d : Fin 3), s.Awake → s.OnlyTripsDue → s.DomainsOk →
      s.tripsDue = [c] → (s.domain d).members.getLsbD c.val = true → (s.domain d).state = .armed →
      (∀ k : Fin 6, countsAgainst s p k = true → (s.channel k).overCount = false) →
      ∃ t, exec (.tick p o) s = .next t ∧
        t.domain d =
          { s.domain d with
            tripCount := min 255 ((s.domain d).tripCount + 1)
            state :=
              if (s.domain d).tripLimit ≠ 0 ∧ (s.domain d).tripLimit ≤ min 255 ((s.domain d).tripCount + 1) then .locked
              else .tripped } ∧
        ∀ e : Fin 3, e ≠ d → t.domain e = s.domain e

/-- A running segment at a tick on whose samples no channel trips (R30, R31, R34): it counts the tick and the sample and keeps the
larger peak; if its current stop is past blanking and met, by a magnitude above the threshold for RISE_ABOVE or below it for
FALL_BELOW, and is not left until other commands of the tick have been taken, it ends STOPPED_CURRENT with the stop channel as
detail and its progress at that tick. -/
def Obligations.RunningSegmentTakesSample : Prop :=
  ∀ (s : State) (p : PinSample) (o : TickOrder) (l : Fin 4) (r : Running), s.Awake → s.NothingDue → o.first = [] →
    .currentStop l ∉ o.late →
    (∀ c : Fin 6, countsAgainst s p c = true → (s.channel c).overCount = false) → (s.lane l).state = .running r →
    ∃ t, exec (.tick p o) s = .next t ∧
      let peak := max r.peak (peakOf (samplesOf p) (s.lane l).owned)
      let elapsed := min 4294967295 (r.elapsed + 1)
      let met := match r.seg.currentStop with
        | none => false
        | some x =>
          let magnitude := (max (-4000) (min 4000 p.currents[x.channel])).natAbs
          decide (x.blanking < r.samples + 1) &&
            match x.direction with
            | .riseAbove => decide (x.threshold < magnitude)
            | .fallBelow => decide (magnitude < x.threshold)
      (met = false → (t.lane l).state =
          .running { r with samples := r.samples + 1, elapsed := elapsed, peak := peak, stopMet := false, endedPhase := none } ∧
        (t.lane l).queue = (s.lane l).queue ∧ (t.lane l).outbox = (s.lane l).outbox) ∧
      (met = true → (t.lane l).state = (if r.seg.endAction = .coast then .idle else .holding) ∧
        (t.lane l).queue = (s.lane l).queue ∧
        ∃ c, (t.lane l).outbox = (s.lane l).outbox ++ [c] ∧ c.origin = r.seg.origin ∧ c.status = .stoppedCurrent ∧
          c.lane = some l ∧ some c.detail = r.seg.currentStop.map (·.channel.val) ∧ c.elapsed = elapsed ∧ c.peak = peak / 20 ∧
          c.lastPhase = some r.phaseIndex ∧
          c.repeats =
            if r.phaseEnd = s.tick + 1 ∧ (segmentPhases s r.seg).length ≤ r.phaseIndex + 1 then min 255 (r.repeatsDone + 1)
            else r.repeatsDone)

/-! ### Trips and the drive permit -/

/-- A short detector fires only while a switch of its channel conducts at the given moment of the tick, and then trips the ARMED
domain of the channel (R73, R77, R78): count and state; every member OFF; every bound lane that meets the domain HELD with its queue
kept, its hold timer stopped and its place in an arrival set given up, a gate whose set empties stopping its wait timer; a running
segment completed TRIPPED with the channel as detail, its slot given up and its lane's fault told; the event recorded; and the
HISTORY streams that freeze on a trip or on such a fault FROZEN (R154). No other domain, lane, channel or event source and nothing
else changes, and a channel that goes OFF keeps its owner, limits and over-count. A report to a domain that is not ARMED has no effect (R74). Nor has one of a channel that is OFF, except at the moment at which it
went OFF while a switch conducted: a HALT, a trip of another domain, a change of the permit or the end of a segment at the moment of
a report does not withdraw it, in whichever order the two are taken (R42, R74, R79). Which moment of the tick a row acts at, and
that an earlier drive counts at the moment of its end, is the model's choice (notes/assumptions/19.md, notes/assumptions/26.md). -/
def Obligations.ShortTripsArmedDomain : Prop :=
  (∀ (s : State) (c : Fin 6) (offset : Nat), s.conducting c offset = true ↔
      let t := (s.channel c).elapsedNs s.tick + offset
      (s.channel c).highOn t = true ∨ (s.channel c).lowOn t = true ∨
        (t = (s.channel c).applied ∧ (s.channel c).conductedThen = true)) ∧
    (∀ (s : State) (c : Fin 6) (offset : Nat) (d : Fin 3), s.Awake → s.conducting c offset = true → s.DomainsOk →
      (s.domain d).members.getLsbD c.val = true → (s.domain d).state = .armed →
      ∃ t, exec (.shortDetect c offset) s = .next t ∧
        let count := min 255 ((s.domain d).tripCount + 1)
        let st : DomainState := if (s.domain d).tripLimit ≠ 0 ∧ (s.domain d).tripLimit ≤ count then .locked else .tripped
        let working := fun l : Fin 4 => (s.lane l).state = .holding ∨ (s.lane l).state = .gated ∨ ∃ r, (s.lane l).state = .running r
        t.domain d = { s.domain d with tripCount := count, state := st } ∧ (∀ e : Fin 3, e ≠ d → t.domain e = s.domain e) ∧
        (∀ k : Fin 6, (s.domain d).members.getLsbD k.val = true → (t.channel k).code = .off) ∧
        (∀ k : Fin 6, KeepsLimits (s.channel k) (t.channel k)) ∧
        (∀ l : Fin 4, s.meetsDomain l d = true → (s.lane l).state ≠ .unbound →
          t.lane l =
            { s.lane l with
              state := .held
              holdTimer := if (s.lane l).state = .idle ∨ (s.lane l).state = .held then (s.lane l).holdTimer else none
              outbox := (s.lane l).outbox ++
                match (s.lane l).state with
                | .running r => [runCompletion s l r .tripped c.val]
                | _ => [] } ∧
          (working l → ∀ k : Fin 6, (s.channel k).owner = some l → (t.channel k).code = .off)) ∧
        (∀ l : Fin 4, s.meetsDomain l d = false ∨ (s.lane l).state = .unbound → t.lane l = s.lane l) ∧
        (∀ k : Fin 6, (s.domain d).members.getLsbD k.val = false →
          (∀ l : Fin 4, (s.channel k).owner = some l → s.meetsDomain l d = true → ¬working l) → t.channel k = s.channel k) ∧
        (∀ g : Fin 4,
          (∀ l : Fin 4, (t.gate g).arrivals.getLsbD l.val =
            ((s.gate g).arrivals.getLsbD l.val && !(s.meetsDomain l d && (s.lane l).state == .gated))) ∧
          t.gate g =
            { s.gate g with
              arrivals := (t.gate g).arrivals
              waitTimer :=
                if (t.gate g).arrivals = 0 ∧ (s.gate g).arrivals ≠ 0 then none else (s.gate g).waitTimer }) ∧
        (∀ n : Fin 16, t.slot n =
          { s.slot n with
            useCount := (s.slot n).useCount - allLanes.countP fun l => s.meetsDomain l d &&
              match (s.lane l).state with
              | .running r => r.seg.uses n
              | _ => false }) ∧
        t.event (domainTripSource d) =
          foldOccurrence s.tick { first := c.val, second := 2, third := st.code } (s.event (domainTripSource d)) ∧
        (∀ e : Fin 12, e ≠ domainTripSource d → e ≠ captureStateSource 0 → e ≠ captureStateSource 1 → t.event e = s.event e) ∧
        FreezesStreams s t (fun f =>
          f = .onTrip ∨ ∃ l r, f = .onLaneFault l ∧ s.meetsDomain l d = true ∧ (s.lane l).state = .running r) ∧
        t = { s with
          channels := t.channels, lanes := t.lanes, slots := t.slots, gates := t.gates, domains := t.domains
          streams := t.streams, events := t.events }) ∧
    (∀ (s : State) (c : Fin 6) (offset : Nat) (d : Fin 3), s.DomainsOk → (s.domain d).members.getLsbD c.val = true →
      (s.domain d).state ≠ .armed → exec (.shortDetect c offset) s = .next s) ∧
    (∀ (s : State) (c : Fin 6) (offset : Nat), s.conducting c offset = false → exec (.shortDetect c offset) s = .next s) ∧
    (∀ (s : State) (c : Fin 6) (offset : Nat), (s.channel c).code = .off →
      ((s.channel c).elapsedNs s.tick + offset ≠ (s.channel c).applied ∨ (s.channel c).conductedThen = false) →
      exec (.shortDetect c offset) s = .next s) ∧
    ∀ (s t : State) (c : Fin 6) (offset : Nat) (e : Instr), endsDriveAt e offset → exec e s = .next t →
      (s.channel c).applied ≤ (s.channel c).elapsedNs s.tick + offset → s.conducting c offset = true →
      t.conducting c offset = true

/-- The loss of the permit (R86 to R89): every channel OFF; every bound lane completes what it holds DISABLED, the running segment
first, then a gated head, then the queue, and is IDLE, or HELD if it was; a lane that so completed a segment tells a fault, and the
HISTORY streams that freeze on it are FROZEN (R47, R154); every gate's arrival set is empty, a set that empties stopping its wait
timer, and its members and timeout stay (R68); the segments' slots are given up (R46); an SQ blocked on a lane that is now ready is
told (R111); the occurrence is recorded, with a detail that its record does not carry (R129); and nothing else changes: the lanes
keep ownership, hold limits and expiry counts, the channels their owners, limits and over-counts. -/
def Obligations.PermitLossDisablesLanes : Prop :=
  ∀ (s : State) (c : Instr), s.Awake → s.permitOn = true → s.LanesOk → lossRow s c →
    ∃ t, exec c s = .next t ∧ t.permitOn = false ∧
      (∀ k : Fin 6, (t.channel k).code = .off ∧ KeepsLimits (s.channel k) (t.channel k)) ∧
      (∀ l : Fin 4, (s.lane l).state = .unbound → t.lane l = s.lane l) ∧
      (∀ l : Fin 4, (s.lane l).state ≠ .unbound →
        t.lane l =
          { s.lane l with
            state := if (s.lane l).state = .held then .held else .idle
            queue := []
            holdTimer := none
            outbox := (s.lane l).outbox ++
              match (s.lane l).state, (s.lane l).queue with
              | .running r, queue =>
                runCompletion s l r .disabled 1 :: queue.map fun g => plainCompletion g.origin .disabled (some l) 0
              | .gated, g :: rest =>
                plainCompletion g.origin .disabled (some l) 2 ::
                  rest.map fun g => plainCompletion g.origin .disabled (some l) 0
              | _, queue => queue.map fun g => plainCompletion g.origin .disabled (some l) 0 }) ∧
      (∀ g : Fin 4, t.gate g =
        { s.gate g with
          arrivals := 0, waitTimer := if (s.gate g).arrivals = 0 then (s.gate g).waitTimer else none }) ∧
      (∀ n : Fin 16, t.slot n =
        { s.slot n with
          useCount := (s.slot n).useCount -
            (allLanes.map fun l =>
              if (s.lane l).state = .unbound then 0 else (s.lane l).segments.countP fun g => g.uses n).sum }) ∧
      (∀ set : LaneSet, (∀ l : Fin 4, set.getLsbD l.val = true ↔ (s.lane l).state ≠ .unbound) → Noticed s t set) ∧
      FreezesStreams s t (fun f => ∃ l : Fin 4, f = .onLaneFault l ∧ (s.lane l).state ≠ .unbound ∧
        ((s.lane l).isRunning = true ∨ (s.lane l).queue ≠ [])) ∧
      t.event 3 = foldOccurrence s.tick { first := 0, second := 0, third := 0 } (s.event 3) ∧
      (∀ e : Fin 12, e ≠ 3 → e ≠ captureStateSource 0 → e ≠ captureStateSource 1 → t.event e = s.event e) ∧
      t = { s with
        permit := t.permit, channels := t.channels, lanes := t.lanes, gates := t.gates, slots := t.slots, sqs := t.sqs
        streams := t.streams, events := t.events }

/-- A change of a filtered state that does not take the permit away (R88, R90). One that returns the permit, with every queue empty,
leaves the lanes, gates and channels as they are and records the occurrence; one that leaves the permit OFF, a rise or a fall,
changes the filtered state and with it the cause alone. -/
def Obligations.PermitReturnStartsNothing : Prop :=
  (∀ s : State, s.Awake → s.permit.enableDue = true → s.permit.enableHigh = false →
      (∀ l : Fin 4, (s.lane l).queue = []) →
      exec .enableFilterChange s = .next
        (let t := { s with permit := { s.permit with enableHigh := true, enableCount := 0, enableDue := false } }
         if s.permit.supplyGood then { t with events := (t.recordEvent 3 { first := 0, second := 0, third := 0 }).events }
         else t)) ∧
    (∀ s : State, s.Awake → s.permit.supplyDue = true → s.permit.supplyGood = false →
      (∀ l : Fin 4, (s.lane l).queue = []) →
      exec .supplyFilterChange s = .next
        (let t := { s with permit := { s.permit with supplyGood := true, supplyCount := 0, supplyDue := false } }
         if s.permit.enableHigh then { t with events := (t.recordEvent 3 { first := 0, second := 0, third := 0 }).events }
         else t)) ∧
    (∀ s : State, s.Awake → s.permit.enableDue = true → s.permit.supplyGood = false →
      ∃ t, exec .enableFilterChange s = .next t ∧ t.permitCause = (if s.permit.enableHigh then 3 else 2) ∧
        t = { s with
          permit := { s.permit with enableHigh := !s.permit.enableHigh, enableCount := 0, enableDue := false } }) ∧
    ∀ s : State, s.Awake → s.permit.supplyDue = true → s.permit.enableHigh = false →
      ∃ t, exec .supplyFilterChange s = .next t ∧ t.permitCause = (if s.permit.supplyGood then 3 else 1) ∧
        t = { s with
          permit := { s.permit with supplyGood := !s.permit.supplyGood, supplyCount := 0, supplyDue := false } }

/-! ### Sense inputs, phases and endings -/

/-- A due change of a sense input (R143): the filtered state flips with count 0 and no other input changes; if no running
segment stops on the input nothing else changes, and a running segment whose input stop the change meets ends STOPPED_INPUT
(R32, R34, R35). -/
def Obligations.SenseChangeIsReported : Prop :=
  ∀ (s : State) (i : Fin 4), s.Awake → (s.senseInput i).due = true →
    ∃ t, exec (.senseInputChange i) s = .next t ∧
      t.senseInput i = { high := !(s.senseInput i).high, count := 0, due := false } ∧
      (∀ k : Fin 4, k ≠ i → t.senseInput k = s.senseInput k) ∧
      ((∀ (l : Fin 4) (r : Running), (s.lane l).state = .running r → r.seg.inputStop.map (·.input) ≠ some i) →
        t = { s with senseInputs := t.senseInputs }) ∧
      ∀ (l : Fin 4) (r : Running) (e : Edge), (s.lane l).state = .running r → r.seg.inputStop = some { input := i, edge := e } →
        0 < r.elapsed → (e = .any ∨ (e = .rise ↔ (s.senseInput i).high = false)) → r.stopMet = false →
        (t.lane l).state = (if r.seg.endAction = .coast then .idle else .holding) ∧
          (t.lane l).outbox = (s.lane l).outbox ++ [runCompletion s l r .stoppedInput i.val]

/-- A phase end tick at which no cause of R34 has arisen (R29, R9, R10): the next phase, or phase 0 of the next pass, is applied:
forced-off channels of the lane stay OFF, KEEP keeps a code, a PWM code takes the phase's duty and the segment's period; no
other lane or channel changes. -/
def Obligations.PhaseEndAppliesNextPhase : Prop :=
  ∀ (s : State) (l : Fin 4) (r : Running), s.Awake → (s.lane l).state = .running r → r.phaseEnd = s.tick →
    (∀ st, ¬CauseArises s r st) →
    ∃ t, exec (.phaseEnd l) s = .next t ∧
      let last := decide ((segmentPhases s r.seg).length ≤ r.phaseIndex + 1)
      let i := if last then 0 else r.phaseIndex + 1
      let phase := (segmentPhases s r.seg).getD i Phase.none
      t.lane l =
        { s.lane l with
          state := .running
            { r with
              phaseIndex := i
              phaseEnd := s.tick + BitVec.ofNat 32 phase.duration
              repeatsDone := if last then min 255 (r.repeatsDone + 1) else r.repeatsDone
              endedPhase := some r.phaseIndex } } ∧
      (∀ k : Fin 4, k ≠ l → t.lane k = s.lane k) ∧
      (∀ c : Fin 6, (s.channel c).owner ≠ some l → t.channel c = s.channel c) ∧
      (∀ c : Fin 6, (s.channel c).owner = some l → s.forcedOff c = true → (t.channel c).code = .off) ∧
      (∀ c : Fin 6, (s.channel c).owner = some l → s.forcedOff c = false →
        let code := phase.codeFor c (s.channel c).code
        (t.channel c).code = code ∧
          (code.isPwm = true → (t.channel c).duty = phase.duty ∧ (t.channel c).period = r.seg.period ∧
            (t.channel c).carrierStart = s.tick)) ∧
      t = { s with channels := t.channels, lanes := t.lanes }

/-- The end of a segment (R29, R31 to R35). At its phase end tick or its timeout tick, a running segment for which a cause of R34
has arisen ends with the status of the first of them: its current stop met on this tick's sample, its input stop met by a change
that is due, its timeout tick, the last pass of its repeat count. Its end action, completion and progress are those of R35 and R44.
SEGMENT_TIMEOUT always finds such a cause at the timeout tick, the timeout at the least; at another tick it changes nothing, and
neither does PHASE_END at a tick that is no phase end tick (notes/assumptions/1.md). That HOLD does not cut off the PWM period in
progress is the model's deduction (notes/assumptions/24.md), and the marks of a met current stop and of an ended phase are the
model's (notes/assumptions/7.md). -/
def Obligations.SegmentEndsByItsCause : Prop :=
  ∀ (s : State) (l : Fin 4) (r : Running), s.Awake → (s.lane l).state = .running r →
    (r.phaseEnd = s.tick → ∀ st, EndsNow s r st → ∃ t, exec (.phaseEnd l) s = .next t ∧ EndsWith s t l r st) ∧
    (r.timeoutTick = some s.tick →
      (∀ st, EndsNow s r st → ∃ t, exec (.segmentTimeout l) s = .next t ∧ EndsWith s t l r st) ∧
        ∃ st t, (st = .stoppedCurrent ∨ st = .stoppedInput ∨ st = .timedOut) ∧ EndsNow s r st ∧
          exec (.segmentTimeout l) s = .next t ∧ EndsWith s t l r st) ∧
    (r.phaseEnd ≠ s.tick → exec (.phaseEnd l) s = .next s) ∧
    (r.timeoutTick ≠ some s.tick → exec (.segmentTimeout l) s = .next s)

/-- The expiry of a hold (R38): the lane's channels go OFF and the expiry count increments; a HOLDING lane is IDLE and takes the
head of its queue if it may start (R13), a GATED lane stays GATED with resume state IDLE; no other lane's channel changes. -/
def Obligations.HoldExpiryTurnsChannelsOff : Prop :=
  ∀ (s : State) (l : Fin 4), s.Awake → (s.lane l).holdTimer = some 0 →
    ((s.lane l).state = .holding ∨ (s.lane l).state = .gated) →
    ∃ t v, exec (.holdExpiry l) s = .next t ∧ (t.lane l).expiryCount = min 255 ((s.lane l).expiryCount + 1) ∧
      (t.lane l).holdTimer = none ∧
      v.lane l =
        { s.lane l with
          state := if (s.lane l).state = .gated then .gated else .idle
          resume := if (s.lane l).state = .gated then .idle else (s.lane l).resume
          holdTimer := none
          expiryCount := min 255 ((s.lane l).expiryCount + 1) } ∧
      (∀ k : Fin 4, k ≠ l → v.lane k = s.lane k) ∧
      (∀ c : Fin 6, (s.channel c).owner = some l → (v.channel c).code = .off) ∧
      (∀ c : Fin 6, (s.channel c).owner ≠ some l → v.channel c = s.channel c) ∧
      v = { s with channels := v.channels, lanes := v.lanes } ∧
      ((s.lane l).state = .gated ∨ (s.lane l).queue = [] ∨ v.mayStart l = false → t = v) ∧
      ∀ g rest, (s.lane l).state = .holding → (s.lane l).queue = g :: rest → v.mayStart l = true → s.LanesOk → TakesHead v t l g

/-- The expiry of a gate's wait timer (R65): every arrived lane completes its head GATE_TIMEOUT with the gate number as detail
and returns to its resume state, the arrival set empties and the timer stops; no other lane and no channel changes. -/
def Obligations.GateTimeoutReturnsLanes : Prop :=
  ∀ (s : State) (g : Fin 4), s.Awake → (s.gate g).waitTimer = some 0 → s.LanesOk →
    ∃ t, exec (.gateTimeout g) s = .next t ∧ t.gate g = { s.gate g with arrivals := 0, waitTimer := none } ∧
      (∀ l : Fin 4, (s.gate g).arrivals.getLsbD l.val = true →
        ∃ x rest, (s.lane l).queue = x :: rest ∧
          t.lane l =
            { s.lane l with
              queue := rest
              state := if (s.lane l).resume = .idle then .idle else .holding
              outbox := (s.lane l).outbox ++ [plainCompletion x.origin .gateTimeout (some l) (g.val + 1)] }) ∧
      (∀ l : Fin 4, (s.gate g).arrivals.getLsbD l.val = false → t.lane l = s.lane l) ∧
      (∀ k : Fin 4, k ≠ g → t.gate k = s.gate k) ∧
      t = { s with lanes := t.lanes, slots := t.slots, gates := t.gates, sqs := t.sqs }

/-- The expiry of a CQ's delay timer (R133): the timer stops, and if records are unsignalled the count returns to 0 and the CQ's
CAUSE bit is set; nothing else changes. -/
def Obligations.DelayExpirySetsCause : Prop :=
  ∀ (s : State) (q : Fin 2), s.Awake → (s.cq q).delayTimer = some 0 →
    ∃ t, exec (.coalescingDelayExpiry q) s = .next t ∧ t.cq q = { s.cq q with unsignalled := 0, delayTimer := none } ∧
      (∀ k : Fin 2, k ≠ q → t.cq k = s.cq k) ∧
      (∀ b : Fin 3, t.cause.getLsbD b.val = (s.cause.getLsbD b.val || (decide (0 < (s.cq q).unsignalled) && b.val == q.val))) ∧
      t = { s with cqs := t.cqs, cause := t.cause }

/-- A sample instant (R148 to R151, R153): with room, or in HISTORY mode, a RUNNING stream writes the SAMPLE record at its write
position; without room it drops the sample and enters OVERRUN; an OVERRUN stream with room writes the GAP record and is RUNNING
again, and without room counts a drop. The sequence advances by one modulo 256 and the next instant by the interval; no byte of
memory outside the record written changes, and the other stream stays as it is. Each return of a STREAM ring to its base hands
CAPTURE_WRAP with the three bytes of the wrap count, the entry into OVERRUN hands CAPTURE_STATE with code 1 and the record index,
and no other occurrence is handed, none in HISTORY mode (R149, R150, R157). `x` holds the accesses of the fetch side taken before
and the agents that wait together with it (notes/assumptions/8.md): `u` is the state after those accesses. While another waiting
agent comes first in rotation, nothing happens (R166). -/
def Obligations.SampleInstantWritesOrDrops : Prop :=
  ∀ (s : State) (n : Fin 2) (x : Access), s.Awake → s.MemoryOk → s.instantDue n = true →
    (s.stream n).writePos + 16 ≤ Config.xmSize →
    let u := s.fetchTurns x.turns
    (u.serves .capture x.waiting = false → exec (.captureSampleInstant n x) s = .next s) ∧
    (u.serves .capture x.waiting = true → ∃ t, exec (.captureSampleInstant n x) s = .next t ∧
      let c := s.stream n
      let atEnd := c.writePos + 16 = c.base + c.size
      let next := if atEnd then c.base else c.writePos + 16
      let wraps := if atEnd then min 16777215 (c.wrapCount + 1) else c.wrapCount
      let room := c.mode = .history ∨ next ≠ c.readPos
      let sequence := (c.sequence + 1) % 256
      let instant := some (s.tick + BitVec.ofNat 32 c.interval)
      (∀ m : Fin 2, m ≠ n → t.stream m = s.stream m) ∧
      (room → ∀ a, (a < c.writePos ∨ c.writePos + 16 ≤ a) → Memory.read t.xm a = Memory.read u.xm a) ∧
      (room → (c.mode = .history ∨ c.state = .running) →
        memoryHolds t c.writePos (sampleBytes c.sequence s.tick s.lastSample) ∧
          t.stream n = { c with writePos := next, wrapCount := wraps, sequence := sequence, nextInstant := instant }) ∧
      (room → c.mode = .stream → c.state = .overrun →
        memoryHolds t c.writePos (gapBytes c.sequence s.tick (min 4294967295 (c.dropCount + 1))) ∧
          t.stream n =
            { c with
              writePos := next, wrapCount := wraps, sequence := sequence, nextInstant := instant, dropCount := 0
              state := .running }) ∧
      (¬room → t.xm = u.xm ∧
        t.stream n =
          { c with
            sequence := sequence, nextInstant := instant, state := .overrun
            dropCount := if c.state = .overrun then min 4294967295 (c.dropCount + 1) else 1 }) ∧
      t.event (captureWrapSource n) =
        (if c.mode = .stream ∧ room ∧ atEnd then
          foldOccurrence s.tick { first := wraps % 256, second := wraps / 256 % 256, third := wraps / 65536 }
            (s.event (captureWrapSource n))
        else s.event (captureWrapSource n)) ∧
      t.event (captureStateSource n) =
        (if ¬room ∧ c.state = .running then
          foldOccurrence s.tick
            { first := 1, second := (c.writePos - c.base) / 16 % 256, third := (c.writePos - c.base) / 16 / 256 }
            (s.event (captureStateSource n))
        else s.event (captureStateSource n)) ∧
      (∀ e : Fin 12, e ≠ captureWrapSource n → e ≠ captureStateSource n → t.event e = s.event e) ∧
      t = { u with xm := t.xm, rotation := t.rotation, streams := t.streams, events := t.events })

/-! ### The host link -/

/-- A read frame, whole or in parts (R159, R161; the parts are the model's, notes/assumptions/8.md and notes/assumptions/18.md). The
first part holds the address: MISO carries three zero bytes and then the byte of each address in turn, wrapping from 0xFFFF to 0:
exchange memory, the registers with the fields of section 10.8 (`registerFields`), or 0; the bits of an incomplete last byte follow.
A frame that goes on keeps the rest of the span or register of its last byte, and a later part shifts that out before it takes more.
Behind earlier writes, and behind an earlier read that waits, it waits, and the next frame may begin meanwhile (R164). Each span is
an access of its own: it is taken only when no waiting agent comes first in rotation (R166), and the bytes after it wait. A part
without a byte gives a read that waits its access. MISO is driven until CSN rises. A frame that is the remainder of one a reset cut
has no effect (R173): CSN rises at its end (notes/assumptions/16.md). -/
def Obligations.ReadFrameShiftsOutBytes : Prop :=
  ((∀ (s : State) (a : Nat), a < 0x4000 → s.hostByte a = Memory.read s.xm a) ∧
      (∀ (s : State) (k b : Nat), k < 6 → b < 32 → (s.hostByte (0x4000 + 4 * k + b / 8)).getLsbD (b % 8) = registerBit s k b) ∧
      ∀ (s : State) (a : Nat), 0x4018 ≤ a → s.hostByte a = 0) ∧
    (∀ (s : State) (lo hi : Byte) (rest : List Byte) (extra : Fin 8) (ends : Bool) (x : Access), s.Awake →
      s.awaitCsnRise = false → s.openRead = none →
      ∃ t, exec (.readFrame (lo :: hi :: rest) extra x ends) s = .next t ∧ t.misoDriven = !ends ∧
        ReadGoesOn s t
          { addr := BitVec.ofNat 16 (lo.toNat + 256 * hi.toNat), held := [], want := rest.length
            bits := if ends then extra else 0, sent := [0, 0, 0], sentBits := [] } ends x) ∧
    (∀ (s : State) (o : OpenRead) (body : List Byte) (extra : Fin 8) (ends : Bool) (x : Access), s.Awake →
      s.awaitCsnRise = false → s.openRead = some o →
      ∃ t, exec (.readFrame body extra x ends) s = .next t ∧ t.misoDriven = !ends ∧
        ReadGoesOn s t { o with want := o.want + body.length, bits := if ends then extra else 0 } ends x) ∧
    (∀ (s : State) (o : OpenRead) (extra : Fin 8) (x : Access), s.Awake → s.awaitCsnRise = false → s.openRead = none →
      s.linkQueue = [.read o] → o.needsAccess = true →
      let u := s.fetchTurns x.turns
      (u.serves .link x.waiting = false → exec (.readFrame [] extra x false) s = .next u) ∧
      (u.Alone .link x.waiting ∨ (o.NeedsOne ∧ u.serves .link x.waiting = true) →
        ∃ t, exec (.readFrame [] extra x false) s = .next t ∧ Answered u o t.miso t.misoBits ∧
          t = { u with linkQueue := [], miso := t.miso, misoBits := t.misoBits, rotation := .link }) ∧
      (o.NeedsMore → u.serves .link x.waiting = true → ¬u.Alone .link x.waiting →
        exec (.readFrame [] extra x false) s = .next { u with linkQueue := [.read (o.afterSpan u)], rotation := .link })) ∧
    (∀ (s : State) (body : List Byte) (extra : Fin 8) (x : Access), s.Awake → s.awaitCsnRise = false → s.openRead = none →
      body.length < 2 → body ≠ [] ∨ (∀ o rest, s.linkQueue = .read o :: rest → o.needsAccess = false) →
      exec (.readFrame body extra x false) s = .next s) ∧
    ∀ (s : State) (body : List Byte) (extra : Fin 8) (ends : Bool) (x : Access), s.Awake → s.awaitCsnRise = true →
      exec (.readFrame body extra x ends) s = .next { s with awaitCsnRise := !ends } ∧
        exec (.writeFrame body extra) s = .next { s with awaitCsnRise := false }

/-- The frames that R160 discards: an incomplete address, a code that is neither 0x3C nor 0xC3, a write with an incomplete
byte, with no data, with more than 256 data bytes, with a wrong trailer, or to a register that cannot be written (that the row
REGISTER_WRITE is such a write, of four bytes to IDENT or STATUS, is the model's choice, notes/assumptions/20.md). Each shifts out
0 bits and increments the link error count, which stays at 255, and does nothing else; while earlier frames wait, it is counted
after them (R164), so that neither a CLEAR_ERRORS nor a soft reset before it takes it back; that it is counted after a soft reset is
the model's deduction (notes/assumptions/15.md). -/
def Obligations.DiscardedFramesOnlyCount : Prop :=
  (∀ s : State, s.Awake → s.awaitCsnRise = false → s.openRead = none → LinkWaits s.linkQueue →
    let discarded := fun (n extra : Nat) =>
      { s with
        linkErrors := if s.linkQueue = [] then (if s.linkErrors < 255 then s.linkErrors + 1 else 255) else s.linkErrors
        linkQueue := if s.linkQueue = [] then [] else s.linkQueue ++ [.discard]
        miso := List.replicate n 0, misoBits := List.replicate extra false }
    (∀ (body : List Byte) (extra : Fin 8) (x : Access), body.length < 2 →
      exec (.readFrame body extra x true) s = .next (discarded (1 + body.length) extra.val)) ∧
    (∀ (code : Byte) (body : List Byte) (extra : Fin 8), code ≠ 0x3C → code ≠ 0xC3 →
      exec (.unknownCodeFrame code body extra) s = .next (discarded (1 + body.length) extra.val)) ∧
    (∀ (body : List Byte) (extra : Fin 8),
      extra ≠ 0 ∨ body.length < 4 ∨ 259 < body.length ∨ crc8 (0xC3 :: body.dropLast) ≠ body.getLastD 0 →
      exec (.writeFrame body extra) s = .next (discarded (1 + body.length) extra.val)) ∧
    ∀ (reg : ReadOnlyRegister) (data : Vector Byte 4) (trailer : Byte),
      exec (.registerWrite reg data trailer) s = .next (discarded 8 0)) ∧
    ∀ (s : State) (v : BitVec 32) (n : Nat) (p : PinSample) (turns : Nat), s.Awake →
      s.linkQueue = .reg .control v :: List.replicate n .discard →
      (v.getLsbD 2 = true → v.getLsbD 1 = false →
        ∃ t, exec .clearErrors s = .next t ∧ t.linkErrors = min 255 n ∧ t.linkQueue = []) ∧
      (v.getLsbD 1 = true → ∃ t, exec (.softReset p turns) s = .next t ∧ t.linkErrors = min 255 n ∧ t.linkQueue = [])

/-- An accepted write frame (R162 to R164): data that lies wholly in exchange memory becomes chunks behind the link's earlier work,
which together hold the data bytes at consecutive addresses, one for each aligned 16-byte span in rising order, and writes nothing
yet; exactly four bytes at 0x4004 (CONTROL), 0x400C (POST), 0x4010 (RELEASE) or 0x4014 (CAUSE) become that register's write,
little-endian; any other address is discarded whole, and counted when the earlier work is done. -/
def Obligations.AcceptedWriteBecomesChunks : Prop :=
  ∀ (s : State) (lo hi : Byte) (data : List Byte), s.Awake → s.awaitCsnRise = false → s.openRead = none →
    LinkWaits s.linkQueue → data ≠ [] → data.length ≤ 256 →
    let a := lo.toNat + 256 * hi.toNat
    ∃ t, exec (.writeFrame (lo :: hi :: (data ++ [crc8 (0xC3 :: lo :: hi :: data)])) 0) s = .next t ∧
      t.miso = List.replicate (data.length + 4) 0 ∧ t.misoBits = [] ∧
      (a + data.length ≤ 16384 → ∃ chunks : List (Nat × List Byte),
        t.linkQueue = s.linkQueue ++ chunks.map (fun c => .chunk c.1 c.2) ∧ chunks.flatMap (·.2) = data ∧
        (∀ c ∈ chunks, c.2 ≠ [] ∧ c.1 / 16 = (c.1 + c.2.length - 1) / 16) ∧
        (∀ i j (hi : i < chunks.length) (hj : j < chunks.length), i < j → (chunks[i]).1 / 16 < (chunks[j]).1 / 16) ∧
        (∀ i (h : i < chunks.length), (chunks[i]).1 = a + ((chunks.take i).flatMap (·.2)).length) ∧
        t = { s with linkQueue := t.linkQueue, miso := t.miso, misoBits := t.misoBits }) ∧
      (∀ r, writtenRegister a r → data.length = 4 → t = { s with
          linkQueue := s.linkQueue ++ [.reg r (BitVec.ofNat 32 (byteAt data 0 + 256 * byteAt data 1 +
            65536 * byteAt data 2 + 16777216 * byteAt data 3))]
          miso := t.miso, misoBits := t.misoBits }) ∧
      (16384 < a + data.length → ((∀ r, ¬writtenRegister a r) ∨ data.length ≠ 4) →
        t = { s with
          linkErrors := if s.linkQueue = [] then (if s.linkErrors < 255 then s.linkErrors + 1 else 255) else s.linkErrors
          linkQueue := if s.linkQueue = [] then [] else s.linkQueue ++ [.discard]
          miso := t.miso, misoBits := t.misoBits })

/-- The arbiter takes the chunk at the front of the link's queue (R163, R166): the chunk's bytes stand at its addresses and every
other byte of memory is as before. Then the link goes on in frame order (R164): discarded frames next in its queue are counted, and
a read frame that stands next shifts out its bytes if it needs no access to exchange memory; else it waits for an access of its own,
which the arbiter takes in its turn (R166), and anything else waits. While another waiting agent comes first in
rotation, nothing happens; and each access that the arbiter takes of another agent brings a waiting agent nearer to its turn, which
is at most five accesses away (R166). `x` holds the accesses of the fetch side taken before and the agents that wait
(notes/assumptions/8.md): `u` is the state after those accesses. -/
def Obligations.ChunkIsOneWrite : Prop :=
  (∀ (s : State) (a : Nat) (data : List Byte) (rest : List LinkEntry) (x : Access), s.Awake → s.MemoryOk →
    s.linkQueue = .chunk a data :: rest → a + data.length ≤ 16384 →
    let u := s.fetchTurns x.turns
    (u.serves .link x.waiting = false → exec (.writeChunk x) s = .next s) ∧
    (u.serves .link x.waiting = true → ∃ t, exec (.writeChunk x) s = .next t ∧
      memoryHolds t a data ∧ (∀ b, (b < a ∨ a + data.length ≤ b) → Memory.read t.xm b = Memory.read u.xm b) ∧
      ∀ (n : Nat) (more : List LinkEntry), rest = List.replicate n .discard ++ more → s.linkErrors ≤ 255 →
        let v := { u with xm := t.xm, rotation := .link, linkQueue := more, linkErrors := min 255 (s.linkErrors + n) }
        (LinkWaits more → (more = [] → s.openRead = none) → t = v) ∧
        (∀ o, more = [] → s.openRead = some o → o.needsAccess = true →
          t = { v with miso := o.sent, misoBits := o.sentBits }) ∧
        (∀ o, more = [] → s.openRead = some o → o.NeedsNone → Answered v o t.miso t.misoBits ∧
          t = { v with miso := t.miso, misoBits := t.misoBits, openRead := t.openRead }) ∧
        ∀ o, more = [.read o] → s.openRead = none → o.NeedsNone → Answered v o t.miso t.misoBits ∧
          t = { v with linkQueue := [], miso := t.miso, misoBits := t.misoBits })) ∧
    ∀ (s : State) (a b : XmAgent) (waiting : List XmAgent), s.turnOf a ≤ 5 ∧
      (a ∈ waiting → s.hasAccess a = true → a ≠ b → s.serves b waiting = true →
        ({ s with rotation := b }).turnOf a < s.turnOf a)

/-! ### Registers -/

/-- A CONTROL write with SOFT_RESET 0 is taken whole, by any row that fits its value (R169; which row takes it is the model's
choice, notes/assumptions/12.md): the enables become bits 4 to 6, CLEAR_ERRORS clears the two errors and the link error count,
RUN 1 starts a STOPPED or CONFIG_ERROR engine, RUN 0 abandons a START and stops a RUNNING engine, at once if the fetch engine is
IDLE (R112, R117); IRQN is asserted afterwards exactly while an enabled cause is set (R136). -/
def Obligations.ControlWriteIsTakenWhole : Prop :=
  ∀ (s : State) (v : BitVec 32) (c : Instr), s.Handed .control v → v.getLsbD 1 = false →
    ((c = .runStart ∧ v.getLsbD 0 = true) ∨ (c = .runStop ∧ v.getLsbD 0 = false) ∨ (c = .clearErrors ∧ v.getLsbD 2 = true) ∨
      c = .irqEnable) →
    ∃ t, exec c s = .next t ∧
      (∀ b : Fin 3, t.enables.getLsbD b.val = v.getLsbD (4 + b.val)) ∧
      t.postError = (s.postError && !v.getLsbD 2) ∧ t.releaseError = (s.releaseError && !v.getLsbD 2) ∧
      t.linkErrors = (if v.getLsbD 2 then 0 else s.linkErrors) ∧
      t.engine =
        (match s.engine, v.getLsbD 0 with
        | .stopped, true => .starting
        | .configError, true => .starting
        | .starting, false => .stopped
        | .running, false => if s.fetch = .idle then .stopped else .stopping
        | e, _ => e) ∧
      (t.irqnAsserted = true ↔ ∃ b : Fin 3, s.cause.getLsbD b.val = true ∧ v.getLsbD (4 + b.val) = true) ∧
      t = { s with
        enables := t.enables, postError := t.postError, releaseError := t.releaseError, linkErrors := t.linkErrors
        engine := t.engine, configRead := t.configRead, linkQueue := s.linkQueue.tail }

/-- A POST write (R95 to R99): the three actions on an SQ that is not ABSENT of a RUNNING engine, with the read of its head record
abandoned when it is then EMPTY, and the writes that are ignored with POST_ERROR. That a record which has been checked counts as not
taken until its kind is handled, so that it is abandoned too, is the model's choice (notes/assumptions/22.md). A write of the action
code that names none is taken by any of the three rows (the model's choice, notes/assumptions/12.md). `n` is the queue number, `x`
the value. -/
def Obligations.PostActsOnItsQueue : Prop :=
  ∀ (s : State) (v : BitVec 32), s.Handed .post v →
    let n := (v.extractLsb' 8 4).toNat
    let x := (v.extractLsb' 0 8).toNat
    let action := (v.extractLsb' 12 2).toNat
    (∀ q : Fin 4, n = q.val → action = 0 → s.engine = .running → (s.sq q).state ≠ .absent → x < (s.sq q).size →
      ∃ t, exec .postTail s = .next t ∧
        t.sq q =
          { s.sq q with
            tail := x
            state :=
              if (s.sq q).state = .empty ∨ (s.sq q).state = .ready then (if x = (s.sq q).head then .empty else .ready)
              else (s.sq q).state } ∧
        (∀ p : Fin 4, p ≠ q → t.sq p = s.sq p) ∧
        ((∀ got k, s.fetch ≠ .reading q got k) → t.fetch = s.fetch) ∧
        ((t.sq q).state = .empty → (∃ got k, s.fetch = .reading q got k) → t.fetch = .idle) ∧
        ((t.sq q).state ≠ .empty → t.fetch = s.fetch) ∧
        t = { s with sqs := t.sqs, fetch := t.fetch, linkQueue := s.linkQueue.tail }) ∧
    (∀ q : Fin 4, n = q.val → action = 1 → s.engine = .running → (s.sq q).state = .faulted →
      ∃ t, exec .postResume s = .next t ∧
        t.sq q = { s.sq q with state := if (s.sq q).head = (s.sq q).tail then .empty else .ready } ∧
        (∀ p : Fin 4, p ≠ q → t.sq p = s.sq p) ∧ t = { s with sqs := t.sqs, linkQueue := s.linkQueue.tail }) ∧
    (∀ q : Fin 4, n = q.val → action = 2 → s.engine = .running → (s.sq q).state ≠ .absent →
      ∃ t, exec .postReset s = .next t ∧
        t.sq q = { s.sq q with head := 0, tail := 0, expected := 0, state := .empty } ∧
        (∀ p : Fin 4, p ≠ q → t.sq p = s.sq p) ∧
        ((∀ got k, s.fetch ≠ .reading q got k) → t.fetch = s.fetch) ∧
        ((∃ got k, s.fetch = .reading q got k) → t.fetch = .idle) ∧
        t = { s with sqs := t.sqs, fetch := t.fetch, linkQueue := s.linkQueue.tail }) ∧
    ∀ c : Instr, (c = .postTail ∧ action = 0 ∨ c = .postResume ∧ action = 1 ∨ c = .postReset ∧ action = 2 ∨
        (c = .postTail ∨ c = .postResume ∨ c = .postReset) ∧ action = 3) →
      (s.engine ≠ .running ∨ 3 < n ∨ action = 3 ∨ (∃ q : Fin 4, n = q.val ∧ ((s.sq q).state = .absent ∨
        (action = 0 ∧ (s.sq q).size ≤ x) ∨ (action = 1 ∧ (s.sq q).state ≠ .faulted)))) →
      exec c s = .next { s with postError := true, linkQueue := s.linkQueue.tail }

/-- A RELEASE (R122, R152, R170): a position of a CQ with a geometry in the forward range from its host head to its tail becomes
the host head; a record position of an active STREAM ring in the forward range from its read to its write position becomes the
read position; anything else sets RELEASE_ERROR and changes nothing else. -/
def Obligations.ReleaseMovesOrSetsError : Prop :=
  ∀ (s : State) (v : BitVec 32), s.Handed .release v →
    let target := (v.extractLsb' 16 3).toNat
    let p := (v.extractLsb' 0 16).toNat
    (∀ q : Fin 2, target = q.val →
      exec .releaseCq s = .next
        (if (s.cq q).size ≠ 0 ∧ p < (s.cq q).size ∧
            (p + (s.cq q).size - (s.cq q).hostHead) % (s.cq q).size ≤
              ((s.cq q).tail + (s.cq q).size - (s.cq q).hostHead) % (s.cq q).size
         then { s with cqs := s.cqs.set q { s.cq q with hostHead := p }, linkQueue := s.linkQueue.tail }
         else { s with releaseError := true, linkQueue := s.linkQueue.tail })) ∧
    (∀ n : Fin 2, target = 2 + n.val →
      let c := s.stream n
      exec .releaseCap s = .next
        (if c.state ≠ .off ∧ c.mode = .stream ∧ c.base ≤ p ∧ p < c.base + c.size ∧ p % 16 = 0 ∧
            ((p - c.base) / 16 + c.size / 16 - (c.readPos - c.base) / 16) % (c.size / 16) ≤
              ((c.writePos - c.base) / 16 + c.size / 16 - (c.readPos - c.base) / 16) % (c.size / 16)
         then { s with streams := s.streams.set n { c with readPos := p }, linkQueue := s.linkQueue.tail }
         else { s with releaseError := true, linkQueue := s.linkQueue.tail })) ∧
    (3 < target → exec .releaseCq s = .next { s with releaseError := true, linkQueue := s.linkQueue.tail } ∧
      exec .releaseCap s = .next { s with releaseError := true, linkQueue := s.linkQueue.tail })

/-- A CAUSE write clears each bit written with 1 and leaves the others; IRQN is asserted afterwards exactly while an enabled bit
is set (R135, R136). -/
def Obligations.CauseWriteClearsBits : Prop :=
  ∀ (s : State) (v : BitVec 32), s.Handed .cause v →
    ∃ t, exec .causeClear s = .next t ∧ (∀ b : Fin 3, t.cause.getLsbD b.val = (s.cause.getLsbD b.val && !v.getLsbD b.val)) ∧
      (t.irqnAsserted = true ↔ ∃ b : Fin 3, t.cause.getLsbD b.val = true ∧ s.enables.getLsbD b.val = true) ∧
      t = { s with cause := t.cause, linkQueue := s.linkQueue.tail }

/-! ### Engine and fetch engine -/

/-- START passes to the reading of the configuration block exactly when every drain condition holds (R113); a STARTING engine that
reads it lets nothing be written into a CQ (R113, R126). -/
def Obligations.StartWaitsForDrain : Prop :=
  (∀ s : State, s.Awake → s.engine = .starting → s.configRead = none →
    ((∀ l : Fin 4, (∀ r, (s.lane l).state ≠ .running r) ∧ (s.lane l).state ≠ .gated ∧ (s.lane l).queue = [] ∧
        (s.lane l).outbox = []) → s.pendingList = [] → s.fetch = .idle →
      ∃ t, exec .startDrained s = .next t ∧ t = { s with configRead := some [] } ∧ t.nextPost = none) ∧
    (((∃ l : Fin 4, (∃ r, (s.lane l).state = .running r) ∨ (s.lane l).state = .gated ∨ (s.lane l).queue ≠ [] ∨
        (s.lane l).outbox ≠ []) ∨ s.pendingList ≠ [] ∨ s.fetch ≠ .idle) → exec .startDrained s = .next s)) ∧
    ∀ (s : State) (x : Access), s.engine = .starting → s.configRead.isSome = true →
      s.nextPost = none ∧ exec (.completionWrite x) s = .next s ∧ exec (.eventWrite x) s = .next s

/-- The configuration block has been read in five accesses (R114), of which some were made before and the rest by this row, from
memory as it stands, as long as no waiting agent comes first in rotation (R166; the model's choice, notes/assumptions/8.md): the 80
bytes decide. If none of the five checks fails in them (`ConfigFault`), the engine is RUNNING, every SQ takes its geometry from its
descriptor, which is base, size, class, target and, for a NORMAL SQ, weight (R93), every CQ its own, and the ENGINE cause is set
(R115); else the engine is in CONFIG_ERROR with the code of the first that fails and the cause, and keeps its contexts (R116). While
a read is still to be made, START goes on. -/
def Obligations.ConfigurationDecidesStart : Prop :=
  ∀ (s : State) (got : List Byte) (waiting : List XmAgent), s.Awake → s.engine = .starting → s.configRead = some got →
    got.length % 16 = 0 → got.length ≤ 80 →
    (got.length < 80 → s.serves .fetch waiting = false → exec (.configReadComplete waiting) s = .next s) ∧
    (got.length < 64 → s.serves .fetch waiting = true → ¬s.Alone .fetch waiting →
      exec (.configReadComplete waiting) s =
        .next { s with configRead := some (got ++ Memory.readBytes s.xm got.length 16), rotation := .fetch }) ∧
    (s.Alone .fetch waiting ∨ got.length = 80 ∨ (got.length = 64 ∧ s.serves .fetch waiting = true) →
    ∃ t, exec (.configReadComplete waiting) s = .next t ∧
      let b := got ++ Memory.readBytes s.xm got.length (80 - got.length)
      t.configRead = none ∧ t.cause = s.cause ||| 4 ∧ (got.length < 80 → t.rotation = .fetch) ∧
      ((∀ e, ¬ConfigFault s b e) → t.engine = .running ∧ t.configError = .none ∧ t.runBit = true ∧
        (∀ q : Fin 4, byteAt b (0x10 + 8 * q.val + 2) ≠ 0 →
          (t.sq q).state = .empty ∧ (t.sq q).head = 0 ∧ (t.sq q).tail = 0 ∧ (t.sq q).expected = 0 ∧
            (t.sq q).base = field16 b (0x10 + 8 * q.val) ∧ (t.sq q).size = 2 ^ byteAt b (0x10 + 8 * q.val + 2) ∧
            (t.sq q).cls = (if byteAt b (0x10 + 8 * q.val + 3) = 1 then .urgent else .normal) ∧
            ((t.sq q).cls = .normal → (t.sq q).weight = byteAt b (0x10 + 8 * q.val + 4)) ∧
            (t.sq q).target.val = byteAt b (0x10 + 8 * q.val + 5)) ∧
        (∀ q : Fin 4, byteAt b (0x10 + 8 * q.val + 2) = 0 → (t.sq q).state = .absent) ∧
        (∀ q : Fin 2, (t.cq q).tail = 0 ∧ (t.cq q).hostHead = 0 ∧ (t.cq q).phaseTag = true ∧ (t.cq q).unsignalled = 0 ∧
          (t.cq q).delayTimer = none ∧
          (byteAt b (0x30 + 8 * q.val + 2) ≠ 0 → (t.cq q).base = field16 b (0x30 + 8 * q.val) ∧
            (t.cq q).size = 2 ^ byteAt b (0x30 + 8 * q.val + 2) ∧ (t.cq q).coalCount = byteAt b (0x30 + 8 * q.val + 3) ∧
            (t.cq q).coalDelay = byteAt b (0x30 + 8 * q.val + 4)) ∧
          (byteAt b (0x30 + 8 * q.val + 2) = 0 → (t.cq q).hasGeometry = false)) ∧
        t.eventCq.map (·.val) = some (byteAt b 0x40) ∧ t.urgentPointer = 3 ∧ t.normalPointer = 3 ∧ t.burstCredit = 0 ∧
        t = { s with
          engine := t.engine, configError := t.configError, configRead := t.configRead, cause := t.cause
          rotation := t.rotation, sqs := t.sqs, cqs := t.cqs, eventCq := t.eventCq, urgentPointer := t.urgentPointer
          normalPointer := t.normalPointer, burstCredit := t.burstCredit }) ∧
      ∀ e, firstConfigFault s b e →
        t = { s with
          engine := .configError, configError := e, configRead := none, cause := s.cause ||| 4, rotation := t.rotation })

/-- The arbiter (R108, R109): with an eligible URGENT SQ, the first one after the urgent pointer in rotating order is read and the
normal rotation stands; else a NORMAL burst with credit goes on, or the first eligible NORMAL SQ after the normal pointer begins a
burst of its weight. That the normal burst stands at every URGENT choice, and that nothing changes while no SQ is eligible, is the
model's deduction (notes/assumptions/23.md). -/
def Obligations.ArbiterServesUrgentFirst : Prop :=
  ∀ s : State, s.Awake → s.engine = .running → s.fetch = .idle →
    let urgent := fun q : Fin 4 => (s.sq q).state = .ready ∧ (s.sq q).cls = .urgent
    let normal := fun q : Fin 4 => (s.sq q).state = .ready ∧ (s.sq q).cls = .normal
    (∀ q : Fin 4, urgent q → (∀ p : Fin 4, (p - (s.urgentPointer + 1)).val < (q - (s.urgentPointer + 1)).val → ¬urgent p) →
      exec .sqArbitration s = .next { s with urgentPointer := q, fetch := .reading q [] false }) ∧
    ((∀ q, ¬urgent q) → normal s.normalPointer → 0 < s.burstCredit →
      exec .sqArbitration s = .next
        { s with burstCredit := s.burstCredit - 1, fetch := .reading s.normalPointer [] false }) ∧
    (∀ q : Fin 4, (∀ p, ¬urgent p) → normal q → (¬normal s.normalPointer ∨ s.burstCredit = 0) →
      (∀ p : Fin 4, (p - (s.normalPointer + 1)).val < (q - (s.normalPointer + 1)).val → ¬normal p) →
      exec .sqArbitration s = .next
        { s with normalPointer := q, burstCredit := (s.sq q).weight - 1, fetch := .reading q [] false }) ∧
    ((∀ q, (s.sq q).state ≠ .ready) → exec .sqArbitration s = .next s)

/-- The record check (R100 to R103): the record is the 64 bytes of the ring entry at the head, read in four accesses, of which some
were made before and the rest by this row, from memory as it stands, as long as no waiting agent comes first in rotation (R166; the
model's choice, notes/assumptions/8.md); while one is still to be made, the read goes on. A wrong CRC, and then a sequence other
than the expected one, leaves the record unconsumed, the SQ FAULTED and the occurrence recorded; a command on a queue that may carry
it is held for its kind's handling; a control command on SQ1 to SQ3 is consumed and completed REFUSED_QUEUE, and an unknown kind
BAD_KIND. -/
def Obligations.RecordIsCheckedInOrder : Prop :=
  ∀ (s : State) (q : Fin 4) (got : List Byte) (waiting : List XmAgent), s.Awake → s.configRead = none →
    s.fetch = .reading q got false → got.length % 16 = 0 → got.length ≤ 64 →
    (got.length < 64 → s.serves .fetch waiting = false → exec (.recordRead waiting) s = .next s) ∧
    (got.length < 48 → s.serves .fetch waiting = true → ¬s.Alone .fetch waiting →
      exec (.recordRead waiting) s = .next
        { s with
          fetch := .reading q (got ++ Memory.readBytes s.xm ((s.sq q).base + 64 * (s.sq q).head + got.length) 16) false
          rotation := .fetch }) ∧
    (s.Alone .fetch waiting ∨ got.length = 64 ∨ (got.length = 48 ∧ s.serves .fetch waiting = true) →
    ∃ t, exec (.recordRead waiting) s = .next t ∧
      let r := got ++ Memory.readBytes s.xm ((s.sq q).base + 64 * (s.sq q).head + got.length) (64 - got.length)
      let k := (recordKind r).toNat
      let faulted := fun d : EventDetail => BackToIdle s t ∧ (t.sq q) = { s.sq q with state := .faulted } ∧
        (∀ p : Fin 4, p ≠ q → t.sq p = s.sq p) ∧
        t.event (queueFaultSource q) = foldOccurrence s.tick d (s.event (queueFaultSource q)) ∧
        t = { s with sqs := t.sqs, fetch := t.fetch, engine := t.engine, events := t.events, rotation := t.rotation }
      let completed := fun st : Status => Completes s t q r st none 0 ∧
        t = { s with
          sqs := t.sqs, fetch := t.fetch, pendingList := t.pendingList, engine := t.engine, rotation := t.rotation }
      (got.length < 64 → t.rotation = .fetch) ∧
      (crc8 (r.take 63) ≠ r.getD 63 0 → faulted { first := 1, second := (s.sq q).head, third := byteAt r 63 }) ∧
      (crc8 (r.take 63) = r.getD 63 0 → byteAt r 3 ≠ (s.sq q).expected →
        faulted { first := 2, second := (s.sq q).expected, third := byteAt r 3 }) ∧
      (crc8 (r.take 63) = r.getD 63 0 → byteAt r 3 = (s.sq q).expected →
        ((1 ≤ k ∧ k ≤ 3) ∨ (0x10 ≤ k ∧ k ≤ 0x19 ∧ q = 0) →
          t = { s with fetch := .reading q r true, rotation := t.rotation }) ∧
        (0x10 ≤ k ∧ k ≤ 0x19 ∧ q ≠ 0 → completed .refusedQueue) ∧
        (k = 0 ∨ (4 ≤ k ∧ k ≤ 15) ∨ 0x1A ≤ k → completed .badKind)))

/-! ### Command records -/

/-- A NOP is consumed and completed DONE, and does nothing else (R102). -/
def Obligations.NopCompletesDone : Prop :=
  ∀ (s : State) (q : Fin 4) (r : List Byte), s.Holds 0x01 q r →
    ∃ t, exec .nop s = .next t ∧ Completes s t q r .done none 0 ∧ OnlyFetchSide s t

/-- A valid SEGMENT, in whose bytes none of the twelve checks of R23 fails (`SegmentFault`), for a bound lane that is ready (R25):
consumed, without a completion of the fetch engine. While the permit is off the lane's outbox takes its DISABLED completion, which
is a lane fault (R47), and no slot changes; while it is on, it joins the tail of the queue and a slot it references counts it, and a
lane that may start takes the head of its queue (R13): it starts at once at phase 0, or, if the head carries a gate, arrives there,
waits, is stranded, or fires the gate (R60 to R63). No channel of a lane that does not start changes. -/
def Obligations.ValidSegmentIsDelivered : Prop :=
  ∀ (s : State) (q : Fin 4) (r : List Byte) (l : Fin 4), s.Holds 0x02 q r → byteAt r 4 = l.val →
    (s.lane l).queue.length + (s.lane l).outbox.length ≤ 3 → (s.lane l).state ≠ .unbound → (∀ n, ¬SegmentFault s l r n) →
    let seg := segmentOf r (identity s q r)
    ∃ t, exec .segment s = .next t ∧ BackToIdle s t ∧ Advances s t q ∧
      (s.permitOn = false →
        t.lane l =
            { s.lane l with
              outbox := (s.lane l).outbox ++ [plainCompletion (identity s q r) .disabled (some l) 0] } ∧
          (∀ k : Fin 4, k ≠ l → t.lane k = s.lane k) ∧ Consumed s t q ∧ FreezesStreams s t (fun f => f = .onLaneFault l) ∧
          t = { s with
            sqs := t.sqs, fetch := t.fetch, engine := t.engine, lanes := t.lanes, streams := t.streams, events := t.events }) ∧
      (s.permitOn = true → ∃ v w,
        v.lane l = { s.lane l with queue := (s.lane l).queue ++ [seg] } ∧ (∀ k : Fin 4, k ≠ l → v.lane k = s.lane k) ∧
        (∀ n : Fin 16, v.slot n =
          { s.slot n with useCount := if seg.uses n then (s.slot n).useCount + 1 else (s.slot n).useCount }) ∧
        Consumed s v q ∧ v = { s with sqs := v.sqs, lanes := v.lanes, slots := v.slots } ∧
        (s.mayStart l = false → w = v) ∧
        (s.mayStart l = true → s.LanesOk → ∀ g rest, (s.lane l).queue ++ [seg] = g :: rest → TakesHead v w l g) ∧
        t = { w with fetch := t.fetch, engine := t.engine }) ∧
      (s.permitOn = true → s.mayStart l = true → (s.lane l).queue = [] → seg.gate = none →
        ∃ run, (t.lane l).state = .running run ∧ run.seg = seg ∧ run.phaseIndex = 0 ∧ run.elapsed = 0 ∧ run.peak = 0 ∧
          run.repeatsDone = 0 ∧ (t.lane l).queue = [] ∧ (t.lane l).holdTimer = none ∧
          ∀ c : Fin 6, (s.channel c).owner ≠ some l → t.channel c = s.channel c)

/-- The steps of R23 and R40 before delivery, in their order: a lane number above 3 is completed BAD_ARGUMENT; a lane that is not
ready blocks the SQ with nothing consumed (R110); an UNBOUND lane is completed NOT_BOUND; a SEGMENT in whose bytes a check fails is
completed BAD_SEGMENT with the number of the first that does: 1 SOURCE, 2 PATTERN, 3 DURATION, 4 DRIVE_CODE, 5 UNOWNED, 6 PERIOD, 7
DUTY, 8 END_ACTION, 9 CURRENT_STOP, 10 INPUT_STOP, 11 GATE, 12 UNBOUNDED (`SegmentFault`). A HALT is so taken at any moment of the
tick. None of them changes a lane, a queue or a use count. -/
def Obligations.LaneCommandsAreRefusedInOrder : Prop :=
  ∀ (s : State) (q : Fin 4) (r : List Byte) (c : Instr) (kind : LaneKind) (offset : Nat),
    (c = .segment ∧ kind = .segment ∧ s.Holds 0x02 q r) ∨ (c = .halt offset ∧ kind = .halt ∧ s.Holds 0x03 q r) →
    (3 < byteAt r 4 → ∃ t, exec c s = .next t ∧ Completes s t q r .badArgument none 0 ∧ OnlyFetchSide s t) ∧
    ∀ l : Fin 4, byteAt r 4 = l.val →
      ((s.lane l).readyFor kind = false → ∃ t, exec c s = .next t ∧ BackToIdle s t ∧
        t.sq q = { s.sq q with state := .blocked l kind } ∧ (∀ p : Fin 4, p ≠ q → t.sq p = s.sq p) ∧ OnlyFetchSide s t) ∧
      ((s.lane l).readyFor kind = true → (s.lane l).state = .unbound →
        ∃ t, exec c s = .next t ∧ Completes s t q r .notBound (some l) 0 ∧ OnlyFetchSide s t) ∧
      (kind = .segment → (s.lane l).readyFor kind = true → (s.lane l).state ≠ .unbound →
        ∀ n, SegmentFault s l r n → (∀ k, k < n → ¬SegmentFault s l r k) →
          ∃ t, exec c s = .next t ∧ Completes s t q r .badSegment (some l) n ∧ OnlyFetchSide s t)

/-- A delivered HALT (R40, R41): the lane completes its work ABORTED, the running segment with detail 1, a gated head with detail 2,
each queued segment with detail 0, and then the HALT's own DONE with their number; its channels are OFF, its queue is empty and it
is IDLE, or HELD if it was. It leaves the arrival set it is in, and a gate whose set so empties stops its wait timer (R64, R67); its
segments give up their slots (R46); the SQs blocked on it are told if it is ready (R111). No other lane and no channel of another
lane changes. `offset` is the moment of the tick at which it is taken (notes/assumptions/26.md). -/
def Obligations.HaltFlushesLane : Prop :=
  ∀ (s : State) (q : Fin 4) (r : List Byte) (l : Fin 4) (offset : Nat), s.Holds 0x03 q r → byteAt r 4 = l.val →
    (∀ c ∈ (s.lane l).outbox, c.origin.kind ≠ 0x03) → (s.lane l).state ≠ .unbound →
    ∃ t, exec (.halt offset) s = .next t ∧ BackToIdle s t ∧ Advances s t q ∧
      let queued := (s.lane l).queue.map fun g => plainCompletion g.origin .aborted (some l) 0
      let aborted := match (s.lane l).state, (s.lane l).queue with
        | .running run, _ => runCompletion s l run .aborted 1 :: queued
        | .gated, g :: rest =>
          plainCompletion g.origin .aborted (some l) 2 :: rest.map fun g => plainCompletion g.origin .aborted (some l) 0
        | _, _ => queued
      t.lane l =
        { s.lane l with
          state := if (s.lane l).state = .held then .held else .idle
          queue := [], holdTimer := none
          outbox := (s.lane l).outbox ++ aborted ++ [plainCompletion (identity s q r) .done (some l) aborted.length] } ∧
      (∀ k : Fin 4, k ≠ l → t.lane k = s.lane k) ∧
      (∀ c : Fin 6, (s.channel c).owner = some l → (t.channel c).code = .off) ∧
      (∀ c : Fin 6, (s.channel c).owner ≠ some l → t.channel c = s.channel c) ∧
      (∀ g : Fin 4,
        ((s.gate g).arrivals.getLsbD l.val = false → t.gate g = s.gate g) ∧
        ((s.gate g).arrivals.getLsbD l.val = true →
          (∀ k : Fin 4, (t.gate g).arrivals.getLsbD k.val = ((s.gate g).arrivals.getLsbD k.val && k != l)) ∧
          t.gate g =
            { s.gate g with
              arrivals := (t.gate g).arrivals
              waitTimer := if (t.gate g).arrivals = 0 then none else (s.gate g).waitTimer })) ∧
      (∀ n : Fin 16, t.slot n =
        { s.slot n with useCount := (s.slot n).useCount - (s.lane l).segments.countP fun g => g.uses n }) ∧
      (∃ w, Consumed s w q ∧ Noticed w t (laneBit l)) ∧
      t = { s with
        sqs := t.sqs, fetch := t.fetch, engine := t.engine, lanes := t.lanes, channels := t.channels, gates := t.gates
        slots := t.slots }

/-- BIND by its table (R17): a refused BIND changes nothing but its SQ and its completion; an accepted one gives the lane the
channels, the set and the hold limit, clears its expiry count, and leaves it HELD if a domain that meets the set is not ARMED,
else IDLE. -/
def Obligations.BindFollowsItsTable : Prop :=
  ∀ (s : State) (q : Fin 4) (r : List Byte), s.Holds 0x10 q r →
    ∃ t, exec .bind s = .next t ∧
      (3 < byteAt r 4 → Completes s t q r .badArgument none 0 ∧ OnlyFetchSide s t) ∧
      ∀ l : Fin 4, byteAt r 4 = l.val →
        let set : ChannelSet := BitVec.ofNat 6 (byteAt r 5)
        (64 ≤ byteAt r 5 → Completes s t q r .badArgument (some l) 0 ∧ OnlyFetchSide s t) ∧
        (byteAt r 5 < 64 → (s.lane l).state ≠ .unbound → Completes s t q r .busy (some l) 0 ∧ OnlyFetchSide s t) ∧
        (byteAt r 5 = 0 → (s.lane l).state = .unbound → Completes s t q r .badArgument (some l) 0 ∧ OnlyFetchSide s t) ∧
        (byteAt r 5 < 64 → byteAt r 5 ≠ 0 → (s.lane l).state = .unbound →
          (∀ c : Fin 6, set.getLsbD c.val = true → (s.channel c).owner ≠ none →
            (∀ k : Fin 6, k < c → set.getLsbD k.val = true → (s.channel k).owner = none) →
            Completes s t q r .conflict (some l) c.val ∧ OnlyFetchSide s t) ∧
          ((∀ c : Fin 6, set.getLsbD c.val = true → (s.channel c).owner = none) →
            Completes s t q r .done (some l) 0 ∧
            (∀ c : Fin 6, t.channel c =
              { s.channel c with owner := if set.getLsbD c.val then some l else (s.channel c).owner }) ∧
            t.lane l =
              { s.lane l with
                owned := set, holdLimit := field16 r 6, expiryCount := 0
                state :=
                  if ∃ d : Fin 3, set &&& (s.domain d).members ≠ 0 ∧ (s.domain d).state ≠ .armed then .held else .idle } ∧
            (∀ k : Fin 4, k ≠ l → t.lane k = s.lane k) ∧
            t = { s with
              sqs := t.sqs, fetch := t.fetch, pendingList := t.pendingList, engine := t.engine, channels := t.channels
              lanes := t.lanes }))

/-- UNBIND by its table (R18), at whatever moment `offset` of the tick it is taken: accepted, every channel of the lane is OFF and
unowned and the lane UNBOUND with an empty set; its hold limit and expiry count stay. The detail 0 of its completions, which R18 does
not give, is the model's choice (notes/assumptions/29.md), and so is the moment (notes/assumptions/26.md). -/
def Obligations.UnbindFollowsItsTable : Prop :=
  ∀ (s : State) (q : Fin 4) (r : List Byte) (offset : Nat), s.Holds 0x11 q r →
    ∃ t, exec (.unbind offset) s = .next t ∧
      (3 < byteAt r 4 → Completes s t q r .badArgument none 0 ∧ OnlyFetchSide s t) ∧
      ∀ l : Fin 4, byteAt r 4 = l.val →
        let busy := (∃ run, (s.lane l).state = .running run) ∨ (s.lane l).state = .gated ∨ (s.lane l).queue ≠ [] ∨
          (s.lane l).outbox ≠ []
        ((s.lane l).state = .unbound → Completes s t q r .notBound (some l) 0 ∧ OnlyFetchSide s t) ∧
        ((s.lane l).state ≠ .unbound → busy → Completes s t q r .busy (some l) 0 ∧ OnlyFetchSide s t) ∧
        ((s.lane l).state ≠ .unbound → ¬busy → Completes s t q r .done (some l) 0 ∧
          t.lane l = { s.lane l with state := .unbound, owned := 0, holdTimer := none } ∧
          (∀ k : Fin 4, k ≠ l → t.lane k = s.lane k) ∧
          (∀ c : Fin 6, (s.channel c).owner = some l → (t.channel c).code = .off ∧ (t.channel c).owner = none) ∧
          (∀ c : Fin 6, (s.channel c).owner ≠ some l → t.channel c = s.channel c) ∧
          t = { s with
            sqs := t.sqs, fetch := t.fetch, pendingList := t.pendingList, engine := t.engine, channels := t.channels
            lanes := t.lanes })

/-- SET_LIMITS by its table (R75): the lowest-numbered channel of the set with a bad threshold, and then with a bad BBM interval,
decides a refusal; accepted, each channel of the set takes both values and keeps its over-count and its drive. The record of earlier
intervals (`bbmChanges`) grows for a channel of the set under PWM_C alone, by the moment of the tick at which the command is
executed, `offset` (notes/assumptions/26.md), or that of the drive if it was applied later: turn-ons decided before keep theirs
(R7). -/
def Obligations.SetLimitsFollowsItsTable : Prop :=
  ∀ (s : State) (q : Fin 4) (r : List Byte) (offset : Nat), s.Holds 0x12 q r →
    ∃ t, exec (.setLimits offset) s = .next t ∧
      let set : ChannelSet := BitVec.ofNat 6 (byteAt r 4)
      let badThreshold := fun c : Fin 6 => set.getLsbD c.val = true ∧
        (field16 r (20 + 2 * c.val) < 100 ∨ 4000 < field16 r (20 + 2 * c.val) ∨ field16 r (20 + 2 * c.val) % 50 ≠ 0)
      let badBbm := fun c : Fin 6 => set.getLsbD c.val = true ∧ (byteAt r (32 + c.val) < 1 ∨ 16 < byteAt r (32 + c.val))
      (byteAt r 4 = 0 ∨ 64 ≤ byteAt r 4 → Completes s t q r .badArgument none 0 ∧ OnlyFetchSide s t) ∧
      (byteAt r 4 ≠ 0 → byteAt r 4 < 64 →
        (∀ c : Fin 6, badThreshold c → (∀ k : Fin 6, k < c → ¬badThreshold k) →
          Completes s t q r .badArgument none (0x10 + c.val) ∧ OnlyFetchSide s t) ∧
        ((∀ c, ¬badThreshold c) → ∀ c : Fin 6, badBbm c → (∀ k : Fin 6, k < c → ¬badBbm k) →
          Completes s t q r .badArgument none (0x20 + c.val) ∧ OnlyFetchSide s t) ∧
        ((∀ c, ¬badThreshold c) → (∀ c, ¬badBbm c) → Completes s t q r .done none 0 ∧
          (∀ c : Fin 6, t.channel c =
            { s.channel c with
              threshold := if set.getLsbD c.val then field16 r (20 + 2 * c.val) else (s.channel c).threshold
              bbm := if set.getLsbD c.val then byteAt r (32 + c.val) else (s.channel c).bbm
              bbmChanges :=
                if set.getLsbD c.val = true ∧ (s.channel c).code = .pwmC then
                  { moment := max ((s.channel c).elapsedNs s.tick + offset) (s.channel c).applied
                    before := (s.channel c).bbm } :: (s.channel c).bbmChanges
                else (s.channel c).bbmChanges }) ∧
          t = { s with
            sqs := t.sqs, fetch := t.fetch, pendingList := t.pendingList, engine := t.engine, channels := t.channels }))

/-- SET_DOMAINS by its table (R81, R82): refused for a bad domain, a bad limit, a channel that is not OFF or a RUNNING lane, in that
order; accepted, every domain takes its members and limit and is ARMED with count 0, and every lane that was HELD leaves HELD: it is
IDLE, and takes the head of its queue if it may start (R84, R13). Nothing else changes. -/
def Obligations.SetDomainsFollowsItsTable : Prop :=
  ∀ (s : State) (q : Fin 4) (r : List Byte), s.Holds 0x13 q r →
    ∃ t, exec .setDomains s = .next t ∧
      let badDomain := fun c : Fin 6 => 2 < byteAt r (4 + c.val)
      let badLimit := fun d : Fin 3 => 15 < byteAt r (10 + d.val)
      let driven := fun c : Fin 6 => (s.channel c).code ≠ .off
      let running := fun l : Fin 4 => (s.lane l).isRunning = true
      (∀ c, badDomain c → (∀ k, k < c → ¬badDomain k) →
        Completes s t q r .badArgument none (0x10 + c.val) ∧ OnlyFetchSide s t) ∧
      ((∀ c, ¬badDomain c) →
        (∀ d, badLimit d → (∀ k, k < d → ¬badLimit k) →
          Completes s t q r .badArgument none (0x20 + d.val) ∧ OnlyFetchSide s t) ∧
        ((∀ d, ¬badLimit d) →
          (∀ c, driven c → (∀ k, k < c → ¬driven k) → Completes s t q r .busy none c.val ∧ OnlyFetchSide s t) ∧
          ((∀ c, ¬driven c) →
            (∀ l, running l → (∀ k, k < l → ¬running k) →
              Completes s t q r .busy none (0x10 + l.val) ∧ OnlyFetchSide s t) ∧
            ((∀ l, ¬running l) → Advances s t q ∧
              HandedOver s t (plainCompletion (identity s q r) .done none 0) ∧
              (s.LanesOk → ∃ w, LanesRearmed { s with domains := t.domains } w ∧ Consumed w t q ∧
                t = { w with sqs := t.sqs, fetch := t.fetch, pendingList := t.pendingList, engine := t.engine }) ∧
              (∀ d : Fin 3, (t.domain d).state = .armed ∧ (t.domain d).tripCount = 0 ∧
                (t.domain d).tripLimit = byteAt r (10 + d.val) ∧
                ∀ c : Fin 6, (t.domain d).members.getLsbD c.val = true ↔ byteAt r (4 + c.val) = d.val) ∧
              (∀ l : Fin 4, (t.lane l).state ≠ .held) ∧
              ((∀ l : Fin 4, (s.lane l).state = .held → (s.lane l).queue = []) →
                ∀ l : Fin 4, t.lane l =
                  { s.lane l with state := if (s.lane l).state = .held then .idle else (s.lane l).state })))))

/-- REARM by its table (R83, R84): the four outcomes with the trip count as detail; a TRIPPED domain is ARMED with its count kept,
and a HELD lane leaves HELD exactly when every domain that meets its channels is then ARMED: it is IDLE, and takes the head of its
queue if it may start (R84, R13). Nothing else changes. -/
def Obligations.RearmFollowsItsTable : Prop :=
  ∀ (s : State) (q : Fin 4) (r : List Byte), s.Holds 0x14 q r →
    ∃ t, exec .rearm s = .next t ∧
      (2 < byteAt r 4 → Completes s t q r .badArgument none 0 ∧ OnlyFetchSide s t) ∧
      ∀ d : Fin 3, byteAt r 4 = d.val →
        ((s.domain d).state = .armed → Completes s t q r .notTripped none (s.domain d).tripCount ∧ OnlyFetchSide s t) ∧
        ((s.domain d).state = .locked → Completes s t q r .lockedOut none (s.domain d).tripCount ∧ OnlyFetchSide s t) ∧
        ((s.domain d).state = .tripped → Advances s t q ∧
          HandedOver s t (plainCompletion (identity s q r) .done none (s.domain d).tripCount) ∧
          t.domain d = { s.domain d with state := .armed } ∧ (∀ e : Fin 3, e ≠ d → t.domain e = s.domain e) ∧
          (s.LanesOk → ∃ w, LanesRearmed { s with domains := t.domains } w ∧ Consumed w t q ∧
            t = { w with sqs := t.sqs, fetch := t.fetch, pendingList := t.pendingList, engine := t.engine }) ∧
          (s.LanesOk → ∀ l : Fin 4, (s.lane l).state = .held →
            ((t.lane l).state = .held ↔ ∃ e : Fin 3, s.meetsDomain l e = true ∧ (t.domain e).state ≠ .armed)) ∧
          (s.LanesOk → ∀ l : Fin 4, (s.lane l).state = .held →
            (∃ e : Fin 3, s.meetsDomain l e = true ∧ (t.domain e).state ≠ .armed) → t.lane l = s.lane l))

/-- LOAD_PATTERN at its consumption (R52, R53): refused for its slot, alignment, range or use count, in that order, with nothing
read; accepted, the record is consumed without a completion and the copy begins, the slot still as it was. -/
def Obligations.LoadPatternFollowsItsTable : Prop :=
  ∀ (s : State) (q : Fin 4) (r : List Byte), s.Holds 0x15 q r →
    ∃ t, exec .loadPattern s = .next t ∧
      let src := field16 r 6
      (15 < byteAt r 4 → Completes s t q r .badArgument none 1 ∧ OnlyFetchSide s t) ∧
      ∀ n : Fin 16, byteAt r 4 = n.val →
        (src % 8 ≠ 0 → Completes s t q r .badArgument none 2 ∧ OnlyFetchSide s t) ∧
        (src % 8 = 0 → 0x3F78 < src → Completes s t q r .badArgument none 3 ∧ OnlyFetchSide s t) ∧
        (src % 8 = 0 → src ≤ 0x3F78 → (s.slot n).useCount ≠ 0 →
          Completes s t q r .inUse none (s.slot n).useCount ∧ OnlyFetchSide s t) ∧
        (src % 8 = 0 → src ≤ 0x3F78 → (s.slot n).useCount = 0 →
          Consumed s t q ∧ t = { s with sqs := t.sqs, fetch := .loading n src (identity s q r) [] })

/-- The end of a pattern copy (R53 to R55), its image in the spans read so far and, by this row, in memory as it stands, as long as
no waiting agent comes first in rotation (R166; the model's choice, notes/assumptions/8.md; while a read is still to be made, the
copy goes on): a count of 0 or above 16 is BAD_PATTERN with detail 1; otherwise the first phase with duration 0, or with the invalid
code, gives detail 2 or 3 and its index and leaves the slot; with none, the slot is VALID with the image's phases and the detail is
their number. -/
def Obligations.PatternCopyReplacesSlot : Prop :=
  ∀ (s : State) (n : Fin 16) (src : Nat) (o : Origin) (got : List Byte) (waiting : List XmAgent), s.Awake →
    s.configRead = none → s.fetch = .loading n src o got → src % 8 = 0 → got.length % 16 = 0 → got.length ≤ 144 →
    let span := Memory.readBytes s.xm (src / 16 * 16 + got.length) 16
    let reads := s.hasAccess .loader = true
    (reads → s.serves .loader waiting = false → exec (.patternCopyComplete waiting) s = .next s) ∧
    (reads → s.serves .loader waiting = true → ¬s.Alone .loader waiting → imageVerdict src (got ++ span) = .more →
      exec (.patternCopyComplete waiting) s =
        .next { s with fetch := .loading n src o (got ++ span), rotation := .loader }) ∧
    (s.Alone .loader waiting ∨ ¬reads ∨ (s.serves .loader waiting = true ∧ imageVerdict src (got ++ span) ≠ .more) →
    ∃ t, exec (.patternCopyComplete waiting) s = .next t ∧
      let image := (got ++ Memory.readBytes s.xm (src / 16 * 16 + got.length) (144 - got.length)).drop (src % 16)
      let count := byteAt image 0
      let phase := fun i => phaseAt image (8 + 8 * i)
      let sound := fun i => (phase i).duration ≠ 0 ∧ (phase i).hasInvalid = false
      (count = 0 ∨ 16 < count → HandedOver s t (plainCompletion o .badPattern none 1) ∧ t.slots = s.slots) ∧
      (1 ≤ count → count ≤ 16 →
        (∀ i, i < count → (∀ k, k < i → sound k) → ¬sound i →
          HandedOver s t
            { plainCompletion o .badPattern none (if (phase i).duration = 0 then 2 else 3) with lastPhase := some i } ∧
          t.slots = s.slots) ∧
        ((∀ i, i < count → sound i) → HandedOver s t (plainCompletion o .done none count) ∧
          t.slot n = { s.slot n with valid := true, phases := (List.range count).map phase } ∧
          ∀ m : Fin 16, m ≠ n → t.slot m = s.slot m)) ∧
      t = { s with
        fetch := t.fetch, pendingList := t.pendingList, engine := t.engine, slots := t.slots, rotation := t.rotation })

/-- SET_GATE by its table (R59): refused for its gate number, its members, or a lane GATED on the gate, in that order; accepted,
the gate takes members and timeout and keeps the rest. -/
def Obligations.SetGateFollowsItsTable : Prop :=
  ∀ (s : State) (q : Fin 4) (r : List Byte), s.Holds 0x16 q r →
    ∃ t, exec .setGate s = .next t ∧
      (byteAt r 4 = 0 ∨ 4 < byteAt r 4 → Completes s t q r .badArgument none 1 ∧ OnlyFetchSide s t) ∧
      ∀ g : Fin 4, byteAt r 4 = g.val + 1 →
        let set : LaneSet := BitVec.ofNat 4 (byteAt r 5)
        let busy := fun l : Fin 4 =>
          ((s.gate g).members.getLsbD l.val = true ∨ set.getLsbD l.val = true) ∧ (s.lane l).gatedOn g = true
        (16 ≤ byteAt r 5 → Completes s t q r .badArgument none 2 ∧ OnlyFetchSide s t) ∧
        (byteAt r 5 < 16 →
          (∀ l, busy l → (∀ k, k < l → ¬busy k) → Completes s t q r .busy none l.val ∧ OnlyFetchSide s t) ∧
          ((∀ l, ¬busy l) → Completes s t q r .done none 0 ∧
            t.gate g = { s.gate g with members := set, timeout := field16 r 6 } ∧
            (∀ k : Fin 4, k ≠ g → t.gate k = s.gate k) ∧
            t = { s with
              sqs := t.sqs, fetch := t.fetch, pendingList := t.pendingList, engine := t.engine, gates := t.gates }))

/-- CAPTURE_START by its table (R146, R147): the refusals in their order, each changing no stream; accepted, the stream starts at
its ring base with every count 0, RUNNING from the next tick for IMMEDIATE and ARMED for LANE_START. -/
def Obligations.CaptureStartFollowsItsTable : Prop :=
  ∀ (s : State) (q : Fin 4) (r : List Byte), s.Holds 0x17 q r →
    ∃ t, exec .captureStart s = .next t ∧
      (1 < byteAt r 4 → Completes s t q r .badArgument none 1 ∧ OnlyFetchSide s t) ∧
      ∀ n : Fin 2, byteAt r 4 = n.val →
        let st := (s.stream n).state
        let base := field16 r 8
        let size := field16 r 10
        let refused := fun d : Nat => Completes s t q r .badArgument none d ∧ OnlyFetchSide s t
        let free := st = .off ∨ st = .frozen
        let badMode := 1 < byteAt r 5
        let badSize := size < 256 ∨ 8192 < size ∨ size % 16 ≠ 0
        let badTrigger := 1 < byteAt r 12 ∨ (byteAt r 12 = 1 ∧ 3 < byteAt r 13)
        let badFreeze := byteAt r 5 = 1 ∧ (2 < byteAt r 14 ∨ (byteAt r 14 = 1 ∧ 3 < byteAt r 15))
        let overlap := SharesByte s (some n) base size
        (st = .armed → Completes s t q r .busy none 1 ∧ OnlyFetchSide s t) ∧
        (st = .running → Completes s t q r .busy none 2 ∧ OnlyFetchSide s t) ∧
        (st = .overrun → Completes s t q r .busy none 3 ∧ OnlyFetchSide s t) ∧
        (free → badMode → refused 2) ∧
        (free → ¬badMode → base % 16 ≠ 0 → refused 3) ∧
        (free → ¬badMode → base % 16 = 0 → badSize → refused 4) ∧
        (free → ¬badMode → base % 16 = 0 → ¬badSize → 16384 < base + size → refused 5) ∧
        (free → ¬badMode → base % 16 = 0 → ¬badSize → base + size ≤ 16384 → badTrigger → refused 6) ∧
        (free → ¬badMode → base % 16 = 0 → ¬badSize → base + size ≤ 16384 → ¬badTrigger → badFreeze → refused 7) ∧
        (free → ¬badMode → base % 16 = 0 → ¬badSize → base + size ≤ 16384 → ¬badTrigger → ¬badFreeze → overlap →
          refused 8) ∧
        (free → ¬badMode → base % 16 = 0 → ¬badSize → base + size ≤ 16384 → ¬badTrigger → ¬badFreeze → ¬overlap →
          Completes s t q r .done none 0 ∧
          (t.stream n).mode = (if byteAt r 5 = 0 then .stream else .history) ∧ (t.stream n).base = base ∧
          (t.stream n).size = size ∧ (t.stream n).writePos = base ∧ (t.stream n).readPos = base ∧
          (t.stream n).interval = byteAt r 6 + 1 ∧ (t.stream n).sequence = 0 ∧ (t.stream n).dropCount = 0 ∧
          (t.stream n).wrapCount = 0 ∧
          (byteAt r 12 = 0 → (t.stream n).trigger = .immediate ∧ (t.stream n).state = .running ∧
            (t.stream n).nextInstant = some (s.tick + 1)) ∧
          (∀ l : Fin 4, byteAt r 12 = 1 → byteAt r 13 = l.val →
            (t.stream n).trigger = .laneStart l ∧ (t.stream n).state = .armed ∧ (t.stream n).nextInstant = none) ∧
          (byteAt r 5 = 1 → byteAt r 14 = 0 → (t.stream n).freeze = .onTrip) ∧
          (∀ l : Fin 4, byteAt r 5 = 1 → byteAt r 14 = 1 → byteAt r 15 = l.val → (t.stream n).freeze = .onLaneFault l) ∧
          (byteAt r 5 = 1 → byteAt r 14 = 2 → (t.stream n).freeze = .manual) ∧
          (∀ k : Fin 2, k ≠ n → t.stream k = s.stream k) ∧
          t = { s with
            sqs := t.sqs, fetch := t.fetch, pendingList := t.pendingList, engine := t.engine, streams := t.streams })

/-- CAPTURE_STOP (R156): an ARMED, RUNNING or OVERRUN stream becomes OFF, a RUNNING HISTORY stream FROZEN with its occurrence, of
code 2, or 3 once the ring has wrapped, and the record index (R157), an OFF or FROZEN one stays, with no occurrence; the completion
gives the state found, the wrap count up to 255 and the write position. A stream whose trigger lane has entered RUNNING at this tick
is stopped after its first record has been written, at its ring's base (how the model tells such a stream is
notes/assumptions/25.md). -/
def Obligations.CaptureStopReportsState : Prop :=
  ∀ (s : State) (q : Fin 4) (r : List Byte), s.Holds 0x18 q r →
    ∃ t, exec .captureStop s = .next t ∧
      (1 < byteAt r 4 → Completes s t q r .badArgument none 1 ∧ OnlyFetchSide s t) ∧
      ∀ n : Fin 2, byteAt r 4 = n.val → (¬((s.stream n).mode = .history ∧ (s.stream n).state = .overrun)) →
        let first := s.instantDue n = true ∧ (s.stream n).trigger ≠ .immediate ∧
          (s.stream n).writePos = (s.stream n).base ∧ (s.stream n).wrapCount = 0
        let found := match (s.stream n).state with
          | .off => 0
          | .armed => 1
          | .running => 2
          | .overrun => 3
          | .frozen => 4
        (¬first → Consumed s t q ∧
          HandedOver s t
            { plainCompletion (identity s q r) .done none found with
              repeats := min 255 (s.stream n).wrapCount, elapsed := (s.stream n).writePos } ∧
          t.stream n =
            (match (s.stream n).state, (s.stream n).mode with
            | .off, _ => s.stream n
            | .frozen, _ => s.stream n
            | .running, .history => { s.stream n with state := .frozen, nextInstant := none }
            | _, _ => { s.stream n with state := .off, nextInstant := none }) ∧
          (∀ k : Fin 2, k ≠ n → t.stream k = s.stream k) ∧
          (let index := ((s.stream n).writePos - (s.stream n).base) / 16
           let freezes := (s.stream n).state = .running ∧ (s.stream n).mode = .history
           (freezes → t.event (captureStateSource n) =
              foldOccurrence s.tick
                { first := if (s.stream n).wrapCount = 0 then 2 else 3, second := index % 256, third := index / 256 }
                (s.event (captureStateSource n)) ∧
              ∀ e : Fin 12, e ≠ captureStateSource n → t.event e = s.event e) ∧
            (¬freezes → t.events = s.events)) ∧
          t = { s with
            sqs := t.sqs, fetch := t.fetch, pendingList := t.pendingList, engine := t.engine, streams := t.streams
            events := t.events }) ∧
        (first → s.MemoryOk → (s.stream n).state = .running → (s.stream n).base + 16 ≤ 16384 → 16 < (s.stream n).size →
          (s.stream n).readPos = (s.stream n).base →
          Consumed s t q ∧
          HandedOver s t
            { plainCompletion (identity s q r) .done none 2 with repeats := 0, elapsed := (s.stream n).base + 16 } ∧
          memoryHolds t (s.stream n).base (sampleBytes (s.stream n).sequence s.tick s.lastSample) ∧
          (∀ a, (a < (s.stream n).base ∨ (s.stream n).base + 16 ≤ a) → Memory.read t.xm a = Memory.read s.xm a) ∧
          t.stream n =
            { s.stream n with
              state := if (s.stream n).mode = .history then .frozen else .off
              nextInstant := none, writePos := (s.stream n).base + 16, sequence := ((s.stream n).sequence + 1) % 256 } ∧
          (∀ k : Fin 2, k ≠ n → t.stream k = s.stream k) ∧
          ((s.stream n).mode = .history →
            t.event (captureStateSource n) =
              foldOccurrence s.tick { first := 2, second := 1, third := 0 } (s.event (captureStateSource n)) ∧
            ∀ e : Fin 12, e ≠ captureStateSource n → t.event e = s.event e) ∧
          ((s.stream n).mode = .stream → t.events = s.events) ∧
          t = { s with
            sqs := t.sqs, fetch := t.fetch, pendingList := t.pendingList, engine := t.engine, streams := t.streams
            events := t.events, xm := t.xm, rotation := .capture })

/-- SNAPSHOT at its consumption (R137 to R139): refused for alignment, range or overlap, in that order; accepted, the record is
consumed without a completion and the picture of this moment is what will be written: 128 bytes, the tick, permit and cause
first. -/
def Obligations.SnapshotTakesItsPicture : Prop :=
  ∀ (s : State) (q : Fin 4) (r : List Byte), s.Holds 0x19 q r →
    ∃ t, exec .snapshot s = .next t ∧
      let target := field16 r 4
      let overlap := SharesByte s none target 128
      (target % 16 ≠ 0 → Completes s t q r .badArgument none 1 ∧ OnlyFetchSide s t) ∧
      (target % 16 = 0 → 0x3F80 < target → Completes s t q r .badArgument none 2 ∧ OnlyFetchSide s t) ∧
      (target % 16 = 0 → target ≤ 0x3F80 → overlap → Completes s t q r .badArgument none 3 ∧ OnlyFetchSide s t) ∧
      (target % 16 = 0 → target ≤ 0x3F80 → ¬overlap → Consumed s t q ∧
        ∃ picture, t = { s with sqs := t.sqs, fetch := .snapshotting target (identity s q r) picture 0 } ∧
          picture.length = 128 ∧ picture.take 6 = enc32 s.tick.toNat ++ enc8 (bit s.permitOn) ++ enc8 s.permitCause ∧
          (∀ l : Fin 4, (picture.drop (8 + 12 * l.val)).take 12 = laneBytes (s.lane l)) ∧
          (∀ c : Fin 6, (picture.drop (0x38 + 7 * c.val)).take 7 = channelBytes (s.channel c) s.lastSample[c]) ∧
          (∀ d : Fin 3, (picture.drop (0x62 + 4 * d.val)).take 4 = domainBytes (s.domain d)) ∧
          ∀ n : Fin 16, (picture.drop (0x70 + n.val)).take 1 = slotByte (s.slot n))

/-- The end of a snapshot write (R138), `taken` of its eight accesses made before and the rest by this row, as long as no waiting
agent comes first in rotation (R166; the model's choice, notes/assumptions/8.md; while one is still to be made, the write goes on):
the rest of the 128 bytes of the picture stand at their place from the target on, every other byte of memory is as before, and the
SNAPSHOT is completed DONE. -/
def Obligations.SnapshotIsWrittenWhole : Prop :=
  ∀ (s : State) (target : Nat) (o : Origin) (picture : List Byte) (taken : Nat) (waiting : List XmAgent), s.Awake →
    s.MemoryOk → s.configRead = none → s.fetch = .snapshotting target o picture taken → picture.length = 128 →
    target ≤ 0x3F80 → taken ≤ 8 →
    (taken < 8 → s.serves .snapshot waiting = false → exec (.snapshotWriteComplete waiting) s = .next s) ∧
    (taken < 7 → s.serves .snapshot waiting = true → ¬s.Alone .snapshot waiting →
      ∃ t, exec (.snapshotWriteComplete waiting) s = .next t ∧
        memoryHolds t (target + 16 * taken) ((picture.drop (16 * taken)).take 16) ∧
        (∀ a, (a < target + 16 * taken ∨ target + 16 * taken + 16 ≤ a) → Memory.read t.xm a = Memory.read s.xm a) ∧
        t = { s with xm := t.xm, fetch := .snapshotting target o picture (taken + 1), rotation := .snapshot }) ∧
    (s.Alone .snapshot waiting ∨ taken = 8 ∨ (taken = 7 ∧ s.serves .snapshot waiting = true) →
    ∃ t, exec (.snapshotWriteComplete waiting) s = .next t ∧ memoryHolds t (target + 16 * taken) (picture.drop (16 * taken)) ∧
      (∀ a, (a < target + 16 * taken ∨ target + 128 ≤ a) → Memory.read t.xm a = Memory.read s.xm a) ∧
      HandedOver s t (plainCompletion o .done none 0) ∧
      t = { s with
        xm := t.xm, fetch := t.fetch, pendingList := t.pendingList, engine := t.engine, rotation := t.rotation })

/-! ### The posting engine -/

/-- The pending list accepts the completion held in WAIT_POST as soon as it has a free place (R107, R123); while it is full the
fetch engine keeps it. -/
def Obligations.WaitPostIsAccepted : Prop :=
  ∀ (s : State) (c : Completion), s.Awake → s.fetch = .waitPost c →
    (s.pendingList.length < 8 →
      exec .waitPostAccept s = .next
        { s with
          pendingList := s.pendingList ++ [c], fetch := .idle
          engine := if s.engine = .stopping then .stopped else s.engine }) ∧
    (8 ≤ s.pendingList.length → exec .waitPostAccept s = .next s)

/-- The posting engine takes the oldest entry of one outbox (R15, R124): the first lane after the lane pointer, in rotating order,
whose outbox holds an entry, unless the list is full or the fetch engine holds a completion. The lane's readiness is told to the
SQs blocked on it (R111), and a lane whose last entry has left takes the head of its queue if it may start (R13, R60 to R63). -/
def Obligations.OutboxGivesOldestInRotation : Prop :=
  ∀ s : State, s.Awake →
    ((∀ c, s.fetch ≠ .waitPost c) → s.pendingList.length < 8 →
      ∀ (l : Fin 4) (c : Completion) (rest : List Completion), (s.lane l).outbox = c :: rest →
      (∀ k : Fin 4, (k - (s.lanePointer + 1)).val < (l - (s.lanePointer + 1)).val → (s.lane k).outbox = []) →
      ∃ t v, exec .outboxAccept s = .next t ∧ t.pendingList = s.pendingList ++ [c] ∧ t.lanePointer = l ∧
        (t.lane l).outbox = rest ∧
        v.lane l = { s.lane l with outbox := rest } ∧ (∀ k : Fin 4, k ≠ l → v.lane k = s.lane k) ∧ Noticed s v (laneBit l) ∧
        v = { s with pendingList := s.pendingList ++ [c], lanePointer := l, lanes := v.lanes, sqs := v.sqs } ∧
        (rest ≠ [] ∨ (s.lane l).queue = [] ∨ v.mayStart l = false → t = v) ∧
        ∀ g queue, (s.lane l).queue = g :: queue → v.mayStart l = true → s.LanesOk → TakesHead v t l g) ∧
    ((∀ l : Fin 4, (s.lane l).outbox = []) ∨ 8 ≤ s.pendingList.length ∨ (∃ c, s.fetch = .waitPost c) →
      exec .outboxAccept s = .next s)

/-- Writing into a CQ (R120, R121, R125, R130, R132, R133): a CQ is written only with a geometry and room, and when both CQs have
something to write and room, the one not written last; into the event CQ a pending event goes before any completion, the one of the
lowest source first. The record stands at the tail's entry with the present phase tag and no
other byte of memory changes; the tail advances modulo the size and the tag inverts at a wrap; a written completion leaves the
list and a written event's flag clears; the first unsignalled record starts the delay timer, if the CQ has a delay, and reaching the
coalescing count sets the CQ's CAUSE bit and stops it. While another waiting agent comes first in rotation, nothing happens (R166).
`x` holds the accesses of the fetch side taken before and the agents that wait (notes/assumptions/8.md): `u` is the state after
those accesses. -/
def Obligations.PostedRecordStandsInRing : Prop :=
  (∀ (s : State) (q : Fin 2) (x : Access), s.Awake → s.MemoryOk → (s.cq q).base + 16 * (s.cq q).size ≤ 16384 →
    (s.cq q).tail < (s.cq q).size →
    let u := s.fetchTurns x.turns
    let at_ := (s.cq q).base + 16 * (s.cq q).tail
    let full := (s.cq q).unsignalled + 1 = (s.cq q).coalCount
    let written := fun (t : State) (bytes : List Byte) => memoryHolds t at_ bytes ∧ bytes.length = 16 ∧
      (∀ a, (a < at_ ∨ at_ + 16 ≤ a) → Memory.read t.xm a = Memory.read u.xm a) ∧
      t.cq q =
        { s.cq q with
          tail := ((s.cq q).tail + 1) % (s.cq q).size
          phaseTag := (s.cq q).phaseTag != ((s.cq q).tail + 1 == (s.cq q).size)
          unsignalled := if full then 0 else (s.cq q).unsignalled + 1
          delayTimer :=
            if full then none
            else if (s.cq q).unsignalled = 0 ∧ (s.cq q).coalDelay ≠ 0 then some (10 * (s.cq q).coalDelay)
            else (s.cq q).delayTimer } ∧
      (∀ p : Fin 2, p ≠ q → t.cq p = s.cq p) ∧ t.cqTurn = q ∧
      (∀ b : Fin 3, t.cause.getLsbD b.val = (s.cause.getLsbD b.val || (decide full && b.val == q.val)))
    (∀ c : Completion, s.nextPost = some (q, .completion c) →
      (u.serves .posting x.waiting = false → exec (.completionWrite x) s = .next s) ∧
      (u.serves .posting x.waiting = true →
      ∃ t, exec (.completionWrite x) s = .next t ∧ written t (completionBytes c (s.cq q).phaseTag) ∧
        (∃ before after, s.pendingList = before ++ c :: after ∧ (∀ x ∈ before, x.origin.cq ≠ q) ∧
          t.pendingList = before ++ after) ∧ c.origin.cq = q ∧
        (s.eventCq = some q → ∀ e : Fin 12, s.event e = none) ∧
        t = { u with
          xm := t.xm, cqs := t.cqs, cqTurn := q, rotation := .posting, cause := t.cause, pendingList := t.pendingList })) ∧
    ∀ e : Fin 12, s.nextPost = some (q, .event e) →
      (u.serves .posting x.waiting = false → exec (.eventWrite x) s = .next s) ∧
      (u.serves .posting x.waiting = true →
      ∃ t o, s.event e = some o ∧ s.eventCq = some q ∧ (∀ f : Fin 12, f < e → s.event f = none) ∧
        exec (.eventWrite x) s = .next t ∧
        written t (eventBytes e o.count
          (if e = 3 then { first := bit s.permitOn, second := s.permitCause, third := 0 } else o.detail) o.first
          (s.cq q).phaseTag) ∧
        t.event e = none ∧ (∀ f : Fin 12, f ≠ e → t.event f = s.event f) ∧
        t = { u with
          xm := t.xm, cqs := t.cqs, cqTurn := q, rotation := .posting, cause := t.cause, events := t.events })) ∧
    ∀ s : State, (s.engine ≠ .starting ∨ (s.configRead = none ∧ s.drained = false)) →
      let room := fun q : Fin 2 => (s.cq q).size ≠ 0 ∧ ((s.cq q).tail + 1) % (s.cq q).size ≠ (s.cq q).hostHead
      let work := fun q : Fin 2 => (∃ c ∈ s.pendingList, c.origin.cq = q) ∨ (s.eventCq = some q ∧ ∃ e : Fin 12, s.event e ≠ none)
      (∀ q i, s.nextPost = some (q, i) → room q ∧ work q) ∧
        (∀ q : Fin 2, room q → work q → ∃ p i, s.nextPost = some (p, i)) ∧
        ((∀ q : Fin 2, room q ∧ work q) → ∃ i, s.nextPost = some (s.cqTurn + 1, i)) ∧
        (∀ q i e, s.nextPost = some (q, i) → s.eventCq = some q → s.event e ≠ none → ∃ f, f ≤ e ∧ i = .event f) ∧
        ((∀ q : Fin 2, ¬(room q ∧ work q)) → ∀ x, exec (.completionWrite x) s = .next s ∧ exec (.eventWrite x) s = .next s)

/-! ### Laws that every step keeps -/

/-- Every step keeps exchange memory in its canonical form. -/
def Obligations.StepKeepsMemoryForm : Prop := ∀ s t : State, s.MemoryOk → step s = .next t → t.MemoryOk

/-- Every step keeps ownership (R8): a lane owns exactly the channels whose owner it is, so no channel has two. -/
def Obligations.StepKeepsOwnership : Prop := ∀ s t : State, s.OwnershipOk → step s = .next t → t.OwnershipOk

/-- Every step keeps forced-off channels OFF (R10). -/
def Obligations.StepKeepsForcedOff : Prop := ∀ s t : State, s.ForcedOffOk → step s = .next t → t.ForcedOffOk

/-- Every step keeps lanes from being RUNNING or GATED without the permit or with a domain that is not ARMED (R13, R61), and
arrival sets to lanes that are GATED on the gate (R58). -/
def Obligations.StepKeepsLanesPermitted : Prop := ∀ s t : State, s.LanesOk → step s = .next t → t.LanesOk

/-- Every step keeps the bounds of the lanes (R16), and with them at most four queued segments and six outbox entries (R14,
R26). -/
def Obligations.StepKeepsLaneBounds : Prop :=
  (∀ s t : State, s.BoundsOk → step s = .next t → t.BoundsOk) ∧
    ∀ s : State, s.BoundsOk → ∀ l : Fin 4, (s.lane l).queue.length ≤ 4 ∧ (s.lane l).outbox.length ≤ 6

/-- Every step keeps each slot's use count at the number of segments that reference it (R50). -/
def Obligations.StepKeepsUseCounts : Prop := ∀ s t : State, s.UseCountsOk → step s = .next t → t.UseCountsOk

/-- Every step keeps each channel in exactly one domain (R77). -/
def Obligations.StepKeepsDomains : Prop := ∀ s t : State, s.DomainsOk → step s = .next t → t.DomainsOk

/-- Every step keeps ring positions inside their rings (R93, R119) and the pending list to 8 entries (R123). -/
def Obligations.StepKeepsRingsAndList : Prop :=
  ∀ s t : State, s.RingsOk → s.PendingOk → step s = .next t → t.RingsOk ∧ t.PendingOk

/-- The state after reset meets every law. -/
def Obligations.ResetMeetsEveryLaw : Prop :=
  State.reset.MemoryOk ∧ State.reset.PendingOk ∧ State.reset.OwnershipOk ∧ State.reset.ForcedOffOk ∧ State.reset.LanesOk ∧
    State.reset.BoundsOk ∧ State.reset.UseCountsOk ∧ State.reset.DomainsOk ∧ State.reset.RingsOk ∧ State.reset.Awake

/-- The switches of a channel. The two never conduct together (R7). Under a drive with its values in their ranges, each conducts
exactly in the parts of the period that R4 to R6 give it (`HighConducts`, `LowConducts`), from the end of its first delay on; and
that delay, after a drive of a tick or more, is none, or ends the BBM interval after the last moment at which the opposite switch
conducted (R7). So a switch that turns on after a drive is applied does so no less than the interval after any moment of the earlier
drive at which the opposite one conducted. A new interval changes nothing of what the switches do up to its moment, nor of what
follows in the same period up to its next edge: a delay in progress completes with the interval it began with (R7, R75), and an edge
at the very moment of the new interval counts as decided before it (the model's choice, notes/assumptions/10.md). It governs the
turn-ons decided after it: the first one of the low switch under PWM_C at the end of an on-time that is not longer than the
interval, in which the high switch does not conduct (notes/assumptions/27.md), and those of the periods to come. Times are in ns
from the tick of the drive's application; a change comes in a tick `now`, at the moment `offset` of it (notes/assumptions/26.md),
never before the earlier drive was applied. -/
def Obligations.SwitchesBreakBeforeMake : Prop :=
  (∀ (c : Channel) (t : Nat), ¬(c.highOn t = true ∧ c.lowOn t = true)) ∧
    (∀ (c : Channel) (now : Tick) (code : DriveCode) (duty period offset t : Nat), driveOk code duty period →
      let d := c.driveTo now code duty period offset
      (d.highOn t = true ↔ d.highWait ≤ t ∧ HighConducts code duty period c.bbmNs t) ∧
        (d.lowOn t = true ↔ d.lowWait ≤ t ∧ LowConducts code duty period c.bbmNs t)) ∧
    (∀ (c : Channel) (now : Tick) (code : DriveCode) (duty period offset : Nat), bbmOk c.bbm → driveOk c.code c.duty c.period →
      let d := c.driveTo now code duty period offset
      let m := max (c.elapsedNs now + offset) c.applied
      let start := m - c.elapsedNs now
      c.applied + 10000 ≤ m →
      (d.highWait = start ∨ (start < d.highWait ∧ d.highWait ≤ start + c.bbmNs ∧
        c.lowOn (m + (d.highWait - start) - c.bbmNs - 1) = true)) ∧
      (d.lowWait = start ∨ (start < d.lowWait ∧ d.lowWait ≤ start + c.bbmNs ∧
        c.highOn (m + (d.lowWait - start) - c.bbmNs - 1) = true))) ∧
    (∀ (c : Channel) (now : Tick) (code : DriveCode) (duty period offset u t : Nat),
      u < max (c.elapsedNs now + offset) c.applied →
      (c.lowOn u = true → (c.driveTo now code duty period offset).highOn t = true → c.bbmNs ≤ c.elapsedNs now + t - u) ∧
        (c.highOn u = true → (c.driveTo now code duty period offset).lowOn t = true → c.bbmNs ≤ c.elapsedNs now + t - u)) ∧
    (∀ (c : Channel) (now : Tick) (threshold bbm offset u : Nat),
      let m := max (c.elapsedNs now + offset) c.applied
      u ≤ m ∨ (u / c.periodNs = m / c.periodNs ∧ (u % c.periodNs < c.onNs ∨ c.onNs ≤ m % c.periodNs)) →
      (c.takeLimits now threshold bbm offset).highOn u = c.highOn u ∧ (c.takeLimits now threshold bbm offset).lowOn u = c.lowOn u) ∧
    ∀ (c : Channel) (start now : Tick) (duty period threshold bbm offset t : Nat), bbmOk c.bbm → bbmOk bbm → 0 < duty → duty < 1000 →
      20 ≤ period → period ≤ 200 →
      let d := c.driveTo start .pwmC duty period
      let e := d.takeLimits now threshold bbm offset
      let m := max (d.elapsedNs now + offset) d.applied
      (m < period * duty → period * duty ≤ c.bbmNs → t < 1000 * period →
        (e.lowOn t = true ↔ period * duty ≤ t ∧ d.applied + (500 * bbm - d.highAge) ≤ t)) ∧
      (max d.highWait d.lowWait ≤ 1000 * period → m + 1000 * period < t / (1000 * period) * (1000 * period) →
        (e.highOn t = true ↔ HighConducts .pwmC duty period (500 * bbm) t) ∧
          (e.lowOn t = true ↔ LowConducts .pwmC duty period (500 * bbm) t))
end

