-- ==== Sys2Proof/Laws/Checks.lean ====
section
/-! SUPPORT. The checks of a SEGMENT record and of the configuration block, as the model makes them, are those of the statements
about the bytes: `SegmentFault` (R23) and `ConfigFault` (R114). -/

namespace Sys2Proof.Machine

/-! ### SEGMENT (R23) -/

theorem mem_phasesAt {r : List Byte} {p : Phase} : ∀ (n o : Nat), p ∈ phasesAt r o n ↔ ∃ i, i < n ∧ p = phaseAt r (o + 8 * i)
  | 0, _ => by simp [phasesAt]
  | n + 1, o => by
    rw [phasesAt, List.mem_cons, mem_phasesAt n (o + 8)]
    constructor
    · rintro (h | ⟨i, hi, h⟩)
      · exact ⟨0, by omega, by simpa using h⟩
      · exact ⟨i + 1, by omega, by rw [h]; congr 1; omega⟩
    · rintro ⟨i, hi, h⟩
      cases i with
      | zero => exact .inl (by simpa using h)
      | succ i => exact .inr ⟨i, by omega, by rw [h]; congr 1; omega⟩

/-- The phases that validation reads are the record's inline entries or the named slot's phases (R24). -/
theorem State.mem_recordPhases {s : State} {r : List Byte} {p : Phase} :
    p ∈ s.recordPhases r ↔ (∃ o, inlineEntry r o ∧ p = phaseAt r o) ∨ slotPhase s r p := by
  unfold State.recordPhases sourceField inlineEntry slotPhase
  by_cases h5 : 1 ≤ byteAt r 6 ∧ byteAt r 6 ≤ 5
  · rw [if_pos h5]
    dsimp only
    rw [mem_phasesAt]
    constructor
    · rintro ⟨i, hi, rfl⟩; exact .inl ⟨_, ⟨i, hi, h5.2, rfl⟩, rfl⟩
    · rintro (⟨_, ⟨i, hi, -, rfl⟩, rfl⟩ | ⟨n, hn, -⟩)
      · exact ⟨i, hi, rfl⟩
      · omega
  · rw [if_neg h5]
    by_cases h16 : 16 ≤ byteAt r 6 ∧ byteAt r 6 ≤ 31
    · rw [if_pos h16]
      have hlt : byteAt r 6 - 16 < 16 := by omega
      simp only [asFin, hlt, dif_pos, Option.map_some]
      constructor
      · intro hp; exact .inr ⟨⟨_, hlt⟩, by simp; omega, hp⟩
      · rintro (⟨_, ⟨i, hi, h, -⟩, -⟩ | ⟨n, hn, hp⟩)
        · omega
        · have : n = ⟨byteAt r 6 - 16, hlt⟩ := by ext; simp; omega
          rw [← this]; exact hp
    · rw [if_neg h16]
      simp only [List.not_mem_nil, false_iff]
      rintro (⟨_, ⟨i, hi, h, -⟩, -⟩ | ⟨n, hn, -⟩)
      · omega
      · omega

/-- A property of some phase that validation reads. -/
theorem State.recordPhases_any {s : State} {r : List Byte} {f : Phase → Bool} :
    (s.recordPhases r).any f = true ↔ (∃ o, inlineEntry r o ∧ f (phaseAt r o) = true) ∨ ∃ p, slotPhase s r p ∧ f p = true := by
  simp only [List.any_eq_true, State.mem_recordPhases]
  constructor
  · rintro ⟨p, ⟨o, ho, rfl⟩ | hp, hf⟩
    · exact .inl ⟨o, ho, hf⟩
    · exact .inr ⟨p, hp, hf⟩
  · rintro (⟨o, ho, hf⟩ | ⟨p, hp, hf⟩)
    · exact ⟨_, .inl ⟨o, ho, rfl⟩, hf⟩
    · exact ⟨p, .inr hp, hf⟩

theorem phaseCode_mod (n : Nat) : phaseCode (n % 8) = phaseCode n := by simp [phaseCode]

theorem phaseCode_invalid {n : Nat} (h : n < 8) : phaseCode n = .invalid ↔ n = 7 := by interval_cases n <;> decide

theorem phaseCode_keep {n : Nat} (h : n < 8) : phaseCode n = .keep ↔ n = 0 := by interval_cases n <;> decide

theorem driveNibble_lt (r : List Byte) (o : Nat) (c : Fin 6) : driveNibble r o c < 8 := Nat.mod_lt _ (by decide)

/-- The code of a channel in a phase entry is that of its nibble. -/
theorem phaseAt_code (r : List Byte) (o : Nat) (c : Fin 6) : (phaseAt r o).codes[c] = phaseCode (driveNibble r o c) := by
  fin_cases c <;> exact (phaseCode_mod _).symm

theorem Phase.hasInvalid_iff (p : Phase) : p.hasInvalid = true ↔ ∃ c : Fin 6, p.codes[c] = .invalid := by
  simp only [Phase.hasInvalid, List.any_eq_true, beq_iff_eq, exists_eq_right]
  rw [Vector.mem_toList_iff, Vector.mem_iff_getElem]
  constructor
  · rintro ⟨i, hi, h⟩; exact ⟨⟨i, hi⟩, h⟩
  · rintro ⟨c, h⟩; exact ⟨c.val, c.isLt, h⟩

theorem Phase.reaches_iff (p : Phase) (set : ChannelSet) :
    p.reaches set = true ↔ ∃ c : Fin 6, p.codes[c] ≠ .keep ∧ set.getLsbD c.val = false := by
  simp only [Phase.reaches, List.any_eq_true, Bool.and_eq_true, bne_iff_ne, Bool.not_eq_true']
  constructor
  · rintro ⟨c, -, h⟩; exact ⟨c, h⟩
  · rintro ⟨c, h⟩; exact ⟨c, by fin_cases c <;> decide, h⟩

theorem endActionField_none {b : Nat} : endActionField b = none ↔ 1 < b := by
  unfold endActionField; split <;> simp_all; omega

theorem directionField_none {b : Nat} : directionField b = none ↔ 1 < b := by
  unfold directionField; split <;> simp_all; omega

theorem edgeField_none {b : Nat} : edgeField b = none ↔ 2 < b := by
  unfold edgeField; split <;> simp_all; omega

theorem sourceField_none {b : Nat} : sourceField b = none ↔ b = 0 ∨ (5 < b ∧ b < 16) ∨ 31 < b := by
  unfold sourceField
  split
  · simp; omega
  · split
    · simp only [asFin, show b - 16 < 16 by omega, dif_pos, Option.map_some, reduceCtorEq, false_iff]; omega
    · simp only [true_iff]; omega

theorem State.slotMissing_iff {s : State} {r : List Byte} :
    s.slotMissing r = true ↔ ∃ n : Fin 16, byteAt r 6 = 16 + n.val ∧ (s.slot n).valid = false := by
  unfold State.slotMissing sourceField
  by_cases h5 : 1 ≤ byteAt r 6 ∧ byteAt r 6 ≤ 5
  · rw [if_pos h5]
    simp only [Bool.false_eq_true, false_iff]
    rintro ⟨n, hn, -⟩; omega
  · rw [if_neg h5]
    by_cases h16 : 16 ≤ byteAt r 6 ∧ byteAt r 6 ≤ 31
    · rw [if_pos h16]
      have hlt : byteAt r 6 - 16 < 16 := by omega
      simp only [asFin, hlt, dif_pos, Option.map_some, Bool.not_eq_true']
      constructor
      · intro h; exact ⟨⟨_, hlt⟩, by simp; omega, h⟩
      · rintro ⟨n, hn, h⟩
        have : n = ⟨byteAt r 6 - 16, hlt⟩ := by ext; simp; omega
        rw [← this]; exact h
    · rw [if_neg h16]
      simp only [Bool.false_eq_true, false_iff]
      rintro ⟨n, hn, -⟩; omega

theorem State.gateBad_iff {s : State} {l : Fin 4} {r : List Byte} :
    s.gateBad l r = true ↔ 4 < byteAt r 5 ∨ ∃ g : Fin 4, byteAt r 5 = g.val + 1 ∧ (s.gate g).members.getLsbD l.val = false := by
  unfold State.gateBad gateField
  simp only [Bool.or_eq_true, decide_eq_true_eq]
  refine or_congr Iff.rfl ?_
  by_cases h0 : byteAt r 5 = 0
  · simp only [h0, if_true, Bool.false_eq_true, false_iff]
    rintro ⟨g, hg, -⟩; omega
  · rw [if_neg h0]
    by_cases h4 : byteAt r 5 - 1 < 4
    · simp only [asFin, h4, dif_pos, Bool.not_eq_true']
      constructor
      · intro h; exact ⟨⟨_, h4⟩, by simp; omega, h⟩
      · rintro ⟨g, hg, h⟩
        have : g = ⟨byteAt r 5 - 1, h4⟩ := by ext; simp; omega
        rw [← this]; exact h
    · simp only [asFin, h4, dif_neg, not_false_eq_true, Bool.false_eq_true, false_iff]
      rintro ⟨g, hg, -⟩; omega

/-- The model's checks, with their numbers. -/
theorem State.segmentCheck_eq (s : State) (l : Fin 4) (r : List Byte) :
    ∃ f : Nat → Bool, (∀ n, 1 ≤ n → n ≤ 12 → (f n = true ↔ SegmentFault s l r n)) ∧
      s.segmentCheck l r = firstFailing ((List.range' 1 12).map fun n => (n, f n)) := by
  let phases := s.recordPhases r
  let owned := (s.lane l).owned
  refine ⟨fun n => match n with
    | 1 => (sourceField (byteAt r 6)).isNone
    | 2 => s.slotMissing r
    | 3 => phases.any fun p => p.duration == 0
    | 4 => phases.any fun p => p.hasInvalid
    | 5 => phases.any fun p => p.reaches owned
    | 6 => decide (byteAt r 9 < 20) || decide (200 < byteAt r 9)
    | 7 => phases.any fun p => decide (1000 < p.duty)
    | 8 => (endActionField (byteAt r 8)).isNone
    | 9 => currentStopBad r owned
    | 10 => inputStopBad r
    | 11 => s.gateBad l r
    | 12 => byteAt r 7 == 0 && byteAt r 12 == 0xFF && byteAt r 17 == 0xFF && field16 r 10 == 0
    | _ => false, ?_, rfl⟩
  intro n h1 h12
  interval_cases n
  · simp [SegmentFault, sourceField_none]
  · exact State.slotMissing_iff
  · simp only [SegmentFault]
    rw [State.recordPhases_any]
    simp [phaseAt]
  · simp only [SegmentFault]
    rw [State.recordPhases_any]
    simp only [Phase.hasInvalid_iff, phaseAt_code, phaseCode_invalid (driveNibble_lt _ _ _), exists_and_left]
  · simp only [SegmentFault]
    rw [State.recordPhases_any]
    simp only [Phase.reaches_iff, phaseAt_code, ne_eq, phaseCode_keep (driveNibble_lt _ _ _), exists_and_left, owned]
  · simp [SegmentFault]
  · simp only [SegmentFault]
    rw [State.recordPhases_any]
    exact or_congr (exists_congr fun o => and_congr Iff.rfl decide_eq_true_iff)
      (exists_congr fun p => and_congr Iff.rfl decide_eq_true_iff)
  · simp [SegmentFault, endActionField_none]
  · simp [SegmentFault, currentStopBad, directionField_none, owned, or_assoc]
  · simp [SegmentFault, inputStopBad, edgeField_none]
  · exact State.gateBad_iff
  · simp [SegmentFault, and_assoc]

theorem firstFailing_some {f : Nat → Bool} {n : Nat} : ∀ {m k : Nat}, m ≤ n → n < m + k → f n = true →
    (∀ i, m ≤ i → i < n → f i = false) →
    firstFailing ((List.range' m k).map fun n => (n, f n)) = some n
  | m, 0, h, h', _, _ => by omega
  | m, k + 1, h, h', hf, hl => by
    rw [List.range'_succ, List.map_cons, firstFailing]
    by_cases hm : m = n
    · subst hm; simp [hf]
    · rw [hl m (Nat.le_refl _) (by omega)]
      exact firstFailing_some (by omega) (by omega) hf fun i hi => hl i (by omega)

theorem firstFailing_none {f : Nat → Bool} : ∀ {m k : Nat}, (∀ i, m ≤ i → i < m + k → f i = false) →
    firstFailing ((List.range' m k).map fun n => (n, f n)) = none
  | _, 0, _ => rfl
  | m, k + 1, h => by
    rw [List.range'_succ, List.map_cons, firstFailing, h m (Nat.le_refl _) (by omega)]
    exact firstFailing_none fun i hi hk => h i (by omega) (by omega)

theorem SegmentFault.number {s : State} {l : Fin 4} {r : List Byte} {n : Nat} (h : SegmentFault s l r n) : 1 ≤ n ∧ n ≤ 12 := by
  unfold SegmentFault at h
  split at h <;> first | exact ⟨by decide, by decide⟩ | exact h.elim

/-- The first check that fails in the record's bytes is the one that the model reports (R23). -/
theorem State.segmentCheck_some {s : State} {l : Fin 4} {r : List Byte} {n : Nat} (h : SegmentFault s l r n)
    (hl : ∀ k, k < n → ¬SegmentFault s l r k) : s.segmentCheck l r = some n := by
  obtain ⟨f, hf, he⟩ := s.segmentCheck_eq l r
  obtain ⟨h1, h12⟩ := h.number
  rw [he]
  refine firstFailing_some h1 (by omega) ((hf n h1 h12).mpr h) fun i hi hn => ?_
  have := mt (hf i hi (by omega)).mp (hl i hn)
  simpa using this

/-- A record none of whose checks fails passes the model's checks (R23). -/
theorem State.segmentCheck_none {s : State} {l : Fin 4} {r : List Byte} (h : ∀ n, ¬SegmentFault s l r n) :
    s.segmentCheck l r = none := by
  obtain ⟨f, hf, he⟩ := s.segmentCheck_eq l r
  rw [he]
  refine firstFailing_none fun i hi hn => ?_
  have := mt (hf i hi (by omega)).mp (h i)
  simpa using this

/-- The check of a SEGMENT record answers a number exactly when that check is the first that fails (R23). -/
theorem State.segmentCheck_eq_some_iff {s : State} {l : Fin 4} {r : List Byte} {n : Nat} :
    s.segmentCheck l r = some n ↔ SegmentFault s l r n ∧ ∀ k, k < n → ¬SegmentFault s l r k := by
  classical
  refine ⟨fun h => ?_, fun h => State.segmentCheck_some h.1 h.2⟩
  by_cases hx : ∃ k, SegmentFault s l r k
  · have hm := State.segmentCheck_some (Nat.find_spec hx) fun k => Nat.find_min hx
    have : Nat.find hx = n := Option.some.inj (hm.symm.trans h)
    exact this ▸ ⟨Nat.find_spec hx, fun k => Nat.find_min hx⟩
  · rw [State.segmentCheck_none fun k hk => hx ⟨k, hk⟩] at h
    cases h

/-- The check of a SEGMENT record answers no number exactly when no check fails (R23). -/
theorem State.segmentCheck_eq_none_iff {s : State} {l : Fin 4} {r : List Byte} :
    s.segmentCheck l r = none ↔ ∀ n, ¬SegmentFault s l r n := by
  classical
  refine ⟨fun h n hn => ?_, State.segmentCheck_none⟩
  have hx : ∃ k, SegmentFault s l r k := ⟨n, hn⟩
  rw [State.segmentCheck_some (Nat.find_spec hx) fun k => Nat.find_min hx] at h
  cases h

/-! ### The configuration block (R114) -/

theorem configSignature {s : State} {b : List Byte} : b.take 4 ≠ [0x54, 0x51, 0x36, 0x43] ↔ ConfigFault s b .badSignature := by
  simp only [ConfigFault, byteAt, ne_eq, not_iff_not]
  match b with
  | [] => simp
  | [_] => simp
  | [_, _] => simp
  | [_, _, _] => simp
  | x :: y :: z :: w :: rest =>
    simp only [List.take_succ_cons, List.take_zero, List.cons.injEq, and_true, List.getD_cons_zero, List.getD_cons_succ,
      ← BitVec.toNat_inj]
    rfl

theorem ringSize_present {n : Nat} (h : n ≠ 0) : ringSize n = 2 ^ n := by simp [ringSize, h]

theorem mem_allLanes (q : Fin 4) : q ∈ allLanes := by fin_cases q <;> decide

theorem mem_allPairs (q : Fin 2) : q ∈ allPairs := by fin_cases q <;> decide

theorem configGeometry {s : State} {b : List Byte} :
    ((allLanes.any fun n => sqPresent b n && sqGeometryBad b n) || (allPairs.any fun n => cqPresent b n && cqGeometryBad b n)) =
      true ↔ ConfigFault s b .badGeometry := by
  simp only [ConfigFault, Bool.or_eq_true, List.any_eq_true, mem_allLanes, mem_allPairs, true_and, Bool.and_eq_true]
  refine or_congr (exists_congr fun q => ?_) (exists_congr fun q => ?_)
  · by_cases h : byteAt b (0x10 + 8 * q.val + 2) = 0
    · simp [sqPresent, sqDescriptor, h]
    · simp [sqPresent, sqGeometryBad, sqDescriptor, sqBase, h, ringSize_present h, Config.xmSize, or_assoc]
      grind
  · by_cases h : byteAt b (0x30 + 8 * q.val + 2) = 0
    · simp [cqPresent, cqDescriptor, h]
    · simp [cqPresent, cqGeometryBad, cqDescriptor, cqBase, h, ringSize_present h, Config.xmSize, or_assoc]
      grind

/-- Two ranges share a byte. -/
theorem rangesMeet_iff {a b : Nat × Nat} :
    rangesMeet a b = true ↔ ∃ k, (a.1 ≤ k ∧ k < a.1 + a.2) ∧ (b.1 ≤ k ∧ k < b.1 + b.2) := by
  simp only [rangesMeet, Bool.and_eq_true, decide_eq_true_eq]
  constructor
  · intro h; exact ⟨max a.1 b.1, by omega, by omega⟩
  · rintro ⟨k, h⟩; omega

/-- The six rings of the block: those of the SQs and then those of the CQs. -/
def ringOf (b : List Byte) (i : Fin 6) : Nat × Nat :=
  (field16 b (0x10 + 8 * i.val), (if i.val < 4 then 64 else 16) * ringSize (byteAt b (0x10 + 8 * i.val + 2)))

theorem ringCovers_iff {b : List Byte} {i : Fin 6} {a : Nat} :
    ringCovers b i a ↔ (ringOf b i).1 ≤ a ∧ a < (ringOf b i).1 + (ringOf b i).2 := by
  simp only [ringCovers, ringOf]
  by_cases h : byteAt b (0x10 + 8 * i.val + 2) = 0
  · simp [h, ringSize]
  · simp [h, ringSize_present h]

theorem anyMeet_six (f : Fin 6 → Nat × Nat) :
    anyMeet [f 0, f 1, f 2, f 3, f 4, f 5] = true ↔ ∃ i j : Fin 6, i < j ∧ rangesMeet (f i) (f j) = true := by
  simp only [anyMeet, List.any_cons, List.any_nil, Bool.or_false, Bool.or_eq_true, Fin.exists_fin_succ, Fin.exists_fin_zero]
  simp

theorem mem_rings {b : List Byte} {r : Nat × Nat} :
    r ∈ allLanes.map (sqRange b) ++ allPairs.map (cqRange b) ↔ ∃ i, r = ringOf b i := by
  rw [show allLanes.map (sqRange b) ++ allPairs.map (cqRange b) =
    [ringOf b 0, ringOf b 1, ringOf b 2, ringOf b 3, ringOf b 4, ringOf b 5] from rfl]
  constructor
  · intro h
    simp only [List.mem_cons, List.not_mem_nil, or_false] at h
    rcases h with h | h | h | h | h | h <;> exact ⟨_, h⟩
  · rintro ⟨i, rfl⟩
    fin_cases i <;> simp

theorem configOverlap_iff {s : State} {b : List Byte} : s.configOverlap b = true ↔ ConfigFault s b .overlap := by
  have hs : anyMeet (allLanes.map (sqRange b) ++ allPairs.map (cqRange b)) = true ↔
      ∃ i a, ringCovers b i a ∧ ∃ j, j ≠ i ∧ ringCovers b j a := by
    rw [show allLanes.map (sqRange b) ++ allPairs.map (cqRange b) =
      [ringOf b 0, ringOf b 1, ringOf b 2, ringOf b 3, ringOf b 4, ringOf b 5] from rfl, anyMeet_six]
    simp only [rangesMeet_iff, ringCovers_iff]
    constructor
    · rintro ⟨i, j, hij, k, h⟩; exact ⟨i, k, h.1, j, (ne_of_lt hij).symm, h.2⟩
    · rintro ⟨i, k, hi, j, hij, hj⟩
      rcases lt_or_gt_of_ne hij with h | h
      · exact ⟨j, i, h, k, hj, hi⟩
      · exact ⟨i, j, h, k, hi, hj⟩
  have ho : (allLanes.map (sqRange b) ++ allPairs.map (cqRange b)).any (fun r => ((0, Config.configBlockSize) ::
      (allPairs.filter fun n => (s.stream n).active).map fun n => ((s.stream n).base, (s.stream n).size)).any (rangesMeet r)) =
      true ↔ ∃ i a, ringCovers b i a ∧ (a < 0x100 ∨
        ∃ n : Fin 2, (s.stream n).state ≠ .off ∧ (s.stream n).base ≤ a ∧ a < (s.stream n).base + (s.stream n).size) := by
    simp only [List.any_eq_true, List.any_cons, Bool.or_eq_true, mem_rings, rangesMeet_iff, List.mem_map, List.mem_filter,
      mem_allPairs, true_and, CaptureStream.active, bne_iff_ne, ringCovers_iff]
    constructor
    · rintro ⟨_, ⟨i, rfl⟩, ⟨k, hi, h⟩ | ⟨_, ⟨n, hn, rfl⟩, k, hi, h⟩⟩
      · exact ⟨i, k, hi, .inl (by simpa [Config.configBlockSize] using h)⟩
      · exact ⟨i, k, hi, .inr ⟨n, hn, h⟩⟩
    · rintro ⟨i, k, hi, h | ⟨n, hn, h⟩⟩
      · exact ⟨_, ⟨i, rfl⟩, .inl ⟨k, hi, by simpa [Config.configBlockSize] using h⟩⟩
      · exact ⟨_, ⟨i, rfl⟩, .inr ⟨_, ⟨n, hn, rfl⟩, k, hi, h⟩⟩
  simp only [State.configOverlap, ConfigFault, Bool.or_eq_true, hs, ho]
  constructor
  · rintro (⟨i, a, hi, h⟩ | ⟨i, a, hi, h | h⟩)
    · exact ⟨i, a, hi, .inr (.inl h)⟩
    · exact ⟨i, a, hi, .inl h⟩
    · exact ⟨i, a, hi, .inr (.inr h)⟩
  · rintro ⟨i, a, hi, h | h | h⟩
    · exact .inr ⟨i, a, hi, .inl h⟩
    · exact .inl ⟨i, a, hi, h⟩
    · exact .inr ⟨i, a, hi, .inr h⟩

theorem configMissing_iff {s : State} {b : List Byte} :
    (!sqPresent b 0 || !cqPresent b 0) = true ↔ ConfigFault s b .missingQueue := by
  simp [ConfigFault, sqPresent, cqPresent, sqDescriptor, cqDescriptor]

theorem configTarget_iff {s : State} {b : List Byte} : configBadTarget b = true ↔ ConfigFault s b .badTarget := by
  have ha : ∀ t : Nat, (match asFin 2 t with
      | some q => !cqPresent b q
      | none => true) = true ↔ namesNoCq b t := by
    intro t
    unfold namesNoCq
    by_cases h : t < 2
    · simp only [asFin, h, dif_pos, Bool.not_eq_true', cqPresent, cqDescriptor, bne_eq_false_iff_eq]
      constructor
      · intro hb; exact .inr hb
      · rintro (hb | hb)
        · omega
        · exact hb
    · simp only [asFin, h, dif_neg, not_false_eq_true, true_iff]
      exact .inl (by omega)
  simp only [configBadTarget, ConfigFault, Bool.or_eq_true, List.any_eq_true, Bool.and_eq_true, mem_allLanes, true_and]
  exact or_congr (exists_congr fun q => and_congr (by simp [sqPresent, sqDescriptor]) (ha _)) (ha _)

/-- What the model reports of a block is the first check of R114 that fails in its bytes, or none. -/
theorem State.configCheck_eq (s : State) (b : List Byte) :
    (s.configCheck b = .none ∧ ∀ e, ¬ConfigFault s b e) ∨ (s.configCheck b ≠ .none ∧ firstConfigFault s b (s.configCheck b)) := by
  have h1 := configSignature (s := s) (b := b)
  have h2 := configGeometry (s := s) (b := b)
  have h3 := configOverlap_iff (s := s) (b := b)
  have h4 := configMissing_iff (s := s) (b := b)
  have h5 := configTarget_iff (s := s) (b := b)
  unfold State.configCheck firstConfigFault
  by_cases c1 : b.take 4 ≠ [0x54, 0x51, 0x36, 0x43]
  · simp only [if_pos c1]
    exact .inr ⟨by simp, h1.mp c1, by rintro (_ | _) <;> simp [ConfigError.code, ConfigFault]⟩
  rw [if_neg c1]
  have n1 := mt h1.mpr c1
  split
  · exact .inr ⟨by simp, h2.mp ‹_›,
      by rintro (_ | _) <;> first | exact fun _ => n1 | simp [ConfigError.code, ConfigFault]⟩
  have n2 := mt h2.mpr ‹_›
  split
  · exact .inr ⟨by simp, h3.mp ‹_›,
      by rintro (_ | _) <;> first | exact fun _ => n1 | exact fun _ => n2 | simp [ConfigError.code, ConfigFault]⟩
  have n3 := mt h3.mpr ‹_›
  split
  · exact .inr ⟨by simp, h4.mp ‹_›,
      by rintro (_ | _) <;>
        first | exact fun _ => n1 | exact fun _ => n2 | exact fun _ => n3 | simp [ConfigError.code, ConfigFault]⟩
  have n4 := mt h4.mpr ‹_›
  split
  · exact .inr ⟨by simp, h5.mp ‹_›,
      by rintro (_ | _) <;>
        first
        | exact fun _ => n1
        | exact fun _ => n2
        | exact fun _ => n3
        | exact fun _ => n4
        | simp [ConfigError.code, ConfigFault]⟩
  have n5 := mt h5.mpr ‹_›
  exact .inl ⟨rfl, by rintro (_ | _) <;> first | exact n1 | exact n2 | exact n3 | exact n4 | exact n5 | exact id⟩

end Sys2Proof.Machine
end

