-- ==== Sys2Proof/Laws/Memory.lean ====
section
/-! SUPPORT. Exchange memory: every operation keeps the canonical form, a read after a write of the same byte gives the byte
written, and a write leaves every other byte alone. -/

namespace Sys2Proof.Machine

theorem Memory.wfFrom_mono {lo lo' : Nat} (h : lo' ≤ lo) : ∀ {m : Memory}, Memory.wfFrom lo m = true → Memory.wfFrom lo' m = true
  | [], _ => rfl
  | (k, v) :: m, hm => by
    simp only [Memory.wfFrom, Bool.and_eq_true, decide_eq_true_eq] at hm ⊢
    exact ⟨⟨⟨by omega, hm.1.1.2⟩, hm.1.2⟩, hm.2⟩

theorem Memory.read_below {lo a : Nat} : ∀ {m : Memory}, Memory.wfFrom lo m = true → a < lo → Memory.read m a = 0
  | [], _, _ => rfl
  | (k, v) :: m, hm, ha => by
    simp only [Memory.wfFrom, Bool.and_eq_true, decide_eq_true_eq] at hm
    simp only [Memory.read]
    rw [if_neg (by omega)]
    exact Memory.read_below hm.2 (by omega)

theorem Memory.insert_wfFrom {lo a : Nat} {b : Byte} (hl : lo ≤ a) (ha : a < Config.xmSize) :
    ∀ {m : Memory}, Memory.wfFrom lo m = true → Memory.wfFrom lo (Memory.insert m a b) = true
  | [], _ => by
    unfold Memory.insert
    split <;> simp_all [Memory.wfFrom]
  | (k, v) :: m, hm => by
    have h := hm
    simp only [Memory.wfFrom, Bool.and_eq_true, decide_eq_true_eq] at h
    obtain ⟨⟨⟨h1, h2⟩, h3⟩, h4⟩ := h
    unfold Memory.insert
    split
    · split
      · exact hm
      · simp_all [Memory.wfFrom]
    · split
      · split
        · exact Memory.wfFrom_mono (by omega) h4
        · simp_all [Memory.wfFrom]
      · simp only [Memory.wfFrom, Bool.and_eq_true, decide_eq_true_eq]
        exact ⟨⟨⟨h1, h2⟩, h3⟩, Memory.insert_wfFrom (by omega) ha h4⟩

theorem Memory.read_insert {lo a : Nat} {b : Byte} (x : Nat) :
    ∀ {m : Memory}, Memory.wfFrom lo m = true → Memory.read (Memory.insert m a b) x = if x = a then b else Memory.read m x
  | [], _ => by
    unfold Memory.insert
    split
    · next h => simp [Memory.read, h]
    · simp only [Memory.read]
      by_cases h : a = x <;> simp [h, eq_comm]
  | (k, v) :: m, hm => by
    have h := hm
    simp only [Memory.wfFrom, Bool.and_eq_true, decide_eq_true_eq] at h
    obtain ⟨⟨⟨h1, h2⟩, h3⟩, h4⟩ := h
    unfold Memory.insert
    split
    · next hak =>
      have hz : Memory.read ((k, v) :: m) a = 0 := by
        simp only [Memory.read]
        rw [if_neg (by omega)]
        exact Memory.read_below h4 (by omega)
      split
      · next hb =>
        by_cases hx : x = a
        · rw [if_pos hx, hx, hz, hb]
        · rw [if_neg hx]
      · by_cases hx : x = a
        · simp [Memory.read, hx]
        · rw [if_neg hx, Memory.read, if_neg (Ne.symm hx)]
    · split
      · next hak =>
        subst hak
        split
        · next hb =>
          by_cases hx : x = a
          · rw [if_pos hx, hx, hb]
            exact Memory.read_below h4 (by omega)
          · rw [if_neg hx, Memory.read, if_neg (Ne.symm hx)]
        · by_cases hx : x = a
          · simp [Memory.read, hx]
          · rw [if_neg hx, Memory.read, if_neg (Ne.symm hx), Memory.read, if_neg (Ne.symm hx)]
      · next hne1 hne2 =>
        simp only [Memory.read]
        by_cases hk : k = x
        · rw [if_pos hk, if_pos hk, if_neg (by omega)]
        · rw [if_neg hk, if_neg hk]
          exact Memory.read_insert x h4

/-- A write keeps the canonical form. -/
theorem Memory.write_wf {m : Memory} (a : Nat) (b : Byte) (h : m.wf = true) : (m.write a b).wf = true := by
  unfold Memory.write
  split
  · next ha => exact Memory.insert_wfFrom (Nat.zero_le a) ha h
  · exact h

/-- What a write shows: the byte written, inside the memory, and every other byte as before. -/
theorem Memory.read_write {m : Memory} (a : Nat) (b : Byte) (h : m.wf = true) (x : Nat) :
    (m.write a b).read x = if x = a ∧ a < Config.xmSize then b else m.read x := by
  unfold Memory.write
  split
  · next ha => rw [Memory.read_insert x h]; simp [ha]
  · next ha => simp [ha]

/-- A write of several bytes keeps the canonical form. -/
theorem Memory.writeBytes_wf : ∀ (bs : List Byte) (a : Nat) {m : Memory}, m.wf = true → (m.writeBytes a bs).wf = true
  | [], _, _, h => h
  | b :: bs, a, _, h => Memory.writeBytes_wf bs (a + 1) (Memory.write_wf a b h)

/-- A byte outside a write of several bytes is as before. -/
theorem Memory.read_writeBytes_outside : ∀ (bs : List Byte) (a : Nat) {m : Memory}, m.wf = true →
    ∀ x, (x < a ∨ a + bs.length ≤ x) → (m.writeBytes a bs).read x = m.read x
  | [], _, _, _, _, _ => rfl
  | b :: bs, a, m, h, x, hx => by
    simp only [List.length_cons] at hx
    rw [Memory.writeBytes, Memory.read_writeBytes_outside bs (a + 1) (Memory.write_wf a b h) x (by omega),
      Memory.read_write a b h, if_neg (by omega)]

/-- A byte inside a write of several bytes is the byte written there. -/
theorem Memory.read_writeBytes_inside : ∀ (bs : List Byte) (a : Nat) {m : Memory}, m.wf = true → a + bs.length ≤ Config.xmSize →
    ∀ i (hi : i < bs.length), (m.writeBytes a bs).read (a + i) = bs[i]
  | b :: bs, a, m, h, hs, 0, _ => by
    simp only [List.length_cons] at hs
    rw [Memory.writeBytes, Memory.read_writeBytes_outside bs (a + 1) (Memory.write_wf a b h) _ (by omega),
      Memory.read_write a b h]
    rw [if_pos ⟨by omega, by omega⟩]
    rfl
  | b :: bs, a, m, h, hs, i + 1, hi => by
    simp only [List.length_cons] at hs hi
    have := Memory.read_writeBytes_inside bs (a + 1) (Memory.write_wf a b h) (by omega) i (by omega)
    rw [Memory.writeBytes, show a + (i + 1) = a + 1 + i by omega, this]
    rfl

/-- A byte that nothing lists reads as 0: exchange memory after a power-on reset (R166). -/
@[simp] theorem Memory.read_nil (a : Nat) : Memory.read [] a = 0 := rfl

/-- Reading n bytes gives n bytes. -/
@[simp] theorem Memory.readBytes_length (m : Memory) : ∀ (n a : Nat), (m.readBytes a n).length = n
  | 0, _ => rfl
  | n + 1, a => by simp [Memory.readBytes, Memory.readBytes_length m n (a + 1)]

/-- Byte i of a run of bytes read. -/
theorem Memory.readBytes_getElem (m : Memory) :
    ∀ (n a i : Nat) (h : i < (m.readBytes a n).length), (m.readBytes a n)[i] = m.read (a + i)
  | n + 1, a, 0, _ => rfl
  | n + 1, a, i + 1, h => by
    have := Memory.readBytes_getElem m n (a + 1) i (by simpa [Memory.readBytes] using h)
    simp only [Memory.readBytes, List.getElem_cons_succ, this]
    congr 1
    omega

end Sys2Proof.Machine
end

