-- ==== Sys2Proof/Laws/State.lean ====
section
/-! SUPPORT. What each updater of the state leaves in each field and shows through each reader, so that no later proof unfolds a
record update. -/

namespace Sys2Proof.Machine

/-! ### updChannel -/

@[simp] theorem State.updChannel_pending (s : State) (i : Fin 6) (f : Channel → Channel) : (s.updChannel i f).pending = s.pending := rfl
@[simp] theorem State.updChannel_hold (s : State) (i : Fin 6) (f : Channel → Channel) : (s.updChannel i f).hold = s.hold := rfl
@[simp] theorem State.updChannel_resetCause (s : State) (i : Fin 6) (f : Channel → Channel) : (s.updChannel i f).resetCause = s.resetCause := rfl
@[simp] theorem State.updChannel_tick (s : State) (i : Fin 6) (f : Channel → Channel) : (s.updChannel i f).tick = s.tick := rfl
@[simp] theorem State.updChannel_lanes (s : State) (i : Fin 6) (f : Channel → Channel) : (s.updChannel i f).lanes = s.lanes := rfl
@[simp] theorem State.updChannel_slots (s : State) (i : Fin 6) (f : Channel → Channel) : (s.updChannel i f).slots = s.slots := rfl
@[simp] theorem State.updChannel_gates (s : State) (i : Fin 6) (f : Channel → Channel) : (s.updChannel i f).gates = s.gates := rfl
@[simp] theorem State.updChannel_domains (s : State) (i : Fin 6) (f : Channel → Channel) : (s.updChannel i f).domains = s.domains := rfl
@[simp] theorem State.updChannel_permit (s : State) (i : Fin 6) (f : Channel → Channel) : (s.updChannel i f).permit = s.permit := rfl
@[simp] theorem State.updChannel_lastSample (s : State) (i : Fin 6) (f : Channel → Channel) : (s.updChannel i f).lastSample = s.lastSample := rfl
@[simp] theorem State.updChannel_senseInputs (s : State) (i : Fin 6) (f : Channel → Channel) : (s.updChannel i f).senseInputs = s.senseInputs := rfl
@[simp] theorem State.updChannel_tripsDue (s : State) (i : Fin 6) (f : Channel → Channel) : (s.updChannel i f).tripsDue = s.tripsDue := rfl
@[simp] theorem State.updChannel_streams (s : State) (i : Fin 6) (f : Channel → Channel) : (s.updChannel i f).streams = s.streams := rfl
@[simp] theorem State.updChannel_engine (s : State) (i : Fin 6) (f : Channel → Channel) : (s.updChannel i f).engine = s.engine := rfl
@[simp] theorem State.updChannel_configError (s : State) (i : Fin 6) (f : Channel → Channel) : (s.updChannel i f).configError = s.configError := rfl
@[simp] theorem State.updChannel_configRead (s : State) (i : Fin 6) (f : Channel → Channel) : (s.updChannel i f).configRead = s.configRead := rfl
@[simp] theorem State.updChannel_sqs (s : State) (i : Fin 6) (f : Channel → Channel) : (s.updChannel i f).sqs = s.sqs := rfl
@[simp] theorem State.updChannel_fetch (s : State) (i : Fin 6) (f : Channel → Channel) : (s.updChannel i f).fetch = s.fetch := rfl
@[simp] theorem State.updChannel_urgentPointer (s : State) (i : Fin 6) (f : Channel → Channel) : (s.updChannel i f).urgentPointer = s.urgentPointer := rfl
@[simp] theorem State.updChannel_normalPointer (s : State) (i : Fin 6) (f : Channel → Channel) : (s.updChannel i f).normalPointer = s.normalPointer := rfl
@[simp] theorem State.updChannel_burstCredit (s : State) (i : Fin 6) (f : Channel → Channel) : (s.updChannel i f).burstCredit = s.burstCredit := rfl
@[simp] theorem State.updChannel_postError (s : State) (i : Fin 6) (f : Channel → Channel) : (s.updChannel i f).postError = s.postError := rfl
@[simp] theorem State.updChannel_releaseError (s : State) (i : Fin 6) (f : Channel → Channel) : (s.updChannel i f).releaseError = s.releaseError := rfl
@[simp] theorem State.updChannel_cqs (s : State) (i : Fin 6) (f : Channel → Channel) : (s.updChannel i f).cqs = s.cqs := rfl
@[simp] theorem State.updChannel_eventCq (s : State) (i : Fin 6) (f : Channel → Channel) : (s.updChannel i f).eventCq = s.eventCq := rfl
@[simp] theorem State.updChannel_pendingList (s : State) (i : Fin 6) (f : Channel → Channel) : (s.updChannel i f).pendingList = s.pendingList := rfl
@[simp] theorem State.updChannel_lanePointer (s : State) (i : Fin 6) (f : Channel → Channel) : (s.updChannel i f).lanePointer = s.lanePointer := rfl
@[simp] theorem State.updChannel_cqTurn (s : State) (i : Fin 6) (f : Channel → Channel) : (s.updChannel i f).cqTurn = s.cqTurn := rfl
@[simp] theorem State.updChannel_events (s : State) (i : Fin 6) (f : Channel → Channel) : (s.updChannel i f).events = s.events := rfl
@[simp] theorem State.updChannel_cause (s : State) (i : Fin 6) (f : Channel → Channel) : (s.updChannel i f).cause = s.cause := rfl
@[simp] theorem State.updChannel_enables (s : State) (i : Fin 6) (f : Channel → Channel) : (s.updChannel i f).enables = s.enables := rfl
@[simp] theorem State.updChannel_linkErrors (s : State) (i : Fin 6) (f : Channel → Channel) : (s.updChannel i f).linkErrors = s.linkErrors := rfl
@[simp] theorem State.updChannel_linkQueue (s : State) (i : Fin 6) (f : Channel → Channel) : (s.updChannel i f).linkQueue = s.linkQueue := rfl
@[simp] theorem State.updChannel_openRead (s : State) (i : Fin 6) (f : Channel → Channel) : (s.updChannel i f).openRead = s.openRead := rfl
@[simp] theorem State.updChannel_miso (s : State) (i : Fin 6) (f : Channel → Channel) : (s.updChannel i f).miso = s.miso := rfl
@[simp] theorem State.updChannel_misoBits (s : State) (i : Fin 6) (f : Channel → Channel) : (s.updChannel i f).misoBits = s.misoBits := rfl
@[simp] theorem State.updChannel_awaitCsnRise (s : State) (i : Fin 6) (f : Channel → Channel) : (s.updChannel i f).awaitCsnRise = s.awaitCsnRise := rfl
@[simp] theorem State.updChannel_xm (s : State) (i : Fin 6) (f : Channel → Channel) : (s.updChannel i f).xm = s.xm := rfl
@[simp] theorem State.updChannel_rotation (s : State) (i : Fin 6) (f : Channel → Channel) : (s.updChannel i f).rotation = s.rotation := rfl
@[simp] theorem State.updChannel_lane (s : State) (i : Fin 6) (f : Channel → Channel) (l' : Fin 4) :
    (s.updChannel i f).lane l' = s.lane l' := rfl
@[simp] theorem State.updChannel_slot (s : State) (i : Fin 6) (f : Channel → Channel) (n' : Fin 16) :
    (s.updChannel i f).slot n' = s.slot n' := rfl
@[simp] theorem State.updChannel_gate (s : State) (i : Fin 6) (f : Channel → Channel) (g' : Fin 4) :
    (s.updChannel i f).gate g' = s.gate g' := rfl
@[simp] theorem State.updChannel_domain (s : State) (i : Fin 6) (f : Channel → Channel) (d' : Fin 3) :
    (s.updChannel i f).domain d' = s.domain d' := rfl
@[simp] theorem State.updChannel_senseInput (s : State) (i : Fin 6) (f : Channel → Channel) (i' : Fin 4) :
    (s.updChannel i f).senseInput i' = s.senseInput i' := rfl
@[simp] theorem State.updChannel_stream (s : State) (i : Fin 6) (f : Channel → Channel) (n' : Fin 2) :
    (s.updChannel i f).stream n' = s.stream n' := rfl
@[simp] theorem State.updChannel_sq (s : State) (i : Fin 6) (f : Channel → Channel) (q' : Fin 4) :
    (s.updChannel i f).sq q' = s.sq q' := rfl
@[simp] theorem State.updChannel_cq (s : State) (i : Fin 6) (f : Channel → Channel) (q' : Fin 2) :
    (s.updChannel i f).cq q' = s.cq q' := rfl
@[simp] theorem State.updChannel_event (s : State) (i : Fin 6) (f : Channel → Channel) (e' : Fin 12) :
    (s.updChannel i f).event e' = s.event e' := rfl
@[simp] theorem State.updChannel_inReset (s : State) (i : Fin 6) (f : Channel → Channel) : (s.updChannel i f).inReset = s.inReset := rfl
theorem State.updChannel_channel (s : State) (i : Fin 6) (f : Channel → Channel) (j : Fin 6) :
    (s.updChannel i f).channel j = if j = i then f (s.channel i) else s.channel j := by
  simp only [State.updChannel, State.channel, Fin.getElem_fin, Vector.getElem_set]
  by_cases h : i.val = j.val
  · simp [Fin.ext h]
  · simp [h, Fin.ext_iff, Ne.symm h]
@[simp] theorem State.updChannel_channel_self (s : State) (i : Fin 6) (f : Channel → Channel) :
    (s.updChannel i f).channel i = f (s.channel i) := by simp [State.updChannel_channel]
@[simp] theorem State.updChannel_channel_ne (s : State) (i : Fin 6) (f : Channel → Channel) (j : Fin 6) (h : j ≠ i) :
    (s.updChannel i f).channel j = s.channel j := by simp [State.updChannel_channel, h]

/-! ### mapChannels -/

@[simp] theorem State.mapChannels_pending (s : State) (f : Fin 6 → Channel → Channel) : (s.mapChannels f).pending = s.pending := rfl
@[simp] theorem State.mapChannels_hold (s : State) (f : Fin 6 → Channel → Channel) : (s.mapChannels f).hold = s.hold := rfl
@[simp] theorem State.mapChannels_resetCause (s : State) (f : Fin 6 → Channel → Channel) : (s.mapChannels f).resetCause = s.resetCause := rfl
@[simp] theorem State.mapChannels_tick (s : State) (f : Fin 6 → Channel → Channel) : (s.mapChannels f).tick = s.tick := rfl
@[simp] theorem State.mapChannels_lanes (s : State) (f : Fin 6 → Channel → Channel) : (s.mapChannels f).lanes = s.lanes := rfl
@[simp] theorem State.mapChannels_slots (s : State) (f : Fin 6 → Channel → Channel) : (s.mapChannels f).slots = s.slots := rfl
@[simp] theorem State.mapChannels_gates (s : State) (f : Fin 6 → Channel → Channel) : (s.mapChannels f).gates = s.gates := rfl
@[simp] theorem State.mapChannels_domains (s : State) (f : Fin 6 → Channel → Channel) : (s.mapChannels f).domains = s.domains := rfl
@[simp] theorem State.mapChannels_permit (s : State) (f : Fin 6 → Channel → Channel) : (s.mapChannels f).permit = s.permit := rfl
@[simp] theorem State.mapChannels_lastSample (s : State) (f : Fin 6 → Channel → Channel) : (s.mapChannels f).lastSample = s.lastSample := rfl
@[simp] theorem State.mapChannels_senseInputs (s : State) (f : Fin 6 → Channel → Channel) : (s.mapChannels f).senseInputs = s.senseInputs := rfl
@[simp] theorem State.mapChannels_tripsDue (s : State) (f : Fin 6 → Channel → Channel) : (s.mapChannels f).tripsDue = s.tripsDue := rfl
@[simp] theorem State.mapChannels_streams (s : State) (f : Fin 6 → Channel → Channel) : (s.mapChannels f).streams = s.streams := rfl
@[simp] theorem State.mapChannels_engine (s : State) (f : Fin 6 → Channel → Channel) : (s.mapChannels f).engine = s.engine := rfl
@[simp] theorem State.mapChannels_configError (s : State) (f : Fin 6 → Channel → Channel) : (s.mapChannels f).configError = s.configError := rfl
@[simp] theorem State.mapChannels_configRead (s : State) (f : Fin 6 → Channel → Channel) : (s.mapChannels f).configRead = s.configRead := rfl
@[simp] theorem State.mapChannels_sqs (s : State) (f : Fin 6 → Channel → Channel) : (s.mapChannels f).sqs = s.sqs := rfl
@[simp] theorem State.mapChannels_fetch (s : State) (f : Fin 6 → Channel → Channel) : (s.mapChannels f).fetch = s.fetch := rfl
@[simp] theorem State.mapChannels_urgentPointer (s : State) (f : Fin 6 → Channel → Channel) : (s.mapChannels f).urgentPointer = s.urgentPointer := rfl
@[simp] theorem State.mapChannels_normalPointer (s : State) (f : Fin 6 → Channel → Channel) : (s.mapChannels f).normalPointer = s.normalPointer := rfl
@[simp] theorem State.mapChannels_burstCredit (s : State) (f : Fin 6 → Channel → Channel) : (s.mapChannels f).burstCredit = s.burstCredit := rfl
@[simp] theorem State.mapChannels_postError (s : State) (f : Fin 6 → Channel → Channel) : (s.mapChannels f).postError = s.postError := rfl
@[simp] theorem State.mapChannels_releaseError (s : State) (f : Fin 6 → Channel → Channel) : (s.mapChannels f).releaseError = s.releaseError := rfl
@[simp] theorem State.mapChannels_cqs (s : State) (f : Fin 6 → Channel → Channel) : (s.mapChannels f).cqs = s.cqs := rfl
@[simp] theorem State.mapChannels_eventCq (s : State) (f : Fin 6 → Channel → Channel) : (s.mapChannels f).eventCq = s.eventCq := rfl
@[simp] theorem State.mapChannels_pendingList (s : State) (f : Fin 6 → Channel → Channel) : (s.mapChannels f).pendingList = s.pendingList := rfl
@[simp] theorem State.mapChannels_lanePointer (s : State) (f : Fin 6 → Channel → Channel) : (s.mapChannels f).lanePointer = s.lanePointer := rfl
@[simp] theorem State.mapChannels_cqTurn (s : State) (f : Fin 6 → Channel → Channel) : (s.mapChannels f).cqTurn = s.cqTurn := rfl
@[simp] theorem State.mapChannels_events (s : State) (f : Fin 6 → Channel → Channel) : (s.mapChannels f).events = s.events := rfl
@[simp] theorem State.mapChannels_cause (s : State) (f : Fin 6 → Channel → Channel) : (s.mapChannels f).cause = s.cause := rfl
@[simp] theorem State.mapChannels_enables (s : State) (f : Fin 6 → Channel → Channel) : (s.mapChannels f).enables = s.enables := rfl
@[simp] theorem State.mapChannels_linkErrors (s : State) (f : Fin 6 → Channel → Channel) : (s.mapChannels f).linkErrors = s.linkErrors := rfl
@[simp] theorem State.mapChannels_linkQueue (s : State) (f : Fin 6 → Channel → Channel) : (s.mapChannels f).linkQueue = s.linkQueue := rfl
@[simp] theorem State.mapChannels_openRead (s : State) (f : Fin 6 → Channel → Channel) : (s.mapChannels f).openRead = s.openRead := rfl
@[simp] theorem State.mapChannels_miso (s : State) (f : Fin 6 → Channel → Channel) : (s.mapChannels f).miso = s.miso := rfl
@[simp] theorem State.mapChannels_misoBits (s : State) (f : Fin 6 → Channel → Channel) : (s.mapChannels f).misoBits = s.misoBits := rfl
@[simp] theorem State.mapChannels_awaitCsnRise (s : State) (f : Fin 6 → Channel → Channel) : (s.mapChannels f).awaitCsnRise = s.awaitCsnRise := rfl
@[simp] theorem State.mapChannels_xm (s : State) (f : Fin 6 → Channel → Channel) : (s.mapChannels f).xm = s.xm := rfl
@[simp] theorem State.mapChannels_rotation (s : State) (f : Fin 6 → Channel → Channel) : (s.mapChannels f).rotation = s.rotation := rfl
@[simp] theorem State.mapChannels_lane (s : State) (f : Fin 6 → Channel → Channel) (l' : Fin 4) :
    (s.mapChannels f).lane l' = s.lane l' := rfl
@[simp] theorem State.mapChannels_slot (s : State) (f : Fin 6 → Channel → Channel) (n' : Fin 16) :
    (s.mapChannels f).slot n' = s.slot n' := rfl
@[simp] theorem State.mapChannels_gate (s : State) (f : Fin 6 → Channel → Channel) (g' : Fin 4) :
    (s.mapChannels f).gate g' = s.gate g' := rfl
@[simp] theorem State.mapChannels_domain (s : State) (f : Fin 6 → Channel → Channel) (d' : Fin 3) :
    (s.mapChannels f).domain d' = s.domain d' := rfl
@[simp] theorem State.mapChannels_senseInput (s : State) (f : Fin 6 → Channel → Channel) (i' : Fin 4) :
    (s.mapChannels f).senseInput i' = s.senseInput i' := rfl
@[simp] theorem State.mapChannels_stream (s : State) (f : Fin 6 → Channel → Channel) (n' : Fin 2) :
    (s.mapChannels f).stream n' = s.stream n' := rfl
@[simp] theorem State.mapChannels_sq (s : State) (f : Fin 6 → Channel → Channel) (q' : Fin 4) :
    (s.mapChannels f).sq q' = s.sq q' := rfl
@[simp] theorem State.mapChannels_cq (s : State) (f : Fin 6 → Channel → Channel) (q' : Fin 2) :
    (s.mapChannels f).cq q' = s.cq q' := rfl
@[simp] theorem State.mapChannels_event (s : State) (f : Fin 6 → Channel → Channel) (e' : Fin 12) :
    (s.mapChannels f).event e' = s.event e' := rfl
@[simp] theorem State.mapChannels_inReset (s : State) (f : Fin 6 → Channel → Channel) : (s.mapChannels f).inReset = s.inReset := rfl
@[simp] theorem State.mapChannels_channel (s : State) (f : Fin 6 → Channel → Channel) (j : Fin 6) :
    (s.mapChannels f).channel j = f j (s.channel j) := by
  match j with
  | ⟨0, _⟩ => rfl
  | ⟨1, _⟩ => rfl
  | ⟨2, _⟩ => rfl
  | ⟨3, _⟩ => rfl
  | ⟨4, _⟩ => rfl
  | ⟨5, _⟩ => rfl

/-! ### updLane -/

@[simp] theorem State.updLane_pending (s : State) (i : Fin 4) (f : Lane → Lane) : (s.updLane i f).pending = s.pending := rfl
@[simp] theorem State.updLane_hold (s : State) (i : Fin 4) (f : Lane → Lane) : (s.updLane i f).hold = s.hold := rfl
@[simp] theorem State.updLane_resetCause (s : State) (i : Fin 4) (f : Lane → Lane) : (s.updLane i f).resetCause = s.resetCause := rfl
@[simp] theorem State.updLane_tick (s : State) (i : Fin 4) (f : Lane → Lane) : (s.updLane i f).tick = s.tick := rfl
@[simp] theorem State.updLane_channels (s : State) (i : Fin 4) (f : Lane → Lane) : (s.updLane i f).channels = s.channels := rfl
@[simp] theorem State.updLane_slots (s : State) (i : Fin 4) (f : Lane → Lane) : (s.updLane i f).slots = s.slots := rfl
@[simp] theorem State.updLane_gates (s : State) (i : Fin 4) (f : Lane → Lane) : (s.updLane i f).gates = s.gates := rfl
@[simp] theorem State.updLane_domains (s : State) (i : Fin 4) (f : Lane → Lane) : (s.updLane i f).domains = s.domains := rfl
@[simp] theorem State.updLane_permit (s : State) (i : Fin 4) (f : Lane → Lane) : (s.updLane i f).permit = s.permit := rfl
@[simp] theorem State.updLane_lastSample (s : State) (i : Fin 4) (f : Lane → Lane) : (s.updLane i f).lastSample = s.lastSample := rfl
@[simp] theorem State.updLane_senseInputs (s : State) (i : Fin 4) (f : Lane → Lane) : (s.updLane i f).senseInputs = s.senseInputs := rfl
@[simp] theorem State.updLane_tripsDue (s : State) (i : Fin 4) (f : Lane → Lane) : (s.updLane i f).tripsDue = s.tripsDue := rfl
@[simp] theorem State.updLane_streams (s : State) (i : Fin 4) (f : Lane → Lane) : (s.updLane i f).streams = s.streams := rfl
@[simp] theorem State.updLane_engine (s : State) (i : Fin 4) (f : Lane → Lane) : (s.updLane i f).engine = s.engine := rfl
@[simp] theorem State.updLane_configError (s : State) (i : Fin 4) (f : Lane → Lane) : (s.updLane i f).configError = s.configError := rfl
@[simp] theorem State.updLane_configRead (s : State) (i : Fin 4) (f : Lane → Lane) : (s.updLane i f).configRead = s.configRead := rfl
@[simp] theorem State.updLane_sqs (s : State) (i : Fin 4) (f : Lane → Lane) : (s.updLane i f).sqs = s.sqs := rfl
@[simp] theorem State.updLane_fetch (s : State) (i : Fin 4) (f : Lane → Lane) : (s.updLane i f).fetch = s.fetch := rfl
@[simp] theorem State.updLane_urgentPointer (s : State) (i : Fin 4) (f : Lane → Lane) : (s.updLane i f).urgentPointer = s.urgentPointer := rfl
@[simp] theorem State.updLane_normalPointer (s : State) (i : Fin 4) (f : Lane → Lane) : (s.updLane i f).normalPointer = s.normalPointer := rfl
@[simp] theorem State.updLane_burstCredit (s : State) (i : Fin 4) (f : Lane → Lane) : (s.updLane i f).burstCredit = s.burstCredit := rfl
@[simp] theorem State.updLane_postError (s : State) (i : Fin 4) (f : Lane → Lane) : (s.updLane i f).postError = s.postError := rfl
@[simp] theorem State.updLane_releaseError (s : State) (i : Fin 4) (f : Lane → Lane) : (s.updLane i f).releaseError = s.releaseError := rfl
@[simp] theorem State.updLane_cqs (s : State) (i : Fin 4) (f : Lane → Lane) : (s.updLane i f).cqs = s.cqs := rfl
@[simp] theorem State.updLane_eventCq (s : State) (i : Fin 4) (f : Lane → Lane) : (s.updLane i f).eventCq = s.eventCq := rfl
@[simp] theorem State.updLane_pendingList (s : State) (i : Fin 4) (f : Lane → Lane) : (s.updLane i f).pendingList = s.pendingList := rfl
@[simp] theorem State.updLane_lanePointer (s : State) (i : Fin 4) (f : Lane → Lane) : (s.updLane i f).lanePointer = s.lanePointer := rfl
@[simp] theorem State.updLane_cqTurn (s : State) (i : Fin 4) (f : Lane → Lane) : (s.updLane i f).cqTurn = s.cqTurn := rfl
@[simp] theorem State.updLane_events (s : State) (i : Fin 4) (f : Lane → Lane) : (s.updLane i f).events = s.events := rfl
@[simp] theorem State.updLane_cause (s : State) (i : Fin 4) (f : Lane → Lane) : (s.updLane i f).cause = s.cause := rfl
@[simp] theorem State.updLane_enables (s : State) (i : Fin 4) (f : Lane → Lane) : (s.updLane i f).enables = s.enables := rfl
@[simp] theorem State.updLane_linkErrors (s : State) (i : Fin 4) (f : Lane → Lane) : (s.updLane i f).linkErrors = s.linkErrors := rfl
@[simp] theorem State.updLane_linkQueue (s : State) (i : Fin 4) (f : Lane → Lane) : (s.updLane i f).linkQueue = s.linkQueue := rfl
@[simp] theorem State.updLane_openRead (s : State) (i : Fin 4) (f : Lane → Lane) : (s.updLane i f).openRead = s.openRead := rfl
@[simp] theorem State.updLane_miso (s : State) (i : Fin 4) (f : Lane → Lane) : (s.updLane i f).miso = s.miso := rfl
@[simp] theorem State.updLane_misoBits (s : State) (i : Fin 4) (f : Lane → Lane) : (s.updLane i f).misoBits = s.misoBits := rfl
@[simp] theorem State.updLane_awaitCsnRise (s : State) (i : Fin 4) (f : Lane → Lane) : (s.updLane i f).awaitCsnRise = s.awaitCsnRise := rfl
@[simp] theorem State.updLane_xm (s : State) (i : Fin 4) (f : Lane → Lane) : (s.updLane i f).xm = s.xm := rfl
@[simp] theorem State.updLane_rotation (s : State) (i : Fin 4) (f : Lane → Lane) : (s.updLane i f).rotation = s.rotation := rfl
@[simp] theorem State.updLane_channel (s : State) (i : Fin 4) (f : Lane → Lane) (c' : Fin 6) :
    (s.updLane i f).channel c' = s.channel c' := rfl
@[simp] theorem State.updLane_slot (s : State) (i : Fin 4) (f : Lane → Lane) (n' : Fin 16) :
    (s.updLane i f).slot n' = s.slot n' := rfl
@[simp] theorem State.updLane_gate (s : State) (i : Fin 4) (f : Lane → Lane) (g' : Fin 4) :
    (s.updLane i f).gate g' = s.gate g' := rfl
@[simp] theorem State.updLane_domain (s : State) (i : Fin 4) (f : Lane → Lane) (d' : Fin 3) :
    (s.updLane i f).domain d' = s.domain d' := rfl
@[simp] theorem State.updLane_senseInput (s : State) (i : Fin 4) (f : Lane → Lane) (i' : Fin 4) :
    (s.updLane i f).senseInput i' = s.senseInput i' := rfl
@[simp] theorem State.updLane_stream (s : State) (i : Fin 4) (f : Lane → Lane) (n' : Fin 2) :
    (s.updLane i f).stream n' = s.stream n' := rfl
@[simp] theorem State.updLane_sq (s : State) (i : Fin 4) (f : Lane → Lane) (q' : Fin 4) :
    (s.updLane i f).sq q' = s.sq q' := rfl
@[simp] theorem State.updLane_cq (s : State) (i : Fin 4) (f : Lane → Lane) (q' : Fin 2) :
    (s.updLane i f).cq q' = s.cq q' := rfl
@[simp] theorem State.updLane_event (s : State) (i : Fin 4) (f : Lane → Lane) (e' : Fin 12) :
    (s.updLane i f).event e' = s.event e' := rfl
@[simp] theorem State.updLane_inReset (s : State) (i : Fin 4) (f : Lane → Lane) : (s.updLane i f).inReset = s.inReset := rfl
theorem State.updLane_lane (s : State) (i : Fin 4) (f : Lane → Lane) (j : Fin 4) :
    (s.updLane i f).lane j = if j = i then f (s.lane i) else s.lane j := by
  simp only [State.updLane, State.lane, Fin.getElem_fin, Vector.getElem_set]
  by_cases h : i.val = j.val
  · simp [Fin.ext h]
  · simp [h, Fin.ext_iff, Ne.symm h]
@[simp] theorem State.updLane_lane_self (s : State) (i : Fin 4) (f : Lane → Lane) :
    (s.updLane i f).lane i = f (s.lane i) := by simp [State.updLane_lane]
@[simp] theorem State.updLane_lane_ne (s : State) (i : Fin 4) (f : Lane → Lane) (j : Fin 4) (h : j ≠ i) :
    (s.updLane i f).lane j = s.lane j := by simp [State.updLane_lane, h]

/-! ### mapLanes -/

@[simp] theorem State.mapLanes_pending (s : State) (f : Fin 4 → Lane → Lane) : (s.mapLanes f).pending = s.pending := rfl
@[simp] theorem State.mapLanes_hold (s : State) (f : Fin 4 → Lane → Lane) : (s.mapLanes f).hold = s.hold := rfl
@[simp] theorem State.mapLanes_resetCause (s : State) (f : Fin 4 → Lane → Lane) : (s.mapLanes f).resetCause = s.resetCause := rfl
@[simp] theorem State.mapLanes_tick (s : State) (f : Fin 4 → Lane → Lane) : (s.mapLanes f).tick = s.tick := rfl
@[simp] theorem State.mapLanes_channels (s : State) (f : Fin 4 → Lane → Lane) : (s.mapLanes f).channels = s.channels := rfl
@[simp] theorem State.mapLanes_slots (s : State) (f : Fin 4 → Lane → Lane) : (s.mapLanes f).slots = s.slots := rfl
@[simp] theorem State.mapLanes_gates (s : State) (f : Fin 4 → Lane → Lane) : (s.mapLanes f).gates = s.gates := rfl
@[simp] theorem State.mapLanes_domains (s : State) (f : Fin 4 → Lane → Lane) : (s.mapLanes f).domains = s.domains := rfl
@[simp] theorem State.mapLanes_permit (s : State) (f : Fin 4 → Lane → Lane) : (s.mapLanes f).permit = s.permit := rfl
@[simp] theorem State.mapLanes_lastSample (s : State) (f : Fin 4 → Lane → Lane) : (s.mapLanes f).lastSample = s.lastSample := rfl
@[simp] theorem State.mapLanes_senseInputs (s : State) (f : Fin 4 → Lane → Lane) : (s.mapLanes f).senseInputs = s.senseInputs := rfl
@[simp] theorem State.mapLanes_tripsDue (s : State) (f : Fin 4 → Lane → Lane) : (s.mapLanes f).tripsDue = s.tripsDue := rfl
@[simp] theorem State.mapLanes_streams (s : State) (f : Fin 4 → Lane → Lane) : (s.mapLanes f).streams = s.streams := rfl
@[simp] theorem State.mapLanes_engine (s : State) (f : Fin 4 → Lane → Lane) : (s.mapLanes f).engine = s.engine := rfl
@[simp] theorem State.mapLanes_configError (s : State) (f : Fin 4 → Lane → Lane) : (s.mapLanes f).configError = s.configError := rfl
@[simp] theorem State.mapLanes_configRead (s : State) (f : Fin 4 → Lane → Lane) : (s.mapLanes f).configRead = s.configRead := rfl
@[simp] theorem State.mapLanes_sqs (s : State) (f : Fin 4 → Lane → Lane) : (s.mapLanes f).sqs = s.sqs := rfl
@[simp] theorem State.mapLanes_fetch (s : State) (f : Fin 4 → Lane → Lane) : (s.mapLanes f).fetch = s.fetch := rfl
@[simp] theorem State.mapLanes_urgentPointer (s : State) (f : Fin 4 → Lane → Lane) : (s.mapLanes f).urgentPointer = s.urgentPointer := rfl
@[simp] theorem State.mapLanes_normalPointer (s : State) (f : Fin 4 → Lane → Lane) : (s.mapLanes f).normalPointer = s.normalPointer := rfl
@[simp] theorem State.mapLanes_burstCredit (s : State) (f : Fin 4 → Lane → Lane) : (s.mapLanes f).burstCredit = s.burstCredit := rfl
@[simp] theorem State.mapLanes_postError (s : State) (f : Fin 4 → Lane → Lane) : (s.mapLanes f).postError = s.postError := rfl
@[simp] theorem State.mapLanes_releaseError (s : State) (f : Fin 4 → Lane → Lane) : (s.mapLanes f).releaseError = s.releaseError := rfl
@[simp] theorem State.mapLanes_cqs (s : State) (f : Fin 4 → Lane → Lane) : (s.mapLanes f).cqs = s.cqs := rfl
@[simp] theorem State.mapLanes_eventCq (s : State) (f : Fin 4 → Lane → Lane) : (s.mapLanes f).eventCq = s.eventCq := rfl
@[simp] theorem State.mapLanes_pendingList (s : State) (f : Fin 4 → Lane → Lane) : (s.mapLanes f).pendingList = s.pendingList := rfl
@[simp] theorem State.mapLanes_lanePointer (s : State) (f : Fin 4 → Lane → Lane) : (s.mapLanes f).lanePointer = s.lanePointer := rfl
@[simp] theorem State.mapLanes_cqTurn (s : State) (f : Fin 4 → Lane → Lane) : (s.mapLanes f).cqTurn = s.cqTurn := rfl
@[simp] theorem State.mapLanes_events (s : State) (f : Fin 4 → Lane → Lane) : (s.mapLanes f).events = s.events := rfl
@[simp] theorem State.mapLanes_cause (s : State) (f : Fin 4 → Lane → Lane) : (s.mapLanes f).cause = s.cause := rfl
@[simp] theorem State.mapLanes_enables (s : State) (f : Fin 4 → Lane → Lane) : (s.mapLanes f).enables = s.enables := rfl
@[simp] theorem State.mapLanes_linkErrors (s : State) (f : Fin 4 → Lane → Lane) : (s.mapLanes f).linkErrors = s.linkErrors := rfl
@[simp] theorem State.mapLanes_linkQueue (s : State) (f : Fin 4 → Lane → Lane) : (s.mapLanes f).linkQueue = s.linkQueue := rfl
@[simp] theorem State.mapLanes_openRead (s : State) (f : Fin 4 → Lane → Lane) : (s.mapLanes f).openRead = s.openRead := rfl
@[simp] theorem State.mapLanes_miso (s : State) (f : Fin 4 → Lane → Lane) : (s.mapLanes f).miso = s.miso := rfl
@[simp] theorem State.mapLanes_misoBits (s : State) (f : Fin 4 → Lane → Lane) : (s.mapLanes f).misoBits = s.misoBits := rfl
@[simp] theorem State.mapLanes_awaitCsnRise (s : State) (f : Fin 4 → Lane → Lane) : (s.mapLanes f).awaitCsnRise = s.awaitCsnRise := rfl
@[simp] theorem State.mapLanes_xm (s : State) (f : Fin 4 → Lane → Lane) : (s.mapLanes f).xm = s.xm := rfl
@[simp] theorem State.mapLanes_rotation (s : State) (f : Fin 4 → Lane → Lane) : (s.mapLanes f).rotation = s.rotation := rfl
@[simp] theorem State.mapLanes_channel (s : State) (f : Fin 4 → Lane → Lane) (c' : Fin 6) :
    (s.mapLanes f).channel c' = s.channel c' := rfl
@[simp] theorem State.mapLanes_slot (s : State) (f : Fin 4 → Lane → Lane) (n' : Fin 16) :
    (s.mapLanes f).slot n' = s.slot n' := rfl
@[simp] theorem State.mapLanes_gate (s : State) (f : Fin 4 → Lane → Lane) (g' : Fin 4) :
    (s.mapLanes f).gate g' = s.gate g' := rfl
@[simp] theorem State.mapLanes_domain (s : State) (f : Fin 4 → Lane → Lane) (d' : Fin 3) :
    (s.mapLanes f).domain d' = s.domain d' := rfl
@[simp] theorem State.mapLanes_senseInput (s : State) (f : Fin 4 → Lane → Lane) (i' : Fin 4) :
    (s.mapLanes f).senseInput i' = s.senseInput i' := rfl
@[simp] theorem State.mapLanes_stream (s : State) (f : Fin 4 → Lane → Lane) (n' : Fin 2) :
    (s.mapLanes f).stream n' = s.stream n' := rfl
@[simp] theorem State.mapLanes_sq (s : State) (f : Fin 4 → Lane → Lane) (q' : Fin 4) :
    (s.mapLanes f).sq q' = s.sq q' := rfl
@[simp] theorem State.mapLanes_cq (s : State) (f : Fin 4 → Lane → Lane) (q' : Fin 2) :
    (s.mapLanes f).cq q' = s.cq q' := rfl
@[simp] theorem State.mapLanes_event (s : State) (f : Fin 4 → Lane → Lane) (e' : Fin 12) :
    (s.mapLanes f).event e' = s.event e' := rfl
@[simp] theorem State.mapLanes_inReset (s : State) (f : Fin 4 → Lane → Lane) : (s.mapLanes f).inReset = s.inReset := rfl
@[simp] theorem State.mapLanes_lane (s : State) (f : Fin 4 → Lane → Lane) (j : Fin 4) :
    (s.mapLanes f).lane j = f j (s.lane j) := by
  match j with
  | ⟨0, _⟩ => rfl
  | ⟨1, _⟩ => rfl
  | ⟨2, _⟩ => rfl
  | ⟨3, _⟩ => rfl

/-! ### updSlot -/

@[simp] theorem State.updSlot_pending (s : State) (i : Fin 16) (f : Slot → Slot) : (s.updSlot i f).pending = s.pending := rfl
@[simp] theorem State.updSlot_hold (s : State) (i : Fin 16) (f : Slot → Slot) : (s.updSlot i f).hold = s.hold := rfl
@[simp] theorem State.updSlot_resetCause (s : State) (i : Fin 16) (f : Slot → Slot) : (s.updSlot i f).resetCause = s.resetCause := rfl
@[simp] theorem State.updSlot_tick (s : State) (i : Fin 16) (f : Slot → Slot) : (s.updSlot i f).tick = s.tick := rfl
@[simp] theorem State.updSlot_channels (s : State) (i : Fin 16) (f : Slot → Slot) : (s.updSlot i f).channels = s.channels := rfl
@[simp] theorem State.updSlot_lanes (s : State) (i : Fin 16) (f : Slot → Slot) : (s.updSlot i f).lanes = s.lanes := rfl
@[simp] theorem State.updSlot_gates (s : State) (i : Fin 16) (f : Slot → Slot) : (s.updSlot i f).gates = s.gates := rfl
@[simp] theorem State.updSlot_domains (s : State) (i : Fin 16) (f : Slot → Slot) : (s.updSlot i f).domains = s.domains := rfl
@[simp] theorem State.updSlot_permit (s : State) (i : Fin 16) (f : Slot → Slot) : (s.updSlot i f).permit = s.permit := rfl
@[simp] theorem State.updSlot_lastSample (s : State) (i : Fin 16) (f : Slot → Slot) : (s.updSlot i f).lastSample = s.lastSample := rfl
@[simp] theorem State.updSlot_senseInputs (s : State) (i : Fin 16) (f : Slot → Slot) : (s.updSlot i f).senseInputs = s.senseInputs := rfl
@[simp] theorem State.updSlot_tripsDue (s : State) (i : Fin 16) (f : Slot → Slot) : (s.updSlot i f).tripsDue = s.tripsDue := rfl
@[simp] theorem State.updSlot_streams (s : State) (i : Fin 16) (f : Slot → Slot) : (s.updSlot i f).streams = s.streams := rfl
@[simp] theorem State.updSlot_engine (s : State) (i : Fin 16) (f : Slot → Slot) : (s.updSlot i f).engine = s.engine := rfl
@[simp] theorem State.updSlot_configError (s : State) (i : Fin 16) (f : Slot → Slot) : (s.updSlot i f).configError = s.configError := rfl
@[simp] theorem State.updSlot_configRead (s : State) (i : Fin 16) (f : Slot → Slot) : (s.updSlot i f).configRead = s.configRead := rfl
@[simp] theorem State.updSlot_sqs (s : State) (i : Fin 16) (f : Slot → Slot) : (s.updSlot i f).sqs = s.sqs := rfl
@[simp] theorem State.updSlot_fetch (s : State) (i : Fin 16) (f : Slot → Slot) : (s.updSlot i f).fetch = s.fetch := rfl
@[simp] theorem State.updSlot_urgentPointer (s : State) (i : Fin 16) (f : Slot → Slot) : (s.updSlot i f).urgentPointer = s.urgentPointer := rfl
@[simp] theorem State.updSlot_normalPointer (s : State) (i : Fin 16) (f : Slot → Slot) : (s.updSlot i f).normalPointer = s.normalPointer := rfl
@[simp] theorem State.updSlot_burstCredit (s : State) (i : Fin 16) (f : Slot → Slot) : (s.updSlot i f).burstCredit = s.burstCredit := rfl
@[simp] theorem State.updSlot_postError (s : State) (i : Fin 16) (f : Slot → Slot) : (s.updSlot i f).postError = s.postError := rfl
@[simp] theorem State.updSlot_releaseError (s : State) (i : Fin 16) (f : Slot → Slot) : (s.updSlot i f).releaseError = s.releaseError := rfl
@[simp] theorem State.updSlot_cqs (s : State) (i : Fin 16) (f : Slot → Slot) : (s.updSlot i f).cqs = s.cqs := rfl
@[simp] theorem State.updSlot_eventCq (s : State) (i : Fin 16) (f : Slot → Slot) : (s.updSlot i f).eventCq = s.eventCq := rfl
@[simp] theorem State.updSlot_pendingList (s : State) (i : Fin 16) (f : Slot → Slot) : (s.updSlot i f).pendingList = s.pendingList := rfl
@[simp] theorem State.updSlot_lanePointer (s : State) (i : Fin 16) (f : Slot → Slot) : (s.updSlot i f).lanePointer = s.lanePointer := rfl
@[simp] theorem State.updSlot_cqTurn (s : State) (i : Fin 16) (f : Slot → Slot) : (s.updSlot i f).cqTurn = s.cqTurn := rfl
@[simp] theorem State.updSlot_events (s : State) (i : Fin 16) (f : Slot → Slot) : (s.updSlot i f).events = s.events := rfl
@[simp] theorem State.updSlot_cause (s : State) (i : Fin 16) (f : Slot → Slot) : (s.updSlot i f).cause = s.cause := rfl
@[simp] theorem State.updSlot_enables (s : State) (i : Fin 16) (f : Slot → Slot) : (s.updSlot i f).enables = s.enables := rfl
@[simp] theorem State.updSlot_linkErrors (s : State) (i : Fin 16) (f : Slot → Slot) : (s.updSlot i f).linkErrors = s.linkErrors := rfl
@[simp] theorem State.updSlot_linkQueue (s : State) (i : Fin 16) (f : Slot → Slot) : (s.updSlot i f).linkQueue = s.linkQueue := rfl
@[simp] theorem State.updSlot_openRead (s : State) (i : Fin 16) (f : Slot → Slot) : (s.updSlot i f).openRead = s.openRead := rfl
@[simp] theorem State.updSlot_miso (s : State) (i : Fin 16) (f : Slot → Slot) : (s.updSlot i f).miso = s.miso := rfl
@[simp] theorem State.updSlot_misoBits (s : State) (i : Fin 16) (f : Slot → Slot) : (s.updSlot i f).misoBits = s.misoBits := rfl
@[simp] theorem State.updSlot_awaitCsnRise (s : State) (i : Fin 16) (f : Slot → Slot) : (s.updSlot i f).awaitCsnRise = s.awaitCsnRise := rfl
@[simp] theorem State.updSlot_xm (s : State) (i : Fin 16) (f : Slot → Slot) : (s.updSlot i f).xm = s.xm := rfl
@[simp] theorem State.updSlot_rotation (s : State) (i : Fin 16) (f : Slot → Slot) : (s.updSlot i f).rotation = s.rotation := rfl
@[simp] theorem State.updSlot_channel (s : State) (i : Fin 16) (f : Slot → Slot) (c' : Fin 6) :
    (s.updSlot i f).channel c' = s.channel c' := rfl
@[simp] theorem State.updSlot_lane (s : State) (i : Fin 16) (f : Slot → Slot) (l' : Fin 4) :
    (s.updSlot i f).lane l' = s.lane l' := rfl
@[simp] theorem State.updSlot_gate (s : State) (i : Fin 16) (f : Slot → Slot) (g' : Fin 4) :
    (s.updSlot i f).gate g' = s.gate g' := rfl
@[simp] theorem State.updSlot_domain (s : State) (i : Fin 16) (f : Slot → Slot) (d' : Fin 3) :
    (s.updSlot i f).domain d' = s.domain d' := rfl
@[simp] theorem State.updSlot_senseInput (s : State) (i : Fin 16) (f : Slot → Slot) (i' : Fin 4) :
    (s.updSlot i f).senseInput i' = s.senseInput i' := rfl
@[simp] theorem State.updSlot_stream (s : State) (i : Fin 16) (f : Slot → Slot) (n' : Fin 2) :
    (s.updSlot i f).stream n' = s.stream n' := rfl
@[simp] theorem State.updSlot_sq (s : State) (i : Fin 16) (f : Slot → Slot) (q' : Fin 4) :
    (s.updSlot i f).sq q' = s.sq q' := rfl
@[simp] theorem State.updSlot_cq (s : State) (i : Fin 16) (f : Slot → Slot) (q' : Fin 2) :
    (s.updSlot i f).cq q' = s.cq q' := rfl
@[simp] theorem State.updSlot_event (s : State) (i : Fin 16) (f : Slot → Slot) (e' : Fin 12) :
    (s.updSlot i f).event e' = s.event e' := rfl
@[simp] theorem State.updSlot_inReset (s : State) (i : Fin 16) (f : Slot → Slot) : (s.updSlot i f).inReset = s.inReset := rfl
theorem State.updSlot_slot (s : State) (i : Fin 16) (f : Slot → Slot) (j : Fin 16) :
    (s.updSlot i f).slot j = if j = i then f (s.slot i) else s.slot j := by
  simp only [State.updSlot, State.slot, Fin.getElem_fin, Vector.getElem_set]
  by_cases h : i.val = j.val
  · simp [Fin.ext h]
  · simp [h, Fin.ext_iff, Ne.symm h]
@[simp] theorem State.updSlot_slot_self (s : State) (i : Fin 16) (f : Slot → Slot) :
    (s.updSlot i f).slot i = f (s.slot i) := by simp [State.updSlot_slot]
@[simp] theorem State.updSlot_slot_ne (s : State) (i : Fin 16) (f : Slot → Slot) (j : Fin 16) (h : j ≠ i) :
    (s.updSlot i f).slot j = s.slot j := by simp [State.updSlot_slot, h]

/-! ### updGate -/

@[simp] theorem State.updGate_pending (s : State) (i : Fin 4) (f : Gate → Gate) : (s.updGate i f).pending = s.pending := rfl
@[simp] theorem State.updGate_hold (s : State) (i : Fin 4) (f : Gate → Gate) : (s.updGate i f).hold = s.hold := rfl
@[simp] theorem State.updGate_resetCause (s : State) (i : Fin 4) (f : Gate → Gate) : (s.updGate i f).resetCause = s.resetCause := rfl
@[simp] theorem State.updGate_tick (s : State) (i : Fin 4) (f : Gate → Gate) : (s.updGate i f).tick = s.tick := rfl
@[simp] theorem State.updGate_channels (s : State) (i : Fin 4) (f : Gate → Gate) : (s.updGate i f).channels = s.channels := rfl
@[simp] theorem State.updGate_lanes (s : State) (i : Fin 4) (f : Gate → Gate) : (s.updGate i f).lanes = s.lanes := rfl
@[simp] theorem State.updGate_slots (s : State) (i : Fin 4) (f : Gate → Gate) : (s.updGate i f).slots = s.slots := rfl
@[simp] theorem State.updGate_domains (s : State) (i : Fin 4) (f : Gate → Gate) : (s.updGate i f).domains = s.domains := rfl
@[simp] theorem State.updGate_permit (s : State) (i : Fin 4) (f : Gate → Gate) : (s.updGate i f).permit = s.permit := rfl
@[simp] theorem State.updGate_lastSample (s : State) (i : Fin 4) (f : Gate → Gate) : (s.updGate i f).lastSample = s.lastSample := rfl
@[simp] theorem State.updGate_senseInputs (s : State) (i : Fin 4) (f : Gate → Gate) : (s.updGate i f).senseInputs = s.senseInputs := rfl
@[simp] theorem State.updGate_tripsDue (s : State) (i : Fin 4) (f : Gate → Gate) : (s.updGate i f).tripsDue = s.tripsDue := rfl
@[simp] theorem State.updGate_streams (s : State) (i : Fin 4) (f : Gate → Gate) : (s.updGate i f).streams = s.streams := rfl
@[simp] theorem State.updGate_engine (s : State) (i : Fin 4) (f : Gate → Gate) : (s.updGate i f).engine = s.engine := rfl
@[simp] theorem State.updGate_configError (s : State) (i : Fin 4) (f : Gate → Gate) : (s.updGate i f).configError = s.configError := rfl
@[simp] theorem State.updGate_configRead (s : State) (i : Fin 4) (f : Gate → Gate) : (s.updGate i f).configRead = s.configRead := rfl
@[simp] theorem State.updGate_sqs (s : State) (i : Fin 4) (f : Gate → Gate) : (s.updGate i f).sqs = s.sqs := rfl
@[simp] theorem State.updGate_fetch (s : State) (i : Fin 4) (f : Gate → Gate) : (s.updGate i f).fetch = s.fetch := rfl
@[simp] theorem State.updGate_urgentPointer (s : State) (i : Fin 4) (f : Gate → Gate) : (s.updGate i f).urgentPointer = s.urgentPointer := rfl
@[simp] theorem State.updGate_normalPointer (s : State) (i : Fin 4) (f : Gate → Gate) : (s.updGate i f).normalPointer = s.normalPointer := rfl
@[simp] theorem State.updGate_burstCredit (s : State) (i : Fin 4) (f : Gate → Gate) : (s.updGate i f).burstCredit = s.burstCredit := rfl
@[simp] theorem State.updGate_postError (s : State) (i : Fin 4) (f : Gate → Gate) : (s.updGate i f).postError = s.postError := rfl
@[simp] theorem State.updGate_releaseError (s : State) (i : Fin 4) (f : Gate → Gate) : (s.updGate i f).releaseError = s.releaseError := rfl
@[simp] theorem State.updGate_cqs (s : State) (i : Fin 4) (f : Gate → Gate) : (s.updGate i f).cqs = s.cqs := rfl
@[simp] theorem State.updGate_eventCq (s : State) (i : Fin 4) (f : Gate → Gate) : (s.updGate i f).eventCq = s.eventCq := rfl
@[simp] theorem State.updGate_pendingList (s : State) (i : Fin 4) (f : Gate → Gate) : (s.updGate i f).pendingList = s.pendingList := rfl
@[simp] theorem State.updGate_lanePointer (s : State) (i : Fin 4) (f : Gate → Gate) : (s.updGate i f).lanePointer = s.lanePointer := rfl
@[simp] theorem State.updGate_cqTurn (s : State) (i : Fin 4) (f : Gate → Gate) : (s.updGate i f).cqTurn = s.cqTurn := rfl
@[simp] theorem State.updGate_events (s : State) (i : Fin 4) (f : Gate → Gate) : (s.updGate i f).events = s.events := rfl
@[simp] theorem State.updGate_cause (s : State) (i : Fin 4) (f : Gate → Gate) : (s.updGate i f).cause = s.cause := rfl
@[simp] theorem State.updGate_enables (s : State) (i : Fin 4) (f : Gate → Gate) : (s.updGate i f).enables = s.enables := rfl
@[simp] theorem State.updGate_linkErrors (s : State) (i : Fin 4) (f : Gate → Gate) : (s.updGate i f).linkErrors = s.linkErrors := rfl
@[simp] theorem State.updGate_linkQueue (s : State) (i : Fin 4) (f : Gate → Gate) : (s.updGate i f).linkQueue = s.linkQueue := rfl
@[simp] theorem State.updGate_openRead (s : State) (i : Fin 4) (f : Gate → Gate) : (s.updGate i f).openRead = s.openRead := rfl
@[simp] theorem State.updGate_miso (s : State) (i : Fin 4) (f : Gate → Gate) : (s.updGate i f).miso = s.miso := rfl
@[simp] theorem State.updGate_misoBits (s : State) (i : Fin 4) (f : Gate → Gate) : (s.updGate i f).misoBits = s.misoBits := rfl
@[simp] theorem State.updGate_awaitCsnRise (s : State) (i : Fin 4) (f : Gate → Gate) : (s.updGate i f).awaitCsnRise = s.awaitCsnRise := rfl
@[simp] theorem State.updGate_xm (s : State) (i : Fin 4) (f : Gate → Gate) : (s.updGate i f).xm = s.xm := rfl
@[simp] theorem State.updGate_rotation (s : State) (i : Fin 4) (f : Gate → Gate) : (s.updGate i f).rotation = s.rotation := rfl
@[simp] theorem State.updGate_channel (s : State) (i : Fin 4) (f : Gate → Gate) (c' : Fin 6) :
    (s.updGate i f).channel c' = s.channel c' := rfl
@[simp] theorem State.updGate_lane (s : State) (i : Fin 4) (f : Gate → Gate) (l' : Fin 4) :
    (s.updGate i f).lane l' = s.lane l' := rfl
@[simp] theorem State.updGate_slot (s : State) (i : Fin 4) (f : Gate → Gate) (n' : Fin 16) :
    (s.updGate i f).slot n' = s.slot n' := rfl
@[simp] theorem State.updGate_domain (s : State) (i : Fin 4) (f : Gate → Gate) (d' : Fin 3) :
    (s.updGate i f).domain d' = s.domain d' := rfl
@[simp] theorem State.updGate_senseInput (s : State) (i : Fin 4) (f : Gate → Gate) (i' : Fin 4) :
    (s.updGate i f).senseInput i' = s.senseInput i' := rfl
@[simp] theorem State.updGate_stream (s : State) (i : Fin 4) (f : Gate → Gate) (n' : Fin 2) :
    (s.updGate i f).stream n' = s.stream n' := rfl
@[simp] theorem State.updGate_sq (s : State) (i : Fin 4) (f : Gate → Gate) (q' : Fin 4) :
    (s.updGate i f).sq q' = s.sq q' := rfl
@[simp] theorem State.updGate_cq (s : State) (i : Fin 4) (f : Gate → Gate) (q' : Fin 2) :
    (s.updGate i f).cq q' = s.cq q' := rfl
@[simp] theorem State.updGate_event (s : State) (i : Fin 4) (f : Gate → Gate) (e' : Fin 12) :
    (s.updGate i f).event e' = s.event e' := rfl
@[simp] theorem State.updGate_inReset (s : State) (i : Fin 4) (f : Gate → Gate) : (s.updGate i f).inReset = s.inReset := rfl
theorem State.updGate_gate (s : State) (i : Fin 4) (f : Gate → Gate) (j : Fin 4) :
    (s.updGate i f).gate j = if j = i then f (s.gate i) else s.gate j := by
  simp only [State.updGate, State.gate, Fin.getElem_fin, Vector.getElem_set]
  by_cases h : i.val = j.val
  · simp [Fin.ext h]
  · simp [h, Fin.ext_iff, Ne.symm h]
@[simp] theorem State.updGate_gate_self (s : State) (i : Fin 4) (f : Gate → Gate) :
    (s.updGate i f).gate i = f (s.gate i) := by simp [State.updGate_gate]
@[simp] theorem State.updGate_gate_ne (s : State) (i : Fin 4) (f : Gate → Gate) (j : Fin 4) (h : j ≠ i) :
    (s.updGate i f).gate j = s.gate j := by simp [State.updGate_gate, h]

/-! ### mapGates -/

@[simp] theorem State.mapGates_pending (s : State) (f : Fin 4 → Gate → Gate) : (s.mapGates f).pending = s.pending := rfl
@[simp] theorem State.mapGates_hold (s : State) (f : Fin 4 → Gate → Gate) : (s.mapGates f).hold = s.hold := rfl
@[simp] theorem State.mapGates_resetCause (s : State) (f : Fin 4 → Gate → Gate) : (s.mapGates f).resetCause = s.resetCause := rfl
@[simp] theorem State.mapGates_tick (s : State) (f : Fin 4 → Gate → Gate) : (s.mapGates f).tick = s.tick := rfl
@[simp] theorem State.mapGates_channels (s : State) (f : Fin 4 → Gate → Gate) : (s.mapGates f).channels = s.channels := rfl
@[simp] theorem State.mapGates_lanes (s : State) (f : Fin 4 → Gate → Gate) : (s.mapGates f).lanes = s.lanes := rfl
@[simp] theorem State.mapGates_slots (s : State) (f : Fin 4 → Gate → Gate) : (s.mapGates f).slots = s.slots := rfl
@[simp] theorem State.mapGates_domains (s : State) (f : Fin 4 → Gate → Gate) : (s.mapGates f).domains = s.domains := rfl
@[simp] theorem State.mapGates_permit (s : State) (f : Fin 4 → Gate → Gate) : (s.mapGates f).permit = s.permit := rfl
@[simp] theorem State.mapGates_lastSample (s : State) (f : Fin 4 → Gate → Gate) : (s.mapGates f).lastSample = s.lastSample := rfl
@[simp] theorem State.mapGates_senseInputs (s : State) (f : Fin 4 → Gate → Gate) : (s.mapGates f).senseInputs = s.senseInputs := rfl
@[simp] theorem State.mapGates_tripsDue (s : State) (f : Fin 4 → Gate → Gate) : (s.mapGates f).tripsDue = s.tripsDue := rfl
@[simp] theorem State.mapGates_streams (s : State) (f : Fin 4 → Gate → Gate) : (s.mapGates f).streams = s.streams := rfl
@[simp] theorem State.mapGates_engine (s : State) (f : Fin 4 → Gate → Gate) : (s.mapGates f).engine = s.engine := rfl
@[simp] theorem State.mapGates_configError (s : State) (f : Fin 4 → Gate → Gate) : (s.mapGates f).configError = s.configError := rfl
@[simp] theorem State.mapGates_configRead (s : State) (f : Fin 4 → Gate → Gate) : (s.mapGates f).configRead = s.configRead := rfl
@[simp] theorem State.mapGates_sqs (s : State) (f : Fin 4 → Gate → Gate) : (s.mapGates f).sqs = s.sqs := rfl
@[simp] theorem State.mapGates_fetch (s : State) (f : Fin 4 → Gate → Gate) : (s.mapGates f).fetch = s.fetch := rfl
@[simp] theorem State.mapGates_urgentPointer (s : State) (f : Fin 4 → Gate → Gate) : (s.mapGates f).urgentPointer = s.urgentPointer := rfl
@[simp] theorem State.mapGates_normalPointer (s : State) (f : Fin 4 → Gate → Gate) : (s.mapGates f).normalPointer = s.normalPointer := rfl
@[simp] theorem State.mapGates_burstCredit (s : State) (f : Fin 4 → Gate → Gate) : (s.mapGates f).burstCredit = s.burstCredit := rfl
@[simp] theorem State.mapGates_postError (s : State) (f : Fin 4 → Gate → Gate) : (s.mapGates f).postError = s.postError := rfl
@[simp] theorem State.mapGates_releaseError (s : State) (f : Fin 4 → Gate → Gate) : (s.mapGates f).releaseError = s.releaseError := rfl
@[simp] theorem State.mapGates_cqs (s : State) (f : Fin 4 → Gate → Gate) : (s.mapGates f).cqs = s.cqs := rfl
@[simp] theorem State.mapGates_eventCq (s : State) (f : Fin 4 → Gate → Gate) : (s.mapGates f).eventCq = s.eventCq := rfl
@[simp] theorem State.mapGates_pendingList (s : State) (f : Fin 4 → Gate → Gate) : (s.mapGates f).pendingList = s.pendingList := rfl
@[simp] theorem State.mapGates_lanePointer (s : State) (f : Fin 4 → Gate → Gate) : (s.mapGates f).lanePointer = s.lanePointer := rfl
@[simp] theorem State.mapGates_cqTurn (s : State) (f : Fin 4 → Gate → Gate) : (s.mapGates f).cqTurn = s.cqTurn := rfl
@[simp] theorem State.mapGates_events (s : State) (f : Fin 4 → Gate → Gate) : (s.mapGates f).events = s.events := rfl
@[simp] theorem State.mapGates_cause (s : State) (f : Fin 4 → Gate → Gate) : (s.mapGates f).cause = s.cause := rfl
@[simp] theorem State.mapGates_enables (s : State) (f : Fin 4 → Gate → Gate) : (s.mapGates f).enables = s.enables := rfl
@[simp] theorem State.mapGates_linkErrors (s : State) (f : Fin 4 → Gate → Gate) : (s.mapGates f).linkErrors = s.linkErrors := rfl
@[simp] theorem State.mapGates_linkQueue (s : State) (f : Fin 4 → Gate → Gate) : (s.mapGates f).linkQueue = s.linkQueue := rfl
@[simp] theorem State.mapGates_openRead (s : State) (f : Fin 4 → Gate → Gate) : (s.mapGates f).openRead = s.openRead := rfl
@[simp] theorem State.mapGates_miso (s : State) (f : Fin 4 → Gate → Gate) : (s.mapGates f).miso = s.miso := rfl
@[simp] theorem State.mapGates_misoBits (s : State) (f : Fin 4 → Gate → Gate) : (s.mapGates f).misoBits = s.misoBits := rfl
@[simp] theorem State.mapGates_awaitCsnRise (s : State) (f : Fin 4 → Gate → Gate) : (s.mapGates f).awaitCsnRise = s.awaitCsnRise := rfl
@[simp] theorem State.mapGates_xm (s : State) (f : Fin 4 → Gate → Gate) : (s.mapGates f).xm = s.xm := rfl
@[simp] theorem State.mapGates_rotation (s : State) (f : Fin 4 → Gate → Gate) : (s.mapGates f).rotation = s.rotation := rfl
@[simp] theorem State.mapGates_channel (s : State) (f : Fin 4 → Gate → Gate) (c' : Fin 6) :
    (s.mapGates f).channel c' = s.channel c' := rfl
@[simp] theorem State.mapGates_lane (s : State) (f : Fin 4 → Gate → Gate) (l' : Fin 4) :
    (s.mapGates f).lane l' = s.lane l' := rfl
@[simp] theorem State.mapGates_slot (s : State) (f : Fin 4 → Gate → Gate) (n' : Fin 16) :
    (s.mapGates f).slot n' = s.slot n' := rfl
@[simp] theorem State.mapGates_domain (s : State) (f : Fin 4 → Gate → Gate) (d' : Fin 3) :
    (s.mapGates f).domain d' = s.domain d' := rfl
@[simp] theorem State.mapGates_senseInput (s : State) (f : Fin 4 → Gate → Gate) (i' : Fin 4) :
    (s.mapGates f).senseInput i' = s.senseInput i' := rfl
@[simp] theorem State.mapGates_stream (s : State) (f : Fin 4 → Gate → Gate) (n' : Fin 2) :
    (s.mapGates f).stream n' = s.stream n' := rfl
@[simp] theorem State.mapGates_sq (s : State) (f : Fin 4 → Gate → Gate) (q' : Fin 4) :
    (s.mapGates f).sq q' = s.sq q' := rfl
@[simp] theorem State.mapGates_cq (s : State) (f : Fin 4 → Gate → Gate) (q' : Fin 2) :
    (s.mapGates f).cq q' = s.cq q' := rfl
@[simp] theorem State.mapGates_event (s : State) (f : Fin 4 → Gate → Gate) (e' : Fin 12) :
    (s.mapGates f).event e' = s.event e' := rfl
@[simp] theorem State.mapGates_inReset (s : State) (f : Fin 4 → Gate → Gate) : (s.mapGates f).inReset = s.inReset := rfl
@[simp] theorem State.mapGates_gate (s : State) (f : Fin 4 → Gate → Gate) (j : Fin 4) :
    (s.mapGates f).gate j = f j (s.gate j) := by
  match j with
  | ⟨0, _⟩ => rfl
  | ⟨1, _⟩ => rfl
  | ⟨2, _⟩ => rfl
  | ⟨3, _⟩ => rfl

/-! ### updDomain -/

@[simp] theorem State.updDomain_pending (s : State) (i : Fin 3) (f : Domain → Domain) : (s.updDomain i f).pending = s.pending := rfl
@[simp] theorem State.updDomain_hold (s : State) (i : Fin 3) (f : Domain → Domain) : (s.updDomain i f).hold = s.hold := rfl
@[simp] theorem State.updDomain_resetCause (s : State) (i : Fin 3) (f : Domain → Domain) : (s.updDomain i f).resetCause = s.resetCause := rfl
@[simp] theorem State.updDomain_tick (s : State) (i : Fin 3) (f : Domain → Domain) : (s.updDomain i f).tick = s.tick := rfl
@[simp] theorem State.updDomain_channels (s : State) (i : Fin 3) (f : Domain → Domain) : (s.updDomain i f).channels = s.channels := rfl
@[simp] theorem State.updDomain_lanes (s : State) (i : Fin 3) (f : Domain → Domain) : (s.updDomain i f).lanes = s.lanes := rfl
@[simp] theorem State.updDomain_slots (s : State) (i : Fin 3) (f : Domain → Domain) : (s.updDomain i f).slots = s.slots := rfl
@[simp] theorem State.updDomain_gates (s : State) (i : Fin 3) (f : Domain → Domain) : (s.updDomain i f).gates = s.gates := rfl
@[simp] theorem State.updDomain_permit (s : State) (i : Fin 3) (f : Domain → Domain) : (s.updDomain i f).permit = s.permit := rfl
@[simp] theorem State.updDomain_lastSample (s : State) (i : Fin 3) (f : Domain → Domain) : (s.updDomain i f).lastSample = s.lastSample := rfl
@[simp] theorem State.updDomain_senseInputs (s : State) (i : Fin 3) (f : Domain → Domain) : (s.updDomain i f).senseInputs = s.senseInputs := rfl
@[simp] theorem State.updDomain_tripsDue (s : State) (i : Fin 3) (f : Domain → Domain) : (s.updDomain i f).tripsDue = s.tripsDue := rfl
@[simp] theorem State.updDomain_streams (s : State) (i : Fin 3) (f : Domain → Domain) : (s.updDomain i f).streams = s.streams := rfl
@[simp] theorem State.updDomain_engine (s : State) (i : Fin 3) (f : Domain → Domain) : (s.updDomain i f).engine = s.engine := rfl
@[simp] theorem State.updDomain_configError (s : State) (i : Fin 3) (f : Domain → Domain) : (s.updDomain i f).configError = s.configError := rfl
@[simp] theorem State.updDomain_configRead (s : State) (i : Fin 3) (f : Domain → Domain) : (s.updDomain i f).configRead = s.configRead := rfl
@[simp] theorem State.updDomain_sqs (s : State) (i : Fin 3) (f : Domain → Domain) : (s.updDomain i f).sqs = s.sqs := rfl
@[simp] theorem State.updDomain_fetch (s : State) (i : Fin 3) (f : Domain → Domain) : (s.updDomain i f).fetch = s.fetch := rfl
@[simp] theorem State.updDomain_urgentPointer (s : State) (i : Fin 3) (f : Domain → Domain) : (s.updDomain i f).urgentPointer = s.urgentPointer := rfl
@[simp] theorem State.updDomain_normalPointer (s : State) (i : Fin 3) (f : Domain → Domain) : (s.updDomain i f).normalPointer = s.normalPointer := rfl
@[simp] theorem State.updDomain_burstCredit (s : State) (i : Fin 3) (f : Domain → Domain) : (s.updDomain i f).burstCredit = s.burstCredit := rfl
@[simp] theorem State.updDomain_postError (s : State) (i : Fin 3) (f : Domain → Domain) : (s.updDomain i f).postError = s.postError := rfl
@[simp] theorem State.updDomain_releaseError (s : State) (i : Fin 3) (f : Domain → Domain) : (s.updDomain i f).releaseError = s.releaseError := rfl
@[simp] theorem State.updDomain_cqs (s : State) (i : Fin 3) (f : Domain → Domain) : (s.updDomain i f).cqs = s.cqs := rfl
@[simp] theorem State.updDomain_eventCq (s : State) (i : Fin 3) (f : Domain → Domain) : (s.updDomain i f).eventCq = s.eventCq := rfl
@[simp] theorem State.updDomain_pendingList (s : State) (i : Fin 3) (f : Domain → Domain) : (s.updDomain i f).pendingList = s.pendingList := rfl
@[simp] theorem State.updDomain_lanePointer (s : State) (i : Fin 3) (f : Domain → Domain) : (s.updDomain i f).lanePointer = s.lanePointer := rfl
@[simp] theorem State.updDomain_cqTurn (s : State) (i : Fin 3) (f : Domain → Domain) : (s.updDomain i f).cqTurn = s.cqTurn := rfl
@[simp] theorem State.updDomain_events (s : State) (i : Fin 3) (f : Domain → Domain) : (s.updDomain i f).events = s.events := rfl
@[simp] theorem State.updDomain_cause (s : State) (i : Fin 3) (f : Domain → Domain) : (s.updDomain i f).cause = s.cause := rfl
@[simp] theorem State.updDomain_enables (s : State) (i : Fin 3) (f : Domain → Domain) : (s.updDomain i f).enables = s.enables := rfl
@[simp] theorem State.updDomain_linkErrors (s : State) (i : Fin 3) (f : Domain → Domain) : (s.updDomain i f).linkErrors = s.linkErrors := rfl
@[simp] theorem State.updDomain_linkQueue (s : State) (i : Fin 3) (f : Domain → Domain) : (s.updDomain i f).linkQueue = s.linkQueue := rfl
@[simp] theorem State.updDomain_openRead (s : State) (i : Fin 3) (f : Domain → Domain) : (s.updDomain i f).openRead = s.openRead := rfl
@[simp] theorem State.updDomain_miso (s : State) (i : Fin 3) (f : Domain → Domain) : (s.updDomain i f).miso = s.miso := rfl
@[simp] theorem State.updDomain_misoBits (s : State) (i : Fin 3) (f : Domain → Domain) : (s.updDomain i f).misoBits = s.misoBits := rfl
@[simp] theorem State.updDomain_awaitCsnRise (s : State) (i : Fin 3) (f : Domain → Domain) : (s.updDomain i f).awaitCsnRise = s.awaitCsnRise := rfl
@[simp] theorem State.updDomain_xm (s : State) (i : Fin 3) (f : Domain → Domain) : (s.updDomain i f).xm = s.xm := rfl
@[simp] theorem State.updDomain_rotation (s : State) (i : Fin 3) (f : Domain → Domain) : (s.updDomain i f).rotation = s.rotation := rfl
@[simp] theorem State.updDomain_channel (s : State) (i : Fin 3) (f : Domain → Domain) (c' : Fin 6) :
    (s.updDomain i f).channel c' = s.channel c' := rfl
@[simp] theorem State.updDomain_lane (s : State) (i : Fin 3) (f : Domain → Domain) (l' : Fin 4) :
    (s.updDomain i f).lane l' = s.lane l' := rfl
@[simp] theorem State.updDomain_slot (s : State) (i : Fin 3) (f : Domain → Domain) (n' : Fin 16) :
    (s.updDomain i f).slot n' = s.slot n' := rfl
@[simp] theorem State.updDomain_gate (s : State) (i : Fin 3) (f : Domain → Domain) (g' : Fin 4) :
    (s.updDomain i f).gate g' = s.gate g' := rfl
@[simp] theorem State.updDomain_senseInput (s : State) (i : Fin 3) (f : Domain → Domain) (i' : Fin 4) :
    (s.updDomain i f).senseInput i' = s.senseInput i' := rfl
@[simp] theorem State.updDomain_stream (s : State) (i : Fin 3) (f : Domain → Domain) (n' : Fin 2) :
    (s.updDomain i f).stream n' = s.stream n' := rfl
@[simp] theorem State.updDomain_sq (s : State) (i : Fin 3) (f : Domain → Domain) (q' : Fin 4) :
    (s.updDomain i f).sq q' = s.sq q' := rfl
@[simp] theorem State.updDomain_cq (s : State) (i : Fin 3) (f : Domain → Domain) (q' : Fin 2) :
    (s.updDomain i f).cq q' = s.cq q' := rfl
@[simp] theorem State.updDomain_event (s : State) (i : Fin 3) (f : Domain → Domain) (e' : Fin 12) :
    (s.updDomain i f).event e' = s.event e' := rfl
@[simp] theorem State.updDomain_inReset (s : State) (i : Fin 3) (f : Domain → Domain) : (s.updDomain i f).inReset = s.inReset := rfl
theorem State.updDomain_domain (s : State) (i : Fin 3) (f : Domain → Domain) (j : Fin 3) :
    (s.updDomain i f).domain j = if j = i then f (s.domain i) else s.domain j := by
  simp only [State.updDomain, State.domain, Fin.getElem_fin, Vector.getElem_set]
  by_cases h : i.val = j.val
  · simp [Fin.ext h]
  · simp [h, Fin.ext_iff, Ne.symm h]
@[simp] theorem State.updDomain_domain_self (s : State) (i : Fin 3) (f : Domain → Domain) :
    (s.updDomain i f).domain i = f (s.domain i) := by simp [State.updDomain_domain]
@[simp] theorem State.updDomain_domain_ne (s : State) (i : Fin 3) (f : Domain → Domain) (j : Fin 3) (h : j ≠ i) :
    (s.updDomain i f).domain j = s.domain j := by simp [State.updDomain_domain, h]

/-! ### mapDomains -/

@[simp] theorem State.mapDomains_pending (s : State) (f : Fin 3 → Domain → Domain) : (s.mapDomains f).pending = s.pending := rfl
@[simp] theorem State.mapDomains_hold (s : State) (f : Fin 3 → Domain → Domain) : (s.mapDomains f).hold = s.hold := rfl
@[simp] theorem State.mapDomains_resetCause (s : State) (f : Fin 3 → Domain → Domain) : (s.mapDomains f).resetCause = s.resetCause := rfl
@[simp] theorem State.mapDomains_tick (s : State) (f : Fin 3 → Domain → Domain) : (s.mapDomains f).tick = s.tick := rfl
@[simp] theorem State.mapDomains_channels (s : State) (f : Fin 3 → Domain → Domain) : (s.mapDomains f).channels = s.channels := rfl
@[simp] theorem State.mapDomains_lanes (s : State) (f : Fin 3 → Domain → Domain) : (s.mapDomains f).lanes = s.lanes := rfl
@[simp] theorem State.mapDomains_slots (s : State) (f : Fin 3 → Domain → Domain) : (s.mapDomains f).slots = s.slots := rfl
@[simp] theorem State.mapDomains_gates (s : State) (f : Fin 3 → Domain → Domain) : (s.mapDomains f).gates = s.gates := rfl
@[simp] theorem State.mapDomains_permit (s : State) (f : Fin 3 → Domain → Domain) : (s.mapDomains f).permit = s.permit := rfl
@[simp] theorem State.mapDomains_lastSample (s : State) (f : Fin 3 → Domain → Domain) : (s.mapDomains f).lastSample = s.lastSample := rfl
@[simp] theorem State.mapDomains_senseInputs (s : State) (f : Fin 3 → Domain → Domain) : (s.mapDomains f).senseInputs = s.senseInputs := rfl
@[simp] theorem State.mapDomains_tripsDue (s : State) (f : Fin 3 → Domain → Domain) : (s.mapDomains f).tripsDue = s.tripsDue := rfl
@[simp] theorem State.mapDomains_streams (s : State) (f : Fin 3 → Domain → Domain) : (s.mapDomains f).streams = s.streams := rfl
@[simp] theorem State.mapDomains_engine (s : State) (f : Fin 3 → Domain → Domain) : (s.mapDomains f).engine = s.engine := rfl
@[simp] theorem State.mapDomains_configError (s : State) (f : Fin 3 → Domain → Domain) : (s.mapDomains f).configError = s.configError := rfl
@[simp] theorem State.mapDomains_configRead (s : State) (f : Fin 3 → Domain → Domain) : (s.mapDomains f).configRead = s.configRead := rfl
@[simp] theorem State.mapDomains_sqs (s : State) (f : Fin 3 → Domain → Domain) : (s.mapDomains f).sqs = s.sqs := rfl
@[simp] theorem State.mapDomains_fetch (s : State) (f : Fin 3 → Domain → Domain) : (s.mapDomains f).fetch = s.fetch := rfl
@[simp] theorem State.mapDomains_urgentPointer (s : State) (f : Fin 3 → Domain → Domain) : (s.mapDomains f).urgentPointer = s.urgentPointer := rfl
@[simp] theorem State.mapDomains_normalPointer (s : State) (f : Fin 3 → Domain → Domain) : (s.mapDomains f).normalPointer = s.normalPointer := rfl
@[simp] theorem State.mapDomains_burstCredit (s : State) (f : Fin 3 → Domain → Domain) : (s.mapDomains f).burstCredit = s.burstCredit := rfl
@[simp] theorem State.mapDomains_postError (s : State) (f : Fin 3 → Domain → Domain) : (s.mapDomains f).postError = s.postError := rfl
@[simp] theorem State.mapDomains_releaseError (s : State) (f : Fin 3 → Domain → Domain) : (s.mapDomains f).releaseError = s.releaseError := rfl
@[simp] theorem State.mapDomains_cqs (s : State) (f : Fin 3 → Domain → Domain) : (s.mapDomains f).cqs = s.cqs := rfl
@[simp] theorem State.mapDomains_eventCq (s : State) (f : Fin 3 → Domain → Domain) : (s.mapDomains f).eventCq = s.eventCq := rfl
@[simp] theorem State.mapDomains_pendingList (s : State) (f : Fin 3 → Domain → Domain) : (s.mapDomains f).pendingList = s.pendingList := rfl
@[simp] theorem State.mapDomains_lanePointer (s : State) (f : Fin 3 → Domain → Domain) : (s.mapDomains f).lanePointer = s.lanePointer := rfl
@[simp] theorem State.mapDomains_cqTurn (s : State) (f : Fin 3 → Domain → Domain) : (s.mapDomains f).cqTurn = s.cqTurn := rfl
@[simp] theorem State.mapDomains_events (s : State) (f : Fin 3 → Domain → Domain) : (s.mapDomains f).events = s.events := rfl
@[simp] theorem State.mapDomains_cause (s : State) (f : Fin 3 → Domain → Domain) : (s.mapDomains f).cause = s.cause := rfl
@[simp] theorem State.mapDomains_enables (s : State) (f : Fin 3 → Domain → Domain) : (s.mapDomains f).enables = s.enables := rfl
@[simp] theorem State.mapDomains_linkErrors (s : State) (f : Fin 3 → Domain → Domain) : (s.mapDomains f).linkErrors = s.linkErrors := rfl
@[simp] theorem State.mapDomains_linkQueue (s : State) (f : Fin 3 → Domain → Domain) : (s.mapDomains f).linkQueue = s.linkQueue := rfl
@[simp] theorem State.mapDomains_openRead (s : State) (f : Fin 3 → Domain → Domain) : (s.mapDomains f).openRead = s.openRead := rfl
@[simp] theorem State.mapDomains_miso (s : State) (f : Fin 3 → Domain → Domain) : (s.mapDomains f).miso = s.miso := rfl
@[simp] theorem State.mapDomains_misoBits (s : State) (f : Fin 3 → Domain → Domain) : (s.mapDomains f).misoBits = s.misoBits := rfl
@[simp] theorem State.mapDomains_awaitCsnRise (s : State) (f : Fin 3 → Domain → Domain) : (s.mapDomains f).awaitCsnRise = s.awaitCsnRise := rfl
@[simp] theorem State.mapDomains_xm (s : State) (f : Fin 3 → Domain → Domain) : (s.mapDomains f).xm = s.xm := rfl
@[simp] theorem State.mapDomains_rotation (s : State) (f : Fin 3 → Domain → Domain) : (s.mapDomains f).rotation = s.rotation := rfl
@[simp] theorem State.mapDomains_channel (s : State) (f : Fin 3 → Domain → Domain) (c' : Fin 6) :
    (s.mapDomains f).channel c' = s.channel c' := rfl
@[simp] theorem State.mapDomains_lane (s : State) (f : Fin 3 → Domain → Domain) (l' : Fin 4) :
    (s.mapDomains f).lane l' = s.lane l' := rfl
@[simp] theorem State.mapDomains_slot (s : State) (f : Fin 3 → Domain → Domain) (n' : Fin 16) :
    (s.mapDomains f).slot n' = s.slot n' := rfl
@[simp] theorem State.mapDomains_gate (s : State) (f : Fin 3 → Domain → Domain) (g' : Fin 4) :
    (s.mapDomains f).gate g' = s.gate g' := rfl
@[simp] theorem State.mapDomains_senseInput (s : State) (f : Fin 3 → Domain → Domain) (i' : Fin 4) :
    (s.mapDomains f).senseInput i' = s.senseInput i' := rfl
@[simp] theorem State.mapDomains_stream (s : State) (f : Fin 3 → Domain → Domain) (n' : Fin 2) :
    (s.mapDomains f).stream n' = s.stream n' := rfl
@[simp] theorem State.mapDomains_sq (s : State) (f : Fin 3 → Domain → Domain) (q' : Fin 4) :
    (s.mapDomains f).sq q' = s.sq q' := rfl
@[simp] theorem State.mapDomains_cq (s : State) (f : Fin 3 → Domain → Domain) (q' : Fin 2) :
    (s.mapDomains f).cq q' = s.cq q' := rfl
@[simp] theorem State.mapDomains_event (s : State) (f : Fin 3 → Domain → Domain) (e' : Fin 12) :
    (s.mapDomains f).event e' = s.event e' := rfl
@[simp] theorem State.mapDomains_inReset (s : State) (f : Fin 3 → Domain → Domain) : (s.mapDomains f).inReset = s.inReset := rfl
@[simp] theorem State.mapDomains_domain (s : State) (f : Fin 3 → Domain → Domain) (j : Fin 3) :
    (s.mapDomains f).domain j = f j (s.domain j) := by
  match j with
  | ⟨0, _⟩ => rfl
  | ⟨1, _⟩ => rfl
  | ⟨2, _⟩ => rfl

/-! ### updSenseInput -/

@[simp] theorem State.updSenseInput_pending (s : State) (i : Fin 4) (f : SenseInput → SenseInput) : (s.updSenseInput i f).pending = s.pending := rfl
@[simp] theorem State.updSenseInput_hold (s : State) (i : Fin 4) (f : SenseInput → SenseInput) : (s.updSenseInput i f).hold = s.hold := rfl
@[simp] theorem State.updSenseInput_resetCause (s : State) (i : Fin 4) (f : SenseInput → SenseInput) : (s.updSenseInput i f).resetCause = s.resetCause := rfl
@[simp] theorem State.updSenseInput_tick (s : State) (i : Fin 4) (f : SenseInput → SenseInput) : (s.updSenseInput i f).tick = s.tick := rfl
@[simp] theorem State.updSenseInput_channels (s : State) (i : Fin 4) (f : SenseInput → SenseInput) : (s.updSenseInput i f).channels = s.channels := rfl
@[simp] theorem State.updSenseInput_lanes (s : State) (i : Fin 4) (f : SenseInput → SenseInput) : (s.updSenseInput i f).lanes = s.lanes := rfl
@[simp] theorem State.updSenseInput_slots (s : State) (i : Fin 4) (f : SenseInput → SenseInput) : (s.updSenseInput i f).slots = s.slots := rfl
@[simp] theorem State.updSenseInput_gates (s : State) (i : Fin 4) (f : SenseInput → SenseInput) : (s.updSenseInput i f).gates = s.gates := rfl
@[simp] theorem State.updSenseInput_domains (s : State) (i : Fin 4) (f : SenseInput → SenseInput) : (s.updSenseInput i f).domains = s.domains := rfl
@[simp] theorem State.updSenseInput_permit (s : State) (i : Fin 4) (f : SenseInput → SenseInput) : (s.updSenseInput i f).permit = s.permit := rfl
@[simp] theorem State.updSenseInput_lastSample (s : State) (i : Fin 4) (f : SenseInput → SenseInput) : (s.updSenseInput i f).lastSample = s.lastSample := rfl
@[simp] theorem State.updSenseInput_tripsDue (s : State) (i : Fin 4) (f : SenseInput → SenseInput) : (s.updSenseInput i f).tripsDue = s.tripsDue := rfl
@[simp] theorem State.updSenseInput_streams (s : State) (i : Fin 4) (f : SenseInput → SenseInput) : (s.updSenseInput i f).streams = s.streams := rfl
@[simp] theorem State.updSenseInput_engine (s : State) (i : Fin 4) (f : SenseInput → SenseInput) : (s.updSenseInput i f).engine = s.engine := rfl
@[simp] theorem State.updSenseInput_configError (s : State) (i : Fin 4) (f : SenseInput → SenseInput) : (s.updSenseInput i f).configError = s.configError := rfl
@[simp] theorem State.updSenseInput_configRead (s : State) (i : Fin 4) (f : SenseInput → SenseInput) : (s.updSenseInput i f).configRead = s.configRead := rfl
@[simp] theorem State.updSenseInput_sqs (s : State) (i : Fin 4) (f : SenseInput → SenseInput) : (s.updSenseInput i f).sqs = s.sqs := rfl
@[simp] theorem State.updSenseInput_fetch (s : State) (i : Fin 4) (f : SenseInput → SenseInput) : (s.updSenseInput i f).fetch = s.fetch := rfl
@[simp] theorem State.updSenseInput_urgentPointer (s : State) (i : Fin 4) (f : SenseInput → SenseInput) : (s.updSenseInput i f).urgentPointer = s.urgentPointer := rfl
@[simp] theorem State.updSenseInput_normalPointer (s : State) (i : Fin 4) (f : SenseInput → SenseInput) : (s.updSenseInput i f).normalPointer = s.normalPointer := rfl
@[simp] theorem State.updSenseInput_burstCredit (s : State) (i : Fin 4) (f : SenseInput → SenseInput) : (s.updSenseInput i f).burstCredit = s.burstCredit := rfl
@[simp] theorem State.updSenseInput_postError (s : State) (i : Fin 4) (f : SenseInput → SenseInput) : (s.updSenseInput i f).postError = s.postError := rfl
@[simp] theorem State.updSenseInput_releaseError (s : State) (i : Fin 4) (f : SenseInput → SenseInput) : (s.updSenseInput i f).releaseError = s.releaseError := rfl
@[simp] theorem State.updSenseInput_cqs (s : State) (i : Fin 4) (f : SenseInput → SenseInput) : (s.updSenseInput i f).cqs = s.cqs := rfl
@[simp] theorem State.updSenseInput_eventCq (s : State) (i : Fin 4) (f : SenseInput → SenseInput) : (s.updSenseInput i f).eventCq = s.eventCq := rfl
@[simp] theorem State.updSenseInput_pendingList (s : State) (i : Fin 4) (f : SenseInput → SenseInput) : (s.updSenseInput i f).pendingList = s.pendingList := rfl
@[simp] theorem State.updSenseInput_lanePointer (s : State) (i : Fin 4) (f : SenseInput → SenseInput) : (s.updSenseInput i f).lanePointer = s.lanePointer := rfl
@[simp] theorem State.updSenseInput_cqTurn (s : State) (i : Fin 4) (f : SenseInput → SenseInput) : (s.updSenseInput i f).cqTurn = s.cqTurn := rfl
@[simp] theorem State.updSenseInput_events (s : State) (i : Fin 4) (f : SenseInput → SenseInput) : (s.updSenseInput i f).events = s.events := rfl
@[simp] theorem State.updSenseInput_cause (s : State) (i : Fin 4) (f : SenseInput → SenseInput) : (s.updSenseInput i f).cause = s.cause := rfl
@[simp] theorem State.updSenseInput_enables (s : State) (i : Fin 4) (f : SenseInput → SenseInput) : (s.updSenseInput i f).enables = s.enables := rfl
@[simp] theorem State.updSenseInput_linkErrors (s : State) (i : Fin 4) (f : SenseInput → SenseInput) : (s.updSenseInput i f).linkErrors = s.linkErrors := rfl
@[simp] theorem State.updSenseInput_linkQueue (s : State) (i : Fin 4) (f : SenseInput → SenseInput) : (s.updSenseInput i f).linkQueue = s.linkQueue := rfl
@[simp] theorem State.updSenseInput_openRead (s : State) (i : Fin 4) (f : SenseInput → SenseInput) : (s.updSenseInput i f).openRead = s.openRead := rfl
@[simp] theorem State.updSenseInput_miso (s : State) (i : Fin 4) (f : SenseInput → SenseInput) : (s.updSenseInput i f).miso = s.miso := rfl
@[simp] theorem State.updSenseInput_misoBits (s : State) (i : Fin 4) (f : SenseInput → SenseInput) : (s.updSenseInput i f).misoBits = s.misoBits := rfl
@[simp] theorem State.updSenseInput_awaitCsnRise (s : State) (i : Fin 4) (f : SenseInput → SenseInput) : (s.updSenseInput i f).awaitCsnRise = s.awaitCsnRise := rfl
@[simp] theorem State.updSenseInput_xm (s : State) (i : Fin 4) (f : SenseInput → SenseInput) : (s.updSenseInput i f).xm = s.xm := rfl
@[simp] theorem State.updSenseInput_rotation (s : State) (i : Fin 4) (f : SenseInput → SenseInput) : (s.updSenseInput i f).rotation = s.rotation := rfl
@[simp] theorem State.updSenseInput_channel (s : State) (i : Fin 4) (f : SenseInput → SenseInput) (c' : Fin 6) :
    (s.updSenseInput i f).channel c' = s.channel c' := rfl
@[simp] theorem State.updSenseInput_lane (s : State) (i : Fin 4) (f : SenseInput → SenseInput) (l' : Fin 4) :
    (s.updSenseInput i f).lane l' = s.lane l' := rfl
@[simp] theorem State.updSenseInput_slot (s : State) (i : Fin 4) (f : SenseInput → SenseInput) (n' : Fin 16) :
    (s.updSenseInput i f).slot n' = s.slot n' := rfl
@[simp] theorem State.updSenseInput_gate (s : State) (i : Fin 4) (f : SenseInput → SenseInput) (g' : Fin 4) :
    (s.updSenseInput i f).gate g' = s.gate g' := rfl
@[simp] theorem State.updSenseInput_domain (s : State) (i : Fin 4) (f : SenseInput → SenseInput) (d' : Fin 3) :
    (s.updSenseInput i f).domain d' = s.domain d' := rfl
@[simp] theorem State.updSenseInput_stream (s : State) (i : Fin 4) (f : SenseInput → SenseInput) (n' : Fin 2) :
    (s.updSenseInput i f).stream n' = s.stream n' := rfl
@[simp] theorem State.updSenseInput_sq (s : State) (i : Fin 4) (f : SenseInput → SenseInput) (q' : Fin 4) :
    (s.updSenseInput i f).sq q' = s.sq q' := rfl
@[simp] theorem State.updSenseInput_cq (s : State) (i : Fin 4) (f : SenseInput → SenseInput) (q' : Fin 2) :
    (s.updSenseInput i f).cq q' = s.cq q' := rfl
@[simp] theorem State.updSenseInput_event (s : State) (i : Fin 4) (f : SenseInput → SenseInput) (e' : Fin 12) :
    (s.updSenseInput i f).event e' = s.event e' := rfl
@[simp] theorem State.updSenseInput_inReset (s : State) (i : Fin 4) (f : SenseInput → SenseInput) : (s.updSenseInput i f).inReset = s.inReset := rfl
theorem State.updSenseInput_senseInput (s : State) (i : Fin 4) (f : SenseInput → SenseInput) (j : Fin 4) :
    (s.updSenseInput i f).senseInput j = if j = i then f (s.senseInput i) else s.senseInput j := by
  simp only [State.updSenseInput, State.senseInput, Fin.getElem_fin, Vector.getElem_set]
  by_cases h : i.val = j.val
  · simp [Fin.ext h]
  · simp [h, Fin.ext_iff, Ne.symm h]
@[simp] theorem State.updSenseInput_senseInput_self (s : State) (i : Fin 4) (f : SenseInput → SenseInput) :
    (s.updSenseInput i f).senseInput i = f (s.senseInput i) := by simp [State.updSenseInput_senseInput]
@[simp] theorem State.updSenseInput_senseInput_ne (s : State) (i : Fin 4) (f : SenseInput → SenseInput) (j : Fin 4) (h : j ≠ i) :
    (s.updSenseInput i f).senseInput j = s.senseInput j := by simp [State.updSenseInput_senseInput, h]

/-! ### mapSenseInputs -/

@[simp] theorem State.mapSenseInputs_pending (s : State) (f : Fin 4 → SenseInput → SenseInput) : (s.mapSenseInputs f).pending = s.pending := rfl
@[simp] theorem State.mapSenseInputs_hold (s : State) (f : Fin 4 → SenseInput → SenseInput) : (s.mapSenseInputs f).hold = s.hold := rfl
@[simp] theorem State.mapSenseInputs_resetCause (s : State) (f : Fin 4 → SenseInput → SenseInput) : (s.mapSenseInputs f).resetCause = s.resetCause := rfl
@[simp] theorem State.mapSenseInputs_tick (s : State) (f : Fin 4 → SenseInput → SenseInput) : (s.mapSenseInputs f).tick = s.tick := rfl
@[simp] theorem State.mapSenseInputs_channels (s : State) (f : Fin 4 → SenseInput → SenseInput) : (s.mapSenseInputs f).channels = s.channels := rfl
@[simp] theorem State.mapSenseInputs_lanes (s : State) (f : Fin 4 → SenseInput → SenseInput) : (s.mapSenseInputs f).lanes = s.lanes := rfl
@[simp] theorem State.mapSenseInputs_slots (s : State) (f : Fin 4 → SenseInput → SenseInput) : (s.mapSenseInputs f).slots = s.slots := rfl
@[simp] theorem State.mapSenseInputs_gates (s : State) (f : Fin 4 → SenseInput → SenseInput) : (s.mapSenseInputs f).gates = s.gates := rfl
@[simp] theorem State.mapSenseInputs_domains (s : State) (f : Fin 4 → SenseInput → SenseInput) : (s.mapSenseInputs f).domains = s.domains := rfl
@[simp] theorem State.mapSenseInputs_permit (s : State) (f : Fin 4 → SenseInput → SenseInput) : (s.mapSenseInputs f).permit = s.permit := rfl
@[simp] theorem State.mapSenseInputs_lastSample (s : State) (f : Fin 4 → SenseInput → SenseInput) : (s.mapSenseInputs f).lastSample = s.lastSample := rfl
@[simp] theorem State.mapSenseInputs_tripsDue (s : State) (f : Fin 4 → SenseInput → SenseInput) : (s.mapSenseInputs f).tripsDue = s.tripsDue := rfl
@[simp] theorem State.mapSenseInputs_streams (s : State) (f : Fin 4 → SenseInput → SenseInput) : (s.mapSenseInputs f).streams = s.streams := rfl
@[simp] theorem State.mapSenseInputs_engine (s : State) (f : Fin 4 → SenseInput → SenseInput) : (s.mapSenseInputs f).engine = s.engine := rfl
@[simp] theorem State.mapSenseInputs_configError (s : State) (f : Fin 4 → SenseInput → SenseInput) : (s.mapSenseInputs f).configError = s.configError := rfl
@[simp] theorem State.mapSenseInputs_configRead (s : State) (f : Fin 4 → SenseInput → SenseInput) : (s.mapSenseInputs f).configRead = s.configRead := rfl
@[simp] theorem State.mapSenseInputs_sqs (s : State) (f : Fin 4 → SenseInput → SenseInput) : (s.mapSenseInputs f).sqs = s.sqs := rfl
@[simp] theorem State.mapSenseInputs_fetch (s : State) (f : Fin 4 → SenseInput → SenseInput) : (s.mapSenseInputs f).fetch = s.fetch := rfl
@[simp] theorem State.mapSenseInputs_urgentPointer (s : State) (f : Fin 4 → SenseInput → SenseInput) : (s.mapSenseInputs f).urgentPointer = s.urgentPointer := rfl
@[simp] theorem State.mapSenseInputs_normalPointer (s : State) (f : Fin 4 → SenseInput → SenseInput) : (s.mapSenseInputs f).normalPointer = s.normalPointer := rfl
@[simp] theorem State.mapSenseInputs_burstCredit (s : State) (f : Fin 4 → SenseInput → SenseInput) : (s.mapSenseInputs f).burstCredit = s.burstCredit := rfl
@[simp] theorem State.mapSenseInputs_postError (s : State) (f : Fin 4 → SenseInput → SenseInput) : (s.mapSenseInputs f).postError = s.postError := rfl
@[simp] theorem State.mapSenseInputs_releaseError (s : State) (f : Fin 4 → SenseInput → SenseInput) : (s.mapSenseInputs f).releaseError = s.releaseError := rfl
@[simp] theorem State.mapSenseInputs_cqs (s : State) (f : Fin 4 → SenseInput → SenseInput) : (s.mapSenseInputs f).cqs = s.cqs := rfl
@[simp] theorem State.mapSenseInputs_eventCq (s : State) (f : Fin 4 → SenseInput → SenseInput) : (s.mapSenseInputs f).eventCq = s.eventCq := rfl
@[simp] theorem State.mapSenseInputs_pendingList (s : State) (f : Fin 4 → SenseInput → SenseInput) : (s.mapSenseInputs f).pendingList = s.pendingList := rfl
@[simp] theorem State.mapSenseInputs_lanePointer (s : State) (f : Fin 4 → SenseInput → SenseInput) : (s.mapSenseInputs f).lanePointer = s.lanePointer := rfl
@[simp] theorem State.mapSenseInputs_cqTurn (s : State) (f : Fin 4 → SenseInput → SenseInput) : (s.mapSenseInputs f).cqTurn = s.cqTurn := rfl
@[simp] theorem State.mapSenseInputs_events (s : State) (f : Fin 4 → SenseInput → SenseInput) : (s.mapSenseInputs f).events = s.events := rfl
@[simp] theorem State.mapSenseInputs_cause (s : State) (f : Fin 4 → SenseInput → SenseInput) : (s.mapSenseInputs f).cause = s.cause := rfl
@[simp] theorem State.mapSenseInputs_enables (s : State) (f : Fin 4 → SenseInput → SenseInput) : (s.mapSenseInputs f).enables = s.enables := rfl
@[simp] theorem State.mapSenseInputs_linkErrors (s : State) (f : Fin 4 → SenseInput → SenseInput) : (s.mapSenseInputs f).linkErrors = s.linkErrors := rfl
@[simp] theorem State.mapSenseInputs_linkQueue (s : State) (f : Fin 4 → SenseInput → SenseInput) : (s.mapSenseInputs f).linkQueue = s.linkQueue := rfl
@[simp] theorem State.mapSenseInputs_openRead (s : State) (f : Fin 4 → SenseInput → SenseInput) : (s.mapSenseInputs f).openRead = s.openRead := rfl
@[simp] theorem State.mapSenseInputs_miso (s : State) (f : Fin 4 → SenseInput → SenseInput) : (s.mapSenseInputs f).miso = s.miso := rfl
@[simp] theorem State.mapSenseInputs_misoBits (s : State) (f : Fin 4 → SenseInput → SenseInput) : (s.mapSenseInputs f).misoBits = s.misoBits := rfl
@[simp] theorem State.mapSenseInputs_awaitCsnRise (s : State) (f : Fin 4 → SenseInput → SenseInput) : (s.mapSenseInputs f).awaitCsnRise = s.awaitCsnRise := rfl
@[simp] theorem State.mapSenseInputs_xm (s : State) (f : Fin 4 → SenseInput → SenseInput) : (s.mapSenseInputs f).xm = s.xm := rfl
@[simp] theorem State.mapSenseInputs_rotation (s : State) (f : Fin 4 → SenseInput → SenseInput) : (s.mapSenseInputs f).rotation = s.rotation := rfl
@[simp] theorem State.mapSenseInputs_channel (s : State) (f : Fin 4 → SenseInput → SenseInput) (c' : Fin 6) :
    (s.mapSenseInputs f).channel c' = s.channel c' := rfl
@[simp] theorem State.mapSenseInputs_lane (s : State) (f : Fin 4 → SenseInput → SenseInput) (l' : Fin 4) :
    (s.mapSenseInputs f).lane l' = s.lane l' := rfl
@[simp] theorem State.mapSenseInputs_slot (s : State) (f : Fin 4 → SenseInput → SenseInput) (n' : Fin 16) :
    (s.mapSenseInputs f).slot n' = s.slot n' := rfl
@[simp] theorem State.mapSenseInputs_gate (s : State) (f : Fin 4 → SenseInput → SenseInput) (g' : Fin 4) :
    (s.mapSenseInputs f).gate g' = s.gate g' := rfl
@[simp] theorem State.mapSenseInputs_domain (s : State) (f : Fin 4 → SenseInput → SenseInput) (d' : Fin 3) :
    (s.mapSenseInputs f).domain d' = s.domain d' := rfl
@[simp] theorem State.mapSenseInputs_stream (s : State) (f : Fin 4 → SenseInput → SenseInput) (n' : Fin 2) :
    (s.mapSenseInputs f).stream n' = s.stream n' := rfl
@[simp] theorem State.mapSenseInputs_sq (s : State) (f : Fin 4 → SenseInput → SenseInput) (q' : Fin 4) :
    (s.mapSenseInputs f).sq q' = s.sq q' := rfl
@[simp] theorem State.mapSenseInputs_cq (s : State) (f : Fin 4 → SenseInput → SenseInput) (q' : Fin 2) :
    (s.mapSenseInputs f).cq q' = s.cq q' := rfl
@[simp] theorem State.mapSenseInputs_event (s : State) (f : Fin 4 → SenseInput → SenseInput) (e' : Fin 12) :
    (s.mapSenseInputs f).event e' = s.event e' := rfl
@[simp] theorem State.mapSenseInputs_inReset (s : State) (f : Fin 4 → SenseInput → SenseInput) : (s.mapSenseInputs f).inReset = s.inReset := rfl
@[simp] theorem State.mapSenseInputs_senseInput (s : State) (f : Fin 4 → SenseInput → SenseInput) (j : Fin 4) :
    (s.mapSenseInputs f).senseInput j = f j (s.senseInput j) := by
  match j with
  | ⟨0, _⟩ => rfl
  | ⟨1, _⟩ => rfl
  | ⟨2, _⟩ => rfl
  | ⟨3, _⟩ => rfl

/-! ### updStream -/

@[simp] theorem State.updStream_pending (s : State) (i : Fin 2) (f : CaptureStream → CaptureStream) : (s.updStream i f).pending = s.pending := rfl
@[simp] theorem State.updStream_hold (s : State) (i : Fin 2) (f : CaptureStream → CaptureStream) : (s.updStream i f).hold = s.hold := rfl
@[simp] theorem State.updStream_resetCause (s : State) (i : Fin 2) (f : CaptureStream → CaptureStream) : (s.updStream i f).resetCause = s.resetCause := rfl
@[simp] theorem State.updStream_tick (s : State) (i : Fin 2) (f : CaptureStream → CaptureStream) : (s.updStream i f).tick = s.tick := rfl
@[simp] theorem State.updStream_channels (s : State) (i : Fin 2) (f : CaptureStream → CaptureStream) : (s.updStream i f).channels = s.channels := rfl
@[simp] theorem State.updStream_lanes (s : State) (i : Fin 2) (f : CaptureStream → CaptureStream) : (s.updStream i f).lanes = s.lanes := rfl
@[simp] theorem State.updStream_slots (s : State) (i : Fin 2) (f : CaptureStream → CaptureStream) : (s.updStream i f).slots = s.slots := rfl
@[simp] theorem State.updStream_gates (s : State) (i : Fin 2) (f : CaptureStream → CaptureStream) : (s.updStream i f).gates = s.gates := rfl
@[simp] theorem State.updStream_domains (s : State) (i : Fin 2) (f : CaptureStream → CaptureStream) : (s.updStream i f).domains = s.domains := rfl
@[simp] theorem State.updStream_permit (s : State) (i : Fin 2) (f : CaptureStream → CaptureStream) : (s.updStream i f).permit = s.permit := rfl
@[simp] theorem State.updStream_lastSample (s : State) (i : Fin 2) (f : CaptureStream → CaptureStream) : (s.updStream i f).lastSample = s.lastSample := rfl
@[simp] theorem State.updStream_senseInputs (s : State) (i : Fin 2) (f : CaptureStream → CaptureStream) : (s.updStream i f).senseInputs = s.senseInputs := rfl
@[simp] theorem State.updStream_tripsDue (s : State) (i : Fin 2) (f : CaptureStream → CaptureStream) : (s.updStream i f).tripsDue = s.tripsDue := rfl
@[simp] theorem State.updStream_engine (s : State) (i : Fin 2) (f : CaptureStream → CaptureStream) : (s.updStream i f).engine = s.engine := rfl
@[simp] theorem State.updStream_configError (s : State) (i : Fin 2) (f : CaptureStream → CaptureStream) : (s.updStream i f).configError = s.configError := rfl
@[simp] theorem State.updStream_configRead (s : State) (i : Fin 2) (f : CaptureStream → CaptureStream) : (s.updStream i f).configRead = s.configRead := rfl
@[simp] theorem State.updStream_sqs (s : State) (i : Fin 2) (f : CaptureStream → CaptureStream) : (s.updStream i f).sqs = s.sqs := rfl
@[simp] theorem State.updStream_fetch (s : State) (i : Fin 2) (f : CaptureStream → CaptureStream) : (s.updStream i f).fetch = s.fetch := rfl
@[simp] theorem State.updStream_urgentPointer (s : State) (i : Fin 2) (f : CaptureStream → CaptureStream) : (s.updStream i f).urgentPointer = s.urgentPointer := rfl
@[simp] theorem State.updStream_normalPointer (s : State) (i : Fin 2) (f : CaptureStream → CaptureStream) : (s.updStream i f).normalPointer = s.normalPointer := rfl
@[simp] theorem State.updStream_burstCredit (s : State) (i : Fin 2) (f : CaptureStream → CaptureStream) : (s.updStream i f).burstCredit = s.burstCredit := rfl
@[simp] theorem State.updStream_postError (s : State) (i : Fin 2) (f : CaptureStream → CaptureStream) : (s.updStream i f).postError = s.postError := rfl
@[simp] theorem State.updStream_releaseError (s : State) (i : Fin 2) (f : CaptureStream → CaptureStream) : (s.updStream i f).releaseError = s.releaseError := rfl
@[simp] theorem State.updStream_cqs (s : State) (i : Fin 2) (f : CaptureStream → CaptureStream) : (s.updStream i f).cqs = s.cqs := rfl
@[simp] theorem State.updStream_eventCq (s : State) (i : Fin 2) (f : CaptureStream → CaptureStream) : (s.updStream i f).eventCq = s.eventCq := rfl
@[simp] theorem State.updStream_pendingList (s : State) (i : Fin 2) (f : CaptureStream → CaptureStream) : (s.updStream i f).pendingList = s.pendingList := rfl
@[simp] theorem State.updStream_lanePointer (s : State) (i : Fin 2) (f : CaptureStream → CaptureStream) : (s.updStream i f).lanePointer = s.lanePointer := rfl
@[simp] theorem State.updStream_cqTurn (s : State) (i : Fin 2) (f : CaptureStream → CaptureStream) : (s.updStream i f).cqTurn = s.cqTurn := rfl
@[simp] theorem State.updStream_events (s : State) (i : Fin 2) (f : CaptureStream → CaptureStream) : (s.updStream i f).events = s.events := rfl
@[simp] theorem State.updStream_cause (s : State) (i : Fin 2) (f : CaptureStream → CaptureStream) : (s.updStream i f).cause = s.cause := rfl
@[simp] theorem State.updStream_enables (s : State) (i : Fin 2) (f : CaptureStream → CaptureStream) : (s.updStream i f).enables = s.enables := rfl
@[simp] theorem State.updStream_linkErrors (s : State) (i : Fin 2) (f : CaptureStream → CaptureStream) : (s.updStream i f).linkErrors = s.linkErrors := rfl
@[simp] theorem State.updStream_linkQueue (s : State) (i : Fin 2) (f : CaptureStream → CaptureStream) : (s.updStream i f).linkQueue = s.linkQueue := rfl
@[simp] theorem State.updStream_openRead (s : State) (i : Fin 2) (f : CaptureStream → CaptureStream) : (s.updStream i f).openRead = s.openRead := rfl
@[simp] theorem State.updStream_miso (s : State) (i : Fin 2) (f : CaptureStream → CaptureStream) : (s.updStream i f).miso = s.miso := rfl
@[simp] theorem State.updStream_misoBits (s : State) (i : Fin 2) (f : CaptureStream → CaptureStream) : (s.updStream i f).misoBits = s.misoBits := rfl
@[simp] theorem State.updStream_awaitCsnRise (s : State) (i : Fin 2) (f : CaptureStream → CaptureStream) : (s.updStream i f).awaitCsnRise = s.awaitCsnRise := rfl
@[simp] theorem State.updStream_xm (s : State) (i : Fin 2) (f : CaptureStream → CaptureStream) : (s.updStream i f).xm = s.xm := rfl
@[simp] theorem State.updStream_rotation (s : State) (i : Fin 2) (f : CaptureStream → CaptureStream) : (s.updStream i f).rotation = s.rotation := rfl
@[simp] theorem State.updStream_channel (s : State) (i : Fin 2) (f : CaptureStream → CaptureStream) (c' : Fin 6) :
    (s.updStream i f).channel c' = s.channel c' := rfl
@[simp] theorem State.updStream_lane (s : State) (i : Fin 2) (f : CaptureStream → CaptureStream) (l' : Fin 4) :
    (s.updStream i f).lane l' = s.lane l' := rfl
@[simp] theorem State.updStream_slot (s : State) (i : Fin 2) (f : CaptureStream → CaptureStream) (n' : Fin 16) :
    (s.updStream i f).slot n' = s.slot n' := rfl
@[simp] theorem State.updStream_gate (s : State) (i : Fin 2) (f : CaptureStream → CaptureStream) (g' : Fin 4) :
    (s.updStream i f).gate g' = s.gate g' := rfl
@[simp] theorem State.updStream_domain (s : State) (i : Fin 2) (f : CaptureStream → CaptureStream) (d' : Fin 3) :
    (s.updStream i f).domain d' = s.domain d' := rfl
@[simp] theorem State.updStream_senseInput (s : State) (i : Fin 2) (f : CaptureStream → CaptureStream) (i' : Fin 4) :
    (s.updStream i f).senseInput i' = s.senseInput i' := rfl
@[simp] theorem State.updStream_sq (s : State) (i : Fin 2) (f : CaptureStream → CaptureStream) (q' : Fin 4) :
    (s.updStream i f).sq q' = s.sq q' := rfl
@[simp] theorem State.updStream_cq (s : State) (i : Fin 2) (f : CaptureStream → CaptureStream) (q' : Fin 2) :
    (s.updStream i f).cq q' = s.cq q' := rfl
@[simp] theorem State.updStream_event (s : State) (i : Fin 2) (f : CaptureStream → CaptureStream) (e' : Fin 12) :
    (s.updStream i f).event e' = s.event e' := rfl
@[simp] theorem State.updStream_inReset (s : State) (i : Fin 2) (f : CaptureStream → CaptureStream) : (s.updStream i f).inReset = s.inReset := rfl
theorem State.updStream_stream (s : State) (i : Fin 2) (f : CaptureStream → CaptureStream) (j : Fin 2) :
    (s.updStream i f).stream j = if j = i then f (s.stream i) else s.stream j := by
  simp only [State.updStream, State.stream, Fin.getElem_fin, Vector.getElem_set]
  by_cases h : i.val = j.val
  · simp [Fin.ext h]
  · simp [h, Fin.ext_iff, Ne.symm h]
@[simp] theorem State.updStream_stream_self (s : State) (i : Fin 2) (f : CaptureStream → CaptureStream) :
    (s.updStream i f).stream i = f (s.stream i) := by simp [State.updStream_stream]
@[simp] theorem State.updStream_stream_ne (s : State) (i : Fin 2) (f : CaptureStream → CaptureStream) (j : Fin 2) (h : j ≠ i) :
    (s.updStream i f).stream j = s.stream j := by simp [State.updStream_stream, h]

/-! ### updSq -/

@[simp] theorem State.updSq_pending (s : State) (i : Fin 4) (f : Sq → Sq) : (s.updSq i f).pending = s.pending := rfl
@[simp] theorem State.updSq_hold (s : State) (i : Fin 4) (f : Sq → Sq) : (s.updSq i f).hold = s.hold := rfl
@[simp] theorem State.updSq_resetCause (s : State) (i : Fin 4) (f : Sq → Sq) : (s.updSq i f).resetCause = s.resetCause := rfl
@[simp] theorem State.updSq_tick (s : State) (i : Fin 4) (f : Sq → Sq) : (s.updSq i f).tick = s.tick := rfl
@[simp] theorem State.updSq_channels (s : State) (i : Fin 4) (f : Sq → Sq) : (s.updSq i f).channels = s.channels := rfl
@[simp] theorem State.updSq_lanes (s : State) (i : Fin 4) (f : Sq → Sq) : (s.updSq i f).lanes = s.lanes := rfl
@[simp] theorem State.updSq_slots (s : State) (i : Fin 4) (f : Sq → Sq) : (s.updSq i f).slots = s.slots := rfl
@[simp] theorem State.updSq_gates (s : State) (i : Fin 4) (f : Sq → Sq) : (s.updSq i f).gates = s.gates := rfl
@[simp] theorem State.updSq_domains (s : State) (i : Fin 4) (f : Sq → Sq) : (s.updSq i f).domains = s.domains := rfl
@[simp] theorem State.updSq_permit (s : State) (i : Fin 4) (f : Sq → Sq) : (s.updSq i f).permit = s.permit := rfl
@[simp] theorem State.updSq_lastSample (s : State) (i : Fin 4) (f : Sq → Sq) : (s.updSq i f).lastSample = s.lastSample := rfl
@[simp] theorem State.updSq_senseInputs (s : State) (i : Fin 4) (f : Sq → Sq) : (s.updSq i f).senseInputs = s.senseInputs := rfl
@[simp] theorem State.updSq_tripsDue (s : State) (i : Fin 4) (f : Sq → Sq) : (s.updSq i f).tripsDue = s.tripsDue := rfl
@[simp] theorem State.updSq_streams (s : State) (i : Fin 4) (f : Sq → Sq) : (s.updSq i f).streams = s.streams := rfl
@[simp] theorem State.updSq_engine (s : State) (i : Fin 4) (f : Sq → Sq) : (s.updSq i f).engine = s.engine := rfl
@[simp] theorem State.updSq_configError (s : State) (i : Fin 4) (f : Sq → Sq) : (s.updSq i f).configError = s.configError := rfl
@[simp] theorem State.updSq_configRead (s : State) (i : Fin 4) (f : Sq → Sq) : (s.updSq i f).configRead = s.configRead := rfl
@[simp] theorem State.updSq_fetch (s : State) (i : Fin 4) (f : Sq → Sq) : (s.updSq i f).fetch = s.fetch := rfl
@[simp] theorem State.updSq_urgentPointer (s : State) (i : Fin 4) (f : Sq → Sq) : (s.updSq i f).urgentPointer = s.urgentPointer := rfl
@[simp] theorem State.updSq_normalPointer (s : State) (i : Fin 4) (f : Sq → Sq) : (s.updSq i f).normalPointer = s.normalPointer := rfl
@[simp] theorem State.updSq_burstCredit (s : State) (i : Fin 4) (f : Sq → Sq) : (s.updSq i f).burstCredit = s.burstCredit := rfl
@[simp] theorem State.updSq_postError (s : State) (i : Fin 4) (f : Sq → Sq) : (s.updSq i f).postError = s.postError := rfl
@[simp] theorem State.updSq_releaseError (s : State) (i : Fin 4) (f : Sq → Sq) : (s.updSq i f).releaseError = s.releaseError := rfl
@[simp] theorem State.updSq_cqs (s : State) (i : Fin 4) (f : Sq → Sq) : (s.updSq i f).cqs = s.cqs := rfl
@[simp] theorem State.updSq_eventCq (s : State) (i : Fin 4) (f : Sq → Sq) : (s.updSq i f).eventCq = s.eventCq := rfl
@[simp] theorem State.updSq_pendingList (s : State) (i : Fin 4) (f : Sq → Sq) : (s.updSq i f).pendingList = s.pendingList := rfl
@[simp] theorem State.updSq_lanePointer (s : State) (i : Fin 4) (f : Sq → Sq) : (s.updSq i f).lanePointer = s.lanePointer := rfl
@[simp] theorem State.updSq_cqTurn (s : State) (i : Fin 4) (f : Sq → Sq) : (s.updSq i f).cqTurn = s.cqTurn := rfl
@[simp] theorem State.updSq_events (s : State) (i : Fin 4) (f : Sq → Sq) : (s.updSq i f).events = s.events := rfl
@[simp] theorem State.updSq_cause (s : State) (i : Fin 4) (f : Sq → Sq) : (s.updSq i f).cause = s.cause := rfl
@[simp] theorem State.updSq_enables (s : State) (i : Fin 4) (f : Sq → Sq) : (s.updSq i f).enables = s.enables := rfl
@[simp] theorem State.updSq_linkErrors (s : State) (i : Fin 4) (f : Sq → Sq) : (s.updSq i f).linkErrors = s.linkErrors := rfl
@[simp] theorem State.updSq_linkQueue (s : State) (i : Fin 4) (f : Sq → Sq) : (s.updSq i f).linkQueue = s.linkQueue := rfl
@[simp] theorem State.updSq_openRead (s : State) (i : Fin 4) (f : Sq → Sq) : (s.updSq i f).openRead = s.openRead := rfl
@[simp] theorem State.updSq_miso (s : State) (i : Fin 4) (f : Sq → Sq) : (s.updSq i f).miso = s.miso := rfl
@[simp] theorem State.updSq_misoBits (s : State) (i : Fin 4) (f : Sq → Sq) : (s.updSq i f).misoBits = s.misoBits := rfl
@[simp] theorem State.updSq_awaitCsnRise (s : State) (i : Fin 4) (f : Sq → Sq) : (s.updSq i f).awaitCsnRise = s.awaitCsnRise := rfl
@[simp] theorem State.updSq_xm (s : State) (i : Fin 4) (f : Sq → Sq) : (s.updSq i f).xm = s.xm := rfl
@[simp] theorem State.updSq_rotation (s : State) (i : Fin 4) (f : Sq → Sq) : (s.updSq i f).rotation = s.rotation := rfl
@[simp] theorem State.updSq_channel (s : State) (i : Fin 4) (f : Sq → Sq) (c' : Fin 6) :
    (s.updSq i f).channel c' = s.channel c' := rfl
@[simp] theorem State.updSq_lane (s : State) (i : Fin 4) (f : Sq → Sq) (l' : Fin 4) :
    (s.updSq i f).lane l' = s.lane l' := rfl
@[simp] theorem State.updSq_slot (s : State) (i : Fin 4) (f : Sq → Sq) (n' : Fin 16) :
    (s.updSq i f).slot n' = s.slot n' := rfl
@[simp] theorem State.updSq_gate (s : State) (i : Fin 4) (f : Sq → Sq) (g' : Fin 4) :
    (s.updSq i f).gate g' = s.gate g' := rfl
@[simp] theorem State.updSq_domain (s : State) (i : Fin 4) (f : Sq → Sq) (d' : Fin 3) :
    (s.updSq i f).domain d' = s.domain d' := rfl
@[simp] theorem State.updSq_senseInput (s : State) (i : Fin 4) (f : Sq → Sq) (i' : Fin 4) :
    (s.updSq i f).senseInput i' = s.senseInput i' := rfl
@[simp] theorem State.updSq_stream (s : State) (i : Fin 4) (f : Sq → Sq) (n' : Fin 2) :
    (s.updSq i f).stream n' = s.stream n' := rfl
@[simp] theorem State.updSq_cq (s : State) (i : Fin 4) (f : Sq → Sq) (q' : Fin 2) :
    (s.updSq i f).cq q' = s.cq q' := rfl
@[simp] theorem State.updSq_event (s : State) (i : Fin 4) (f : Sq → Sq) (e' : Fin 12) :
    (s.updSq i f).event e' = s.event e' := rfl
@[simp] theorem State.updSq_inReset (s : State) (i : Fin 4) (f : Sq → Sq) : (s.updSq i f).inReset = s.inReset := rfl
theorem State.updSq_sq (s : State) (i : Fin 4) (f : Sq → Sq) (j : Fin 4) :
    (s.updSq i f).sq j = if j = i then f (s.sq i) else s.sq j := by
  simp only [State.updSq, State.sq, Fin.getElem_fin, Vector.getElem_set]
  by_cases h : i.val = j.val
  · simp [Fin.ext h]
  · simp [h, Fin.ext_iff, Ne.symm h]
@[simp] theorem State.updSq_sq_self (s : State) (i : Fin 4) (f : Sq → Sq) :
    (s.updSq i f).sq i = f (s.sq i) := by simp [State.updSq_sq]
@[simp] theorem State.updSq_sq_ne (s : State) (i : Fin 4) (f : Sq → Sq) (j : Fin 4) (h : j ≠ i) :
    (s.updSq i f).sq j = s.sq j := by simp [State.updSq_sq, h]

/-! ### mapSqs -/

@[simp] theorem State.mapSqs_pending (s : State) (f : Fin 4 → Sq → Sq) : (s.mapSqs f).pending = s.pending := rfl
@[simp] theorem State.mapSqs_hold (s : State) (f : Fin 4 → Sq → Sq) : (s.mapSqs f).hold = s.hold := rfl
@[simp] theorem State.mapSqs_resetCause (s : State) (f : Fin 4 → Sq → Sq) : (s.mapSqs f).resetCause = s.resetCause := rfl
@[simp] theorem State.mapSqs_tick (s : State) (f : Fin 4 → Sq → Sq) : (s.mapSqs f).tick = s.tick := rfl
@[simp] theorem State.mapSqs_channels (s : State) (f : Fin 4 → Sq → Sq) : (s.mapSqs f).channels = s.channels := rfl
@[simp] theorem State.mapSqs_lanes (s : State) (f : Fin 4 → Sq → Sq) : (s.mapSqs f).lanes = s.lanes := rfl
@[simp] theorem State.mapSqs_slots (s : State) (f : Fin 4 → Sq → Sq) : (s.mapSqs f).slots = s.slots := rfl
@[simp] theorem State.mapSqs_gates (s : State) (f : Fin 4 → Sq → Sq) : (s.mapSqs f).gates = s.gates := rfl
@[simp] theorem State.mapSqs_domains (s : State) (f : Fin 4 → Sq → Sq) : (s.mapSqs f).domains = s.domains := rfl
@[simp] theorem State.mapSqs_permit (s : State) (f : Fin 4 → Sq → Sq) : (s.mapSqs f).permit = s.permit := rfl
@[simp] theorem State.mapSqs_lastSample (s : State) (f : Fin 4 → Sq → Sq) : (s.mapSqs f).lastSample = s.lastSample := rfl
@[simp] theorem State.mapSqs_senseInputs (s : State) (f : Fin 4 → Sq → Sq) : (s.mapSqs f).senseInputs = s.senseInputs := rfl
@[simp] theorem State.mapSqs_tripsDue (s : State) (f : Fin 4 → Sq → Sq) : (s.mapSqs f).tripsDue = s.tripsDue := rfl
@[simp] theorem State.mapSqs_streams (s : State) (f : Fin 4 → Sq → Sq) : (s.mapSqs f).streams = s.streams := rfl
@[simp] theorem State.mapSqs_engine (s : State) (f : Fin 4 → Sq → Sq) : (s.mapSqs f).engine = s.engine := rfl
@[simp] theorem State.mapSqs_configError (s : State) (f : Fin 4 → Sq → Sq) : (s.mapSqs f).configError = s.configError := rfl
@[simp] theorem State.mapSqs_configRead (s : State) (f : Fin 4 → Sq → Sq) : (s.mapSqs f).configRead = s.configRead := rfl
@[simp] theorem State.mapSqs_fetch (s : State) (f : Fin 4 → Sq → Sq) : (s.mapSqs f).fetch = s.fetch := rfl
@[simp] theorem State.mapSqs_urgentPointer (s : State) (f : Fin 4 → Sq → Sq) : (s.mapSqs f).urgentPointer = s.urgentPointer := rfl
@[simp] theorem State.mapSqs_normalPointer (s : State) (f : Fin 4 → Sq → Sq) : (s.mapSqs f).normalPointer = s.normalPointer := rfl
@[simp] theorem State.mapSqs_burstCredit (s : State) (f : Fin 4 → Sq → Sq) : (s.mapSqs f).burstCredit = s.burstCredit := rfl
@[simp] theorem State.mapSqs_postError (s : State) (f : Fin 4 → Sq → Sq) : (s.mapSqs f).postError = s.postError := rfl
@[simp] theorem State.mapSqs_releaseError (s : State) (f : Fin 4 → Sq → Sq) : (s.mapSqs f).releaseError = s.releaseError := rfl
@[simp] theorem State.mapSqs_cqs (s : State) (f : Fin 4 → Sq → Sq) : (s.mapSqs f).cqs = s.cqs := rfl
@[simp] theorem State.mapSqs_eventCq (s : State) (f : Fin 4 → Sq → Sq) : (s.mapSqs f).eventCq = s.eventCq := rfl
@[simp] theorem State.mapSqs_pendingList (s : State) (f : Fin 4 → Sq → Sq) : (s.mapSqs f).pendingList = s.pendingList := rfl
@[simp] theorem State.mapSqs_lanePointer (s : State) (f : Fin 4 → Sq → Sq) : (s.mapSqs f).lanePointer = s.lanePointer := rfl
@[simp] theorem State.mapSqs_cqTurn (s : State) (f : Fin 4 → Sq → Sq) : (s.mapSqs f).cqTurn = s.cqTurn := rfl
@[simp] theorem State.mapSqs_events (s : State) (f : Fin 4 → Sq → Sq) : (s.mapSqs f).events = s.events := rfl
@[simp] theorem State.mapSqs_cause (s : State) (f : Fin 4 → Sq → Sq) : (s.mapSqs f).cause = s.cause := rfl
@[simp] theorem State.mapSqs_enables (s : State) (f : Fin 4 → Sq → Sq) : (s.mapSqs f).enables = s.enables := rfl
@[simp] theorem State.mapSqs_linkErrors (s : State) (f : Fin 4 → Sq → Sq) : (s.mapSqs f).linkErrors = s.linkErrors := rfl
@[simp] theorem State.mapSqs_linkQueue (s : State) (f : Fin 4 → Sq → Sq) : (s.mapSqs f).linkQueue = s.linkQueue := rfl
@[simp] theorem State.mapSqs_openRead (s : State) (f : Fin 4 → Sq → Sq) : (s.mapSqs f).openRead = s.openRead := rfl
@[simp] theorem State.mapSqs_miso (s : State) (f : Fin 4 → Sq → Sq) : (s.mapSqs f).miso = s.miso := rfl
@[simp] theorem State.mapSqs_misoBits (s : State) (f : Fin 4 → Sq → Sq) : (s.mapSqs f).misoBits = s.misoBits := rfl
@[simp] theorem State.mapSqs_awaitCsnRise (s : State) (f : Fin 4 → Sq → Sq) : (s.mapSqs f).awaitCsnRise = s.awaitCsnRise := rfl
@[simp] theorem State.mapSqs_xm (s : State) (f : Fin 4 → Sq → Sq) : (s.mapSqs f).xm = s.xm := rfl
@[simp] theorem State.mapSqs_rotation (s : State) (f : Fin 4 → Sq → Sq) : (s.mapSqs f).rotation = s.rotation := rfl
@[simp] theorem State.mapSqs_channel (s : State) (f : Fin 4 → Sq → Sq) (c' : Fin 6) :
    (s.mapSqs f).channel c' = s.channel c' := rfl
@[simp] theorem State.mapSqs_lane (s : State) (f : Fin 4 → Sq → Sq) (l' : Fin 4) :
    (s.mapSqs f).lane l' = s.lane l' := rfl
@[simp] theorem State.mapSqs_slot (s : State) (f : Fin 4 → Sq → Sq) (n' : Fin 16) :
    (s.mapSqs f).slot n' = s.slot n' := rfl
@[simp] theorem State.mapSqs_gate (s : State) (f : Fin 4 → Sq → Sq) (g' : Fin 4) :
    (s.mapSqs f).gate g' = s.gate g' := rfl
@[simp] theorem State.mapSqs_domain (s : State) (f : Fin 4 → Sq → Sq) (d' : Fin 3) :
    (s.mapSqs f).domain d' = s.domain d' := rfl
@[simp] theorem State.mapSqs_senseInput (s : State) (f : Fin 4 → Sq → Sq) (i' : Fin 4) :
    (s.mapSqs f).senseInput i' = s.senseInput i' := rfl
@[simp] theorem State.mapSqs_stream (s : State) (f : Fin 4 → Sq → Sq) (n' : Fin 2) :
    (s.mapSqs f).stream n' = s.stream n' := rfl
@[simp] theorem State.mapSqs_cq (s : State) (f : Fin 4 → Sq → Sq) (q' : Fin 2) :
    (s.mapSqs f).cq q' = s.cq q' := rfl
@[simp] theorem State.mapSqs_event (s : State) (f : Fin 4 → Sq → Sq) (e' : Fin 12) :
    (s.mapSqs f).event e' = s.event e' := rfl
@[simp] theorem State.mapSqs_inReset (s : State) (f : Fin 4 → Sq → Sq) : (s.mapSqs f).inReset = s.inReset := rfl
@[simp] theorem State.mapSqs_sq (s : State) (f : Fin 4 → Sq → Sq) (j : Fin 4) :
    (s.mapSqs f).sq j = f j (s.sq j) := by
  match j with
  | ⟨0, _⟩ => rfl
  | ⟨1, _⟩ => rfl
  | ⟨2, _⟩ => rfl
  | ⟨3, _⟩ => rfl

/-! ### updCq -/

@[simp] theorem State.updCq_pending (s : State) (i : Fin 2) (f : Cq → Cq) : (s.updCq i f).pending = s.pending := rfl
@[simp] theorem State.updCq_hold (s : State) (i : Fin 2) (f : Cq → Cq) : (s.updCq i f).hold = s.hold := rfl
@[simp] theorem State.updCq_resetCause (s : State) (i : Fin 2) (f : Cq → Cq) : (s.updCq i f).resetCause = s.resetCause := rfl
@[simp] theorem State.updCq_tick (s : State) (i : Fin 2) (f : Cq → Cq) : (s.updCq i f).tick = s.tick := rfl
@[simp] theorem State.updCq_channels (s : State) (i : Fin 2) (f : Cq → Cq) : (s.updCq i f).channels = s.channels := rfl
@[simp] theorem State.updCq_lanes (s : State) (i : Fin 2) (f : Cq → Cq) : (s.updCq i f).lanes = s.lanes := rfl
@[simp] theorem State.updCq_slots (s : State) (i : Fin 2) (f : Cq → Cq) : (s.updCq i f).slots = s.slots := rfl
@[simp] theorem State.updCq_gates (s : State) (i : Fin 2) (f : Cq → Cq) : (s.updCq i f).gates = s.gates := rfl
@[simp] theorem State.updCq_domains (s : State) (i : Fin 2) (f : Cq → Cq) : (s.updCq i f).domains = s.domains := rfl
@[simp] theorem State.updCq_permit (s : State) (i : Fin 2) (f : Cq → Cq) : (s.updCq i f).permit = s.permit := rfl
@[simp] theorem State.updCq_lastSample (s : State) (i : Fin 2) (f : Cq → Cq) : (s.updCq i f).lastSample = s.lastSample := rfl
@[simp] theorem State.updCq_senseInputs (s : State) (i : Fin 2) (f : Cq → Cq) : (s.updCq i f).senseInputs = s.senseInputs := rfl
@[simp] theorem State.updCq_tripsDue (s : State) (i : Fin 2) (f : Cq → Cq) : (s.updCq i f).tripsDue = s.tripsDue := rfl
@[simp] theorem State.updCq_streams (s : State) (i : Fin 2) (f : Cq → Cq) : (s.updCq i f).streams = s.streams := rfl
@[simp] theorem State.updCq_engine (s : State) (i : Fin 2) (f : Cq → Cq) : (s.updCq i f).engine = s.engine := rfl
@[simp] theorem State.updCq_configError (s : State) (i : Fin 2) (f : Cq → Cq) : (s.updCq i f).configError = s.configError := rfl
@[simp] theorem State.updCq_configRead (s : State) (i : Fin 2) (f : Cq → Cq) : (s.updCq i f).configRead = s.configRead := rfl
@[simp] theorem State.updCq_sqs (s : State) (i : Fin 2) (f : Cq → Cq) : (s.updCq i f).sqs = s.sqs := rfl
@[simp] theorem State.updCq_fetch (s : State) (i : Fin 2) (f : Cq → Cq) : (s.updCq i f).fetch = s.fetch := rfl
@[simp] theorem State.updCq_urgentPointer (s : State) (i : Fin 2) (f : Cq → Cq) : (s.updCq i f).urgentPointer = s.urgentPointer := rfl
@[simp] theorem State.updCq_normalPointer (s : State) (i : Fin 2) (f : Cq → Cq) : (s.updCq i f).normalPointer = s.normalPointer := rfl
@[simp] theorem State.updCq_burstCredit (s : State) (i : Fin 2) (f : Cq → Cq) : (s.updCq i f).burstCredit = s.burstCredit := rfl
@[simp] theorem State.updCq_postError (s : State) (i : Fin 2) (f : Cq → Cq) : (s.updCq i f).postError = s.postError := rfl
@[simp] theorem State.updCq_releaseError (s : State) (i : Fin 2) (f : Cq → Cq) : (s.updCq i f).releaseError = s.releaseError := rfl
@[simp] theorem State.updCq_eventCq (s : State) (i : Fin 2) (f : Cq → Cq) : (s.updCq i f).eventCq = s.eventCq := rfl
@[simp] theorem State.updCq_pendingList (s : State) (i : Fin 2) (f : Cq → Cq) : (s.updCq i f).pendingList = s.pendingList := rfl
@[simp] theorem State.updCq_lanePointer (s : State) (i : Fin 2) (f : Cq → Cq) : (s.updCq i f).lanePointer = s.lanePointer := rfl
@[simp] theorem State.updCq_cqTurn (s : State) (i : Fin 2) (f : Cq → Cq) : (s.updCq i f).cqTurn = s.cqTurn := rfl
@[simp] theorem State.updCq_events (s : State) (i : Fin 2) (f : Cq → Cq) : (s.updCq i f).events = s.events := rfl
@[simp] theorem State.updCq_cause (s : State) (i : Fin 2) (f : Cq → Cq) : (s.updCq i f).cause = s.cause := rfl
@[simp] theorem State.updCq_enables (s : State) (i : Fin 2) (f : Cq → Cq) : (s.updCq i f).enables = s.enables := rfl
@[simp] theorem State.updCq_linkErrors (s : State) (i : Fin 2) (f : Cq → Cq) : (s.updCq i f).linkErrors = s.linkErrors := rfl
@[simp] theorem State.updCq_linkQueue (s : State) (i : Fin 2) (f : Cq → Cq) : (s.updCq i f).linkQueue = s.linkQueue := rfl
@[simp] theorem State.updCq_openRead (s : State) (i : Fin 2) (f : Cq → Cq) : (s.updCq i f).openRead = s.openRead := rfl
@[simp] theorem State.updCq_miso (s : State) (i : Fin 2) (f : Cq → Cq) : (s.updCq i f).miso = s.miso := rfl
@[simp] theorem State.updCq_misoBits (s : State) (i : Fin 2) (f : Cq → Cq) : (s.updCq i f).misoBits = s.misoBits := rfl
@[simp] theorem State.updCq_awaitCsnRise (s : State) (i : Fin 2) (f : Cq → Cq) : (s.updCq i f).awaitCsnRise = s.awaitCsnRise := rfl
@[simp] theorem State.updCq_xm (s : State) (i : Fin 2) (f : Cq → Cq) : (s.updCq i f).xm = s.xm := rfl
@[simp] theorem State.updCq_rotation (s : State) (i : Fin 2) (f : Cq → Cq) : (s.updCq i f).rotation = s.rotation := rfl
@[simp] theorem State.updCq_channel (s : State) (i : Fin 2) (f : Cq → Cq) (c' : Fin 6) :
    (s.updCq i f).channel c' = s.channel c' := rfl
@[simp] theorem State.updCq_lane (s : State) (i : Fin 2) (f : Cq → Cq) (l' : Fin 4) :
    (s.updCq i f).lane l' = s.lane l' := rfl
@[simp] theorem State.updCq_slot (s : State) (i : Fin 2) (f : Cq → Cq) (n' : Fin 16) :
    (s.updCq i f).slot n' = s.slot n' := rfl
@[simp] theorem State.updCq_gate (s : State) (i : Fin 2) (f : Cq → Cq) (g' : Fin 4) :
    (s.updCq i f).gate g' = s.gate g' := rfl
@[simp] theorem State.updCq_domain (s : State) (i : Fin 2) (f : Cq → Cq) (d' : Fin 3) :
    (s.updCq i f).domain d' = s.domain d' := rfl
@[simp] theorem State.updCq_senseInput (s : State) (i : Fin 2) (f : Cq → Cq) (i' : Fin 4) :
    (s.updCq i f).senseInput i' = s.senseInput i' := rfl
@[simp] theorem State.updCq_stream (s : State) (i : Fin 2) (f : Cq → Cq) (n' : Fin 2) :
    (s.updCq i f).stream n' = s.stream n' := rfl
@[simp] theorem State.updCq_sq (s : State) (i : Fin 2) (f : Cq → Cq) (q' : Fin 4) :
    (s.updCq i f).sq q' = s.sq q' := rfl
@[simp] theorem State.updCq_event (s : State) (i : Fin 2) (f : Cq → Cq) (e' : Fin 12) :
    (s.updCq i f).event e' = s.event e' := rfl
@[simp] theorem State.updCq_inReset (s : State) (i : Fin 2) (f : Cq → Cq) : (s.updCq i f).inReset = s.inReset := rfl
theorem State.updCq_cq (s : State) (i : Fin 2) (f : Cq → Cq) (j : Fin 2) :
    (s.updCq i f).cq j = if j = i then f (s.cq i) else s.cq j := by
  simp only [State.updCq, State.cq, Fin.getElem_fin, Vector.getElem_set]
  by_cases h : i.val = j.val
  · simp [Fin.ext h]
  · simp [h, Fin.ext_iff, Ne.symm h]
@[simp] theorem State.updCq_cq_self (s : State) (i : Fin 2) (f : Cq → Cq) :
    (s.updCq i f).cq i = f (s.cq i) := by simp [State.updCq_cq]
@[simp] theorem State.updCq_cq_ne (s : State) (i : Fin 2) (f : Cq → Cq) (j : Fin 2) (h : j ≠ i) :
    (s.updCq i f).cq j = s.cq j := by simp [State.updCq_cq, h]

/-! ### mapCqs -/

@[simp] theorem State.mapCqs_pending (s : State) (f : Fin 2 → Cq → Cq) : (s.mapCqs f).pending = s.pending := rfl
@[simp] theorem State.mapCqs_hold (s : State) (f : Fin 2 → Cq → Cq) : (s.mapCqs f).hold = s.hold := rfl
@[simp] theorem State.mapCqs_resetCause (s : State) (f : Fin 2 → Cq → Cq) : (s.mapCqs f).resetCause = s.resetCause := rfl
@[simp] theorem State.mapCqs_tick (s : State) (f : Fin 2 → Cq → Cq) : (s.mapCqs f).tick = s.tick := rfl
@[simp] theorem State.mapCqs_channels (s : State) (f : Fin 2 → Cq → Cq) : (s.mapCqs f).channels = s.channels := rfl
@[simp] theorem State.mapCqs_lanes (s : State) (f : Fin 2 → Cq → Cq) : (s.mapCqs f).lanes = s.lanes := rfl
@[simp] theorem State.mapCqs_slots (s : State) (f : Fin 2 → Cq → Cq) : (s.mapCqs f).slots = s.slots := rfl
@[simp] theorem State.mapCqs_gates (s : State) (f : Fin 2 → Cq → Cq) : (s.mapCqs f).gates = s.gates := rfl
@[simp] theorem State.mapCqs_domains (s : State) (f : Fin 2 → Cq → Cq) : (s.mapCqs f).domains = s.domains := rfl
@[simp] theorem State.mapCqs_permit (s : State) (f : Fin 2 → Cq → Cq) : (s.mapCqs f).permit = s.permit := rfl
@[simp] theorem State.mapCqs_lastSample (s : State) (f : Fin 2 → Cq → Cq) : (s.mapCqs f).lastSample = s.lastSample := rfl
@[simp] theorem State.mapCqs_senseInputs (s : State) (f : Fin 2 → Cq → Cq) : (s.mapCqs f).senseInputs = s.senseInputs := rfl
@[simp] theorem State.mapCqs_tripsDue (s : State) (f : Fin 2 → Cq → Cq) : (s.mapCqs f).tripsDue = s.tripsDue := rfl
@[simp] theorem State.mapCqs_streams (s : State) (f : Fin 2 → Cq → Cq) : (s.mapCqs f).streams = s.streams := rfl
@[simp] theorem State.mapCqs_engine (s : State) (f : Fin 2 → Cq → Cq) : (s.mapCqs f).engine = s.engine := rfl
@[simp] theorem State.mapCqs_configError (s : State) (f : Fin 2 → Cq → Cq) : (s.mapCqs f).configError = s.configError := rfl
@[simp] theorem State.mapCqs_configRead (s : State) (f : Fin 2 → Cq → Cq) : (s.mapCqs f).configRead = s.configRead := rfl
@[simp] theorem State.mapCqs_sqs (s : State) (f : Fin 2 → Cq → Cq) : (s.mapCqs f).sqs = s.sqs := rfl
@[simp] theorem State.mapCqs_fetch (s : State) (f : Fin 2 → Cq → Cq) : (s.mapCqs f).fetch = s.fetch := rfl
@[simp] theorem State.mapCqs_urgentPointer (s : State) (f : Fin 2 → Cq → Cq) : (s.mapCqs f).urgentPointer = s.urgentPointer := rfl
@[simp] theorem State.mapCqs_normalPointer (s : State) (f : Fin 2 → Cq → Cq) : (s.mapCqs f).normalPointer = s.normalPointer := rfl
@[simp] theorem State.mapCqs_burstCredit (s : State) (f : Fin 2 → Cq → Cq) : (s.mapCqs f).burstCredit = s.burstCredit := rfl
@[simp] theorem State.mapCqs_postError (s : State) (f : Fin 2 → Cq → Cq) : (s.mapCqs f).postError = s.postError := rfl
@[simp] theorem State.mapCqs_releaseError (s : State) (f : Fin 2 → Cq → Cq) : (s.mapCqs f).releaseError = s.releaseError := rfl
@[simp] theorem State.mapCqs_eventCq (s : State) (f : Fin 2 → Cq → Cq) : (s.mapCqs f).eventCq = s.eventCq := rfl
@[simp] theorem State.mapCqs_pendingList (s : State) (f : Fin 2 → Cq → Cq) : (s.mapCqs f).pendingList = s.pendingList := rfl
@[simp] theorem State.mapCqs_lanePointer (s : State) (f : Fin 2 → Cq → Cq) : (s.mapCqs f).lanePointer = s.lanePointer := rfl
@[simp] theorem State.mapCqs_cqTurn (s : State) (f : Fin 2 → Cq → Cq) : (s.mapCqs f).cqTurn = s.cqTurn := rfl
@[simp] theorem State.mapCqs_events (s : State) (f : Fin 2 → Cq → Cq) : (s.mapCqs f).events = s.events := rfl
@[simp] theorem State.mapCqs_cause (s : State) (f : Fin 2 → Cq → Cq) : (s.mapCqs f).cause = s.cause := rfl
@[simp] theorem State.mapCqs_enables (s : State) (f : Fin 2 → Cq → Cq) : (s.mapCqs f).enables = s.enables := rfl
@[simp] theorem State.mapCqs_linkErrors (s : State) (f : Fin 2 → Cq → Cq) : (s.mapCqs f).linkErrors = s.linkErrors := rfl
@[simp] theorem State.mapCqs_linkQueue (s : State) (f : Fin 2 → Cq → Cq) : (s.mapCqs f).linkQueue = s.linkQueue := rfl
@[simp] theorem State.mapCqs_openRead (s : State) (f : Fin 2 → Cq → Cq) : (s.mapCqs f).openRead = s.openRead := rfl
@[simp] theorem State.mapCqs_miso (s : State) (f : Fin 2 → Cq → Cq) : (s.mapCqs f).miso = s.miso := rfl
@[simp] theorem State.mapCqs_misoBits (s : State) (f : Fin 2 → Cq → Cq) : (s.mapCqs f).misoBits = s.misoBits := rfl
@[simp] theorem State.mapCqs_awaitCsnRise (s : State) (f : Fin 2 → Cq → Cq) : (s.mapCqs f).awaitCsnRise = s.awaitCsnRise := rfl
@[simp] theorem State.mapCqs_xm (s : State) (f : Fin 2 → Cq → Cq) : (s.mapCqs f).xm = s.xm := rfl
@[simp] theorem State.mapCqs_rotation (s : State) (f : Fin 2 → Cq → Cq) : (s.mapCqs f).rotation = s.rotation := rfl
@[simp] theorem State.mapCqs_channel (s : State) (f : Fin 2 → Cq → Cq) (c' : Fin 6) :
    (s.mapCqs f).channel c' = s.channel c' := rfl
@[simp] theorem State.mapCqs_lane (s : State) (f : Fin 2 → Cq → Cq) (l' : Fin 4) :
    (s.mapCqs f).lane l' = s.lane l' := rfl
@[simp] theorem State.mapCqs_slot (s : State) (f : Fin 2 → Cq → Cq) (n' : Fin 16) :
    (s.mapCqs f).slot n' = s.slot n' := rfl
@[simp] theorem State.mapCqs_gate (s : State) (f : Fin 2 → Cq → Cq) (g' : Fin 4) :
    (s.mapCqs f).gate g' = s.gate g' := rfl
@[simp] theorem State.mapCqs_domain (s : State) (f : Fin 2 → Cq → Cq) (d' : Fin 3) :
    (s.mapCqs f).domain d' = s.domain d' := rfl
@[simp] theorem State.mapCqs_senseInput (s : State) (f : Fin 2 → Cq → Cq) (i' : Fin 4) :
    (s.mapCqs f).senseInput i' = s.senseInput i' := rfl
@[simp] theorem State.mapCqs_stream (s : State) (f : Fin 2 → Cq → Cq) (n' : Fin 2) :
    (s.mapCqs f).stream n' = s.stream n' := rfl
@[simp] theorem State.mapCqs_sq (s : State) (f : Fin 2 → Cq → Cq) (q' : Fin 4) :
    (s.mapCqs f).sq q' = s.sq q' := rfl
@[simp] theorem State.mapCqs_event (s : State) (f : Fin 2 → Cq → Cq) (e' : Fin 12) :
    (s.mapCqs f).event e' = s.event e' := rfl
@[simp] theorem State.mapCqs_inReset (s : State) (f : Fin 2 → Cq → Cq) : (s.mapCqs f).inReset = s.inReset := rfl
@[simp] theorem State.mapCqs_cq (s : State) (f : Fin 2 → Cq → Cq) (j : Fin 2) :
    (s.mapCqs f).cq j = f j (s.cq j) := by
  match j with
  | ⟨0, _⟩ => rfl
  | ⟨1, _⟩ => rfl

/-! ### updEvent -/

@[simp] theorem State.updEvent_pending (s : State) (i : Fin 12) (f : Option Occurrence → Option Occurrence) : (s.updEvent i f).pending = s.pending := rfl
@[simp] theorem State.updEvent_hold (s : State) (i : Fin 12) (f : Option Occurrence → Option Occurrence) : (s.updEvent i f).hold = s.hold := rfl
@[simp] theorem State.updEvent_resetCause (s : State) (i : Fin 12) (f : Option Occurrence → Option Occurrence) : (s.updEvent i f).resetCause = s.resetCause := rfl
@[simp] theorem State.updEvent_tick (s : State) (i : Fin 12) (f : Option Occurrence → Option Occurrence) : (s.updEvent i f).tick = s.tick := rfl
@[simp] theorem State.updEvent_channels (s : State) (i : Fin 12) (f : Option Occurrence → Option Occurrence) : (s.updEvent i f).channels = s.channels := rfl
@[simp] theorem State.updEvent_lanes (s : State) (i : Fin 12) (f : Option Occurrence → Option Occurrence) : (s.updEvent i f).lanes = s.lanes := rfl
@[simp] theorem State.updEvent_slots (s : State) (i : Fin 12) (f : Option Occurrence → Option Occurrence) : (s.updEvent i f).slots = s.slots := rfl
@[simp] theorem State.updEvent_gates (s : State) (i : Fin 12) (f : Option Occurrence → Option Occurrence) : (s.updEvent i f).gates = s.gates := rfl
@[simp] theorem State.updEvent_domains (s : State) (i : Fin 12) (f : Option Occurrence → Option Occurrence) : (s.updEvent i f).domains = s.domains := rfl
@[simp] theorem State.updEvent_permit (s : State) (i : Fin 12) (f : Option Occurrence → Option Occurrence) : (s.updEvent i f).permit = s.permit := rfl
@[simp] theorem State.updEvent_lastSample (s : State) (i : Fin 12) (f : Option Occurrence → Option Occurrence) : (s.updEvent i f).lastSample = s.lastSample := rfl
@[simp] theorem State.updEvent_senseInputs (s : State) (i : Fin 12) (f : Option Occurrence → Option Occurrence) : (s.updEvent i f).senseInputs = s.senseInputs := rfl
@[simp] theorem State.updEvent_tripsDue (s : State) (i : Fin 12) (f : Option Occurrence → Option Occurrence) : (s.updEvent i f).tripsDue = s.tripsDue := rfl
@[simp] theorem State.updEvent_streams (s : State) (i : Fin 12) (f : Option Occurrence → Option Occurrence) : (s.updEvent i f).streams = s.streams := rfl
@[simp] theorem State.updEvent_engine (s : State) (i : Fin 12) (f : Option Occurrence → Option Occurrence) : (s.updEvent i f).engine = s.engine := rfl
@[simp] theorem State.updEvent_configError (s : State) (i : Fin 12) (f : Option Occurrence → Option Occurrence) : (s.updEvent i f).configError = s.configError := rfl
@[simp] theorem State.updEvent_configRead (s : State) (i : Fin 12) (f : Option Occurrence → Option Occurrence) : (s.updEvent i f).configRead = s.configRead := rfl
@[simp] theorem State.updEvent_sqs (s : State) (i : Fin 12) (f : Option Occurrence → Option Occurrence) : (s.updEvent i f).sqs = s.sqs := rfl
@[simp] theorem State.updEvent_fetch (s : State) (i : Fin 12) (f : Option Occurrence → Option Occurrence) : (s.updEvent i f).fetch = s.fetch := rfl
@[simp] theorem State.updEvent_urgentPointer (s : State) (i : Fin 12) (f : Option Occurrence → Option Occurrence) : (s.updEvent i f).urgentPointer = s.urgentPointer := rfl
@[simp] theorem State.updEvent_normalPointer (s : State) (i : Fin 12) (f : Option Occurrence → Option Occurrence) : (s.updEvent i f).normalPointer = s.normalPointer := rfl
@[simp] theorem State.updEvent_burstCredit (s : State) (i : Fin 12) (f : Option Occurrence → Option Occurrence) : (s.updEvent i f).burstCredit = s.burstCredit := rfl
@[simp] theorem State.updEvent_postError (s : State) (i : Fin 12) (f : Option Occurrence → Option Occurrence) : (s.updEvent i f).postError = s.postError := rfl
@[simp] theorem State.updEvent_releaseError (s : State) (i : Fin 12) (f : Option Occurrence → Option Occurrence) : (s.updEvent i f).releaseError = s.releaseError := rfl
@[simp] theorem State.updEvent_cqs (s : State) (i : Fin 12) (f : Option Occurrence → Option Occurrence) : (s.updEvent i f).cqs = s.cqs := rfl
@[simp] theorem State.updEvent_eventCq (s : State) (i : Fin 12) (f : Option Occurrence → Option Occurrence) : (s.updEvent i f).eventCq = s.eventCq := rfl
@[simp] theorem State.updEvent_pendingList (s : State) (i : Fin 12) (f : Option Occurrence → Option Occurrence) : (s.updEvent i f).pendingList = s.pendingList := rfl
@[simp] theorem State.updEvent_lanePointer (s : State) (i : Fin 12) (f : Option Occurrence → Option Occurrence) : (s.updEvent i f).lanePointer = s.lanePointer := rfl
@[simp] theorem State.updEvent_cqTurn (s : State) (i : Fin 12) (f : Option Occurrence → Option Occurrence) : (s.updEvent i f).cqTurn = s.cqTurn := rfl
@[simp] theorem State.updEvent_cause (s : State) (i : Fin 12) (f : Option Occurrence → Option Occurrence) : (s.updEvent i f).cause = s.cause := rfl
@[simp] theorem State.updEvent_enables (s : State) (i : Fin 12) (f : Option Occurrence → Option Occurrence) : (s.updEvent i f).enables = s.enables := rfl
@[simp] theorem State.updEvent_linkErrors (s : State) (i : Fin 12) (f : Option Occurrence → Option Occurrence) : (s.updEvent i f).linkErrors = s.linkErrors := rfl
@[simp] theorem State.updEvent_linkQueue (s : State) (i : Fin 12) (f : Option Occurrence → Option Occurrence) : (s.updEvent i f).linkQueue = s.linkQueue := rfl
@[simp] theorem State.updEvent_openRead (s : State) (i : Fin 12) (f : Option Occurrence → Option Occurrence) : (s.updEvent i f).openRead = s.openRead := rfl
@[simp] theorem State.updEvent_miso (s : State) (i : Fin 12) (f : Option Occurrence → Option Occurrence) : (s.updEvent i f).miso = s.miso := rfl
@[simp] theorem State.updEvent_misoBits (s : State) (i : Fin 12) (f : Option Occurrence → Option Occurrence) : (s.updEvent i f).misoBits = s.misoBits := rfl
@[simp] theorem State.updEvent_awaitCsnRise (s : State) (i : Fin 12) (f : Option Occurrence → Option Occurrence) : (s.updEvent i f).awaitCsnRise = s.awaitCsnRise := rfl
@[simp] theorem State.updEvent_xm (s : State) (i : Fin 12) (f : Option Occurrence → Option Occurrence) : (s.updEvent i f).xm = s.xm := rfl
@[simp] theorem State.updEvent_rotation (s : State) (i : Fin 12) (f : Option Occurrence → Option Occurrence) : (s.updEvent i f).rotation = s.rotation := rfl
@[simp] theorem State.updEvent_channel (s : State) (i : Fin 12) (f : Option Occurrence → Option Occurrence) (c' : Fin 6) :
    (s.updEvent i f).channel c' = s.channel c' := rfl
@[simp] theorem State.updEvent_lane (s : State) (i : Fin 12) (f : Option Occurrence → Option Occurrence) (l' : Fin 4) :
    (s.updEvent i f).lane l' = s.lane l' := rfl
@[simp] theorem State.updEvent_slot (s : State) (i : Fin 12) (f : Option Occurrence → Option Occurrence) (n' : Fin 16) :
    (s.updEvent i f).slot n' = s.slot n' := rfl
@[simp] theorem State.updEvent_gate (s : State) (i : Fin 12) (f : Option Occurrence → Option Occurrence) (g' : Fin 4) :
    (s.updEvent i f).gate g' = s.gate g' := rfl
@[simp] theorem State.updEvent_domain (s : State) (i : Fin 12) (f : Option Occurrence → Option Occurrence) (d' : Fin 3) :
    (s.updEvent i f).domain d' = s.domain d' := rfl
@[simp] theorem State.updEvent_senseInput (s : State) (i : Fin 12) (f : Option Occurrence → Option Occurrence) (i' : Fin 4) :
    (s.updEvent i f).senseInput i' = s.senseInput i' := rfl
@[simp] theorem State.updEvent_stream (s : State) (i : Fin 12) (f : Option Occurrence → Option Occurrence) (n' : Fin 2) :
    (s.updEvent i f).stream n' = s.stream n' := rfl
@[simp] theorem State.updEvent_sq (s : State) (i : Fin 12) (f : Option Occurrence → Option Occurrence) (q' : Fin 4) :
    (s.updEvent i f).sq q' = s.sq q' := rfl
@[simp] theorem State.updEvent_cq (s : State) (i : Fin 12) (f : Option Occurrence → Option Occurrence) (q' : Fin 2) :
    (s.updEvent i f).cq q' = s.cq q' := rfl
@[simp] theorem State.updEvent_inReset (s : State) (i : Fin 12) (f : Option Occurrence → Option Occurrence) : (s.updEvent i f).inReset = s.inReset := rfl
theorem State.updEvent_event (s : State) (i : Fin 12) (f : Option Occurrence → Option Occurrence) (j : Fin 12) :
    (s.updEvent i f).event j = if j = i then f (s.event i) else s.event j := by
  simp only [State.updEvent, State.event, Fin.getElem_fin, Vector.getElem_set]
  by_cases h : i.val = j.val
  · simp [Fin.ext h]
  · simp [h, Fin.ext_iff, Ne.symm h]
@[simp] theorem State.updEvent_event_self (s : State) (i : Fin 12) (f : Option Occurrence → Option Occurrence) :
    (s.updEvent i f).event i = f (s.event i) := by simp [State.updEvent_event]
@[simp] theorem State.updEvent_event_ne (s : State) (i : Fin 12) (f : Option Occurrence → Option Occurrence) (j : Fin 12) (h : j ≠ i) :
    (s.updEvent i f).event j = s.event j := by simp [State.updEvent_event, h]

end Sys2Proof.Machine
end

