-- ==== Sys2Proof/Laws/Fetch.lean ====
section
/-! SUPPORT. What the shared operations of the fetch engine and of the link do, said once: consumption, the hand-over of a
completion, refusals, and how a row finds its record or its register write. -/

namespace Sys2Proof.Machine

/-- A row acts on a part that no reset holds. -/
theorem State.act_awake {s : State} (h : s.Awake) (f : State → State) : s.act f = .next (f s) := by
  simp [State.act, State.unlessReset, show s.inReset = false from h]

/-- The row of a record's kind handles the record that is held. -/
theorem State.withRecord_holds {s : State} {k : Byte} {q : Fin 4} {r : List Byte} (h : s.Holds k q r)
    (f : Fin 4 → List Byte → State) : s.withRecord k f = f q r := by
  simp [State.withRecord, State.heldRecord, h.2.1, h.2.2]

/-! ### The link's queue -/

/-- A read frame that goes on touches the arbiter alone. -/
theorem State.runRead_frame (access : Option (List XmAgent)) : ∀ (n : Nat) (s : State) (o : OpenRead),
    (s.runRead access n o).1 = { s with rotation := (s.runRead access n o).1.rotation }
  | 0, _, _ => rfl
  | n + 1, s, o => by
    rw [State.runRead]
    split
    · rfl
    · split
      · split
        · rw [State.runRead_frame access n]
        · rfl
      · exact State.runRead_frame access n s _

/-- Without an access a read frame that goes on touches nothing. -/
theorem State.runRead_none : ∀ (n : Nat) (s : State) (o : OpenRead), (s.runRead none n o).1 = s
  | 0, _, _ => rfl
  | n + 1, s, o => by
    rw [State.runRead]
    split
    · rfl
    · split
      · rfl
      · exact State.runRead_none n s _

/-- What the link does when its queue moves on touches the link and the arbiter alone. -/
theorem State.settleFrom_frame (s : State) (access : Option (List XmAgent)) (es : List LinkEntry) :
    s.settleFrom access es =
      { s with
        linkQueue := (s.settleFrom access es).linkQueue, linkErrors := (s.settleFrom access es).linkErrors
        miso := (s.settleFrom access es).miso, misoBits := (s.settleFrom access es).misoBits
        openRead := (s.settleFrom access es).openRead, rotation := (s.settleFrom access es).rotation } := by
  induction es generalizing s with
  | nil =>
    rw [State.settleFrom]
    split
    · rfl
    · dsimp only [State.showRead]
      rw [State.runRead_frame]
  | cons e es ih =>
    cases e with
    | chunk => rfl
    | reg => rfl
    | discard => rw [State.settleFrom, ih]; rfl
    | read o =>
      rw [State.settleFrom]
      dsimp only
      split
      · rw [ih]
        dsimp only [State.showRead]
        rw [State.runRead_frame]
      · rw [State.runRead_frame]

/-- Counting discarded frames. -/
theorem State.settleFrom_discards (s : State) (access : Option (List XmAgent)) (n : Nat) (rest : List LinkEntry) :
    s.settleFrom access (List.replicate n .discard ++ rest) =
      ({ s with linkErrors := (satSucc 255)^[n] s.linkErrors }).settleFrom access rest := by
  induction n generalizing s with
  | zero => rfl
  | succ n ih =>
    rw [List.replicate_succ, List.cons_append, State.settleFrom, ih]
    rfl

/-- A read frame that needs an access has nothing to shift out before it. -/
theorem OpenRead.shift_waiting {o : OpenRead} (h : o.needsAccess = true) : o.shift = o := by
  obtain ⟨addr, held, want, bits, sent, sentBits⟩ := o
  simp only [OpenRead.needsAccess, Bool.and_eq_true, List.isEmpty_iff, decide_eq_true_eq] at h
  obtain ⟨⟨-, hh⟩, -⟩ := h
  subst hh
  simp [OpenRead.shift]

/-- A read frame that needs an access waits where none is offered. -/
theorem State.runRead_waiting {o : OpenRead} (h : o.needsAccess = true) (s : State) : ∀ n, s.runRead none n o = (s, o)
  | 0 => by rw [State.runRead, OpenRead.shift_waiting h]
  | n + 1 => by
    rw [State.runRead, OpenRead.shift_waiting h]
    simp [h, State.linkServed]

/-- Entries that wait further are left as they are. -/
theorem State.settleFrom_waits {s : State} {es : List LinkEntry} (hw : LinkWaits es) (hr : es = [] → s.openRead = none) :
    s.settleFrom none es = { s with linkQueue := es } := by
  obtain ⟨hd, hn⟩ := hw
  match es with
  | [] => simp [State.settleFrom, hr rfl]
  | .chunk _ _ :: _ => rfl
  | .reg _ _ :: _ => rfl
  | .discard :: _ => simp at hd
  | .read o :: rest =>
    have h := hn o rfl
    have hdone : o.done = false := by
      simp only [OpenRead.needsAccess, Bool.and_eq_true, Bool.not_eq_true'] at h
      exact h.1.1
    simp [State.settleFrom, State.runRead_waiting h, hdone]

/-- With no frame waiting, a discarded frame is counted at once. -/
theorem State.discardFrame_idle {s : State} (hq : s.linkQueue = []) (hr : s.openRead = none) (n : Nat) (extra : Fin 8) :
    s.discardFrame n extra =
      { s with
        linkErrors := satSucc 255 s.linkErrors, miso := List.replicate n 0
        misoBits := List.replicate extra.val false } := by
  cases s
  simp only at hq hr
  subst hq hr
  rfl

/-- A row that takes a register write hands it to its owner, and what stands behind it waits further. -/
theorem State.takeRegister_handed {s : State} {r : WritableRegister} {v : BitVec 32} (h : s.Handed r v)
    (takes : BitVec 32 → Bool) (f : State → BitVec 32 → State) (ht : takes v = true)
    (hf : (f s v).linkQueue = s.linkQueue) (hr : (f s v).openRead = s.openRead) :
    s.takeRegister r takes f = { f s v with linkQueue := s.linkQueue.tail } := by
  obtain ⟨-, hh, hw, hn⟩ := h
  obtain ⟨rest, hq⟩ : ∃ rest, s.linkQueue = .reg r v :: rest := by
    cases hs : s.linkQueue with
    | nil => simp [hs] at hh
    | cons x xs => simp only [hs, List.head?_cons, Option.some.injEq] at hh; exact ⟨xs, by rw [hh]⟩
  simp only [State.takeRegister, State.frontWrite, hq, ht, State.popLink, hf, if_true]
  rw [hq] at hw hn
  exact State.settleFrom_waits hw (by rw [hr]; exact hn)

/-- A STOPPING engine stops when the fetch engine is IDLE (R117). -/
theorem State.settleStop_idle {s : State} (h : s.fetch = .idle) :
    s.settleStop = { s with engine := if s.engine = .stopping then .stopped else s.engine } := by
  unfold State.settleStop
  by_cases he : s.engine = .stopping
  · simp [he, h]
  · simp [he]

/-- The fetch engine is IDLE again. -/
theorem State.fetchIdle_eq (s : State) :
    s.fetchIdle = { s with fetch := .idle, engine := if s.engine = .stopping then .stopped else s.engine } := by
  unfold State.fetchIdle
  rw [State.settleStop_idle rfl]

/-- What the hand-over of a completion does: accepted, or held. -/
theorem State.offer_eq (s : State) (c : Completion) :
    s.offer c =
      if s.pendingList.length < 8 then
        { s with
          pendingList := s.pendingList ++ [c], fetch := .idle
          engine := if s.engine = .stopping then .stopped else s.engine }
      else { s with fetch := .waitPost c } := by
  have hr : s.listHasRoom = decide (s.pendingList.length < 8) := rfl
  unfold State.offer
  rw [hr]
  by_cases h : s.pendingList.length < 8
  · simp only [h, decide_true, if_true]
    rw [State.settleStop_idle rfl]; rfl
  · simp only [h, decide_false, if_false]
    rfl

/-- The hand-over of a completion by the rules' words. -/
theorem State.offer_handedOver (s : State) (c : Completion) : HandedOver s (s.offer c) c := by
  rw [State.offer_eq]
  constructor
  · intro h; simp [h]
  · intro h; rw [if_neg (by omega)]; simp

/-- The hand-over touches the fetch engine, the pending list and the engine state alone. -/
theorem State.offer_frame (s : State) (c : Completion) :
    s.offer c =
      { s with fetch := (s.offer c).fetch, pendingList := (s.offer c).pendingList, engine := (s.offer c).engine } := by
  rw [State.offer_eq]; split <;> rfl

@[simp] theorem State.offer_sqs (s : State) (c : Completion) : (s.offer c).sqs = s.sqs := by rw [State.offer_frame]

@[simp] theorem State.offer_sq (s : State) (c : Completion) (q : Fin 4) : (s.offer c).sq q = s.sq q := by
  simp [State.sq]

/-- The consumption of a record by the rules' words. -/
theorem State.consume_consumed (s : State) (q : Fin 4) : Consumed s (s.consume q) q := by
  constructor
  · rw [State.consume, State.updSq_sq_self]; rfl
  · intro p hp; simp [State.consume, hp]

theorem State.originOf_eq (s : State) (q : Fin 4) (r : List Byte) : s.originOf q r = identity s q r := rfl

theorem HandedOver.congr {s s' t : State} {c : Completion} (h : HandedOver s t c) (hl : s'.pendingList = s.pendingList)
    (he : s'.engine = s.engine) : HandedOver s' t c := by
  unfold HandedOver at *; rw [hl, he]; exact h

theorem Consumed.of_sqs {s t u : State} {q : Fin 4} (h : Consumed s t q) (hu : u.sqs = t.sqs) : Consumed s u q := by
  constructor
  · rw [← h.1]; simp [State.sq, hu]
  · intro p hp; rw [← h.2 p hp]; simp [State.sq, hu]

/-- A refusal, and every completion that the fetch engine makes at once: the record is consumed and completed (R105). -/
theorem State.refuse_completes (s : State) (q : Fin 4) (r : List Byte) (st : Status) (lane : Option (Fin 4)) (detail : Nat) :
    Completes s (s.refuse q r st lane detail) q r st lane detail :=
  ⟨(State.consume_consumed s q).of_sqs (by simp [State.refuse]),
    (State.offer_handedOver (s.consume q) _).congr rfl rfl⟩

/-- A refusal touches the SQs, the fetch engine, the pending list and the engine state alone. -/
theorem State.refuse_only (s : State) (q : Fin 4) (r : List Byte) (st : Status) (lane : Option (Fin 4)) (detail : Nat) :
    OnlyFetchSide s (s.refuse q r st lane detail) := by
  unfold OnlyFetchSide State.refuse
  rw [State.offer_frame]
  rfl

/-- A completion made after an effect on other blocks. -/
theorem Completes.after {s s' t : State} {q : Fin 4} {r : List Byte} {st : Status} {lane : Option (Fin 4)} {detail : Nat}
    (h : Completes s' t q r st lane detail) (hq : s'.sqs = s.sqs) (hl : s'.pendingList = s.pendingList)
    (he : s'.engine = s.engine) : Completes s t q r st lane detail := by
  have hs : ∀ p, s'.sq p = s.sq p := fun p => by simp [State.sq, hq]
  unfold Completes Consumed identity at *
  simp only [hs] at h
  exact ⟨h.1, h.2.congr hl.symm he.symm⟩

/-- The row of a record's kind answers what the kind's handling gives. -/
theorem State.act_withRecord {s : State} {k : Byte} {q : Fin 4} {r : List Byte} (h : s.Holds k q r)
    (f : State → Fin 4 → List Byte → State) : s.act (fun s => s.withRecord k (f s)) = .next (f s q r) := by
  rw [State.act_awake h.1, State.withRecord_holds h]

/-- The fields a refusal can touch. -/
theorem State.refuse_frame (s : State) (q : Fin 4) (r : List Byte) (st : Status) (lane : Option (Fin 4)) (detail : Nat) :
    s.refuse q r st lane detail =
      { s with
        sqs := (s.refuse q r st lane detail).sqs, fetch := (s.refuse q r st lane detail).fetch
        pendingList := (s.refuse q r st lane detail).pendingList, engine := (s.refuse q r st lane detail).engine } :=
  State.refuse_only ..

/-! ### Accesses taken before others -/

/-- An access of the fetch side touches exchange memory, the arbiter, the bytes read and nothing else. -/
theorem State.fetchTurn_frame (s : State) :
    s.fetchTurn =
      { s with
        xm := s.fetchTurn.xm, rotation := s.fetchTurn.rotation, configRead := s.fetchTurn.configRead
        fetch := s.fetchTurn.fetch } := by
  unfold State.fetchTurn
  split
  · split <;> rfl
  · split
    · split <;> rfl
    · split <;> rfl
    · split <;> rfl
    · rfl

theorem State.iterateTurns_frame (waiting : List XmAgent) : ∀ (n : Nat) (s : State),
    s.iterateTurns waiting n =
      { s with
        xm := (s.iterateTurns waiting n).xm, rotation := (s.iterateTurns waiting n).rotation
        configRead := (s.iterateTurns waiting n).configRead, fetch := (s.iterateTurns waiting n).fetch }
  | 0, _ => rfl
  | n + 1, s => by
    rw [State.iterateTurns]
    split
    · rw [State.iterateTurns_frame waiting n s.fetchTurn, State.fetchTurn_frame s]
    · rfl

/-- Several accesses of the fetch side touch no more than one does. -/
theorem State.fetchTurns_frame (s : State) (n : Nat) :
    s.fetchTurns n =
      { s with
        xm := (s.fetchTurns n).xm, rotation := (s.fetchTurns n).rotation, configRead := (s.fetchTurns n).configRead
        fetch := (s.fetchTurns n).fetch } := State.iterateTurns_frame _ _ s

theorem State.fetchTurns_zero (s : State) : s.fetchTurns 0 = s := rfl

theorem State.fetchTurn_memoryOk {s : State} (h : s.MemoryOk) : s.fetchTurn.MemoryOk := by
  unfold State.fetchTurn
  split
  · split <;> exact h
  · split
    · split <;> exact h
    · split <;> exact h
    · split
      · exact Memory.writeBytes_wf _ _ h
      · exact h
    · exact h

theorem State.iterateTurns_memoryOk (waiting : List XmAgent) :
    ∀ (n : Nat) {s : State}, s.MemoryOk → (s.iterateTurns waiting n).MemoryOk
  | 0, _, h => h
  | n + 1, _, h => by
    rw [State.iterateTurns]
    split
    · exact State.iterateTurns_memoryOk waiting n (State.fetchTurn_memoryOk h)
    · exact h

/-- Accesses of the fetch side keep memory's canonical form. -/
theorem State.fetchTurns_memoryOk {s : State} (h : s.MemoryOk) (n : Nat) : (s.fetchTurns n).MemoryOk :=
  State.iterateTurns_memoryOk _ _ h

/-- An access that the arbiter takes comes after those of the fetch side before it (R166). -/
theorem State.withAccess_served {s : State} {a : XmAgent} {x : Access}
    (h : (s.fetchTurns x.turns).serves a x.waiting = true) (f : State → State) :
    s.withAccess a x f = f (s.fetchTurns x.turns) := by simp [State.withAccess, h]

/-- An access that is not the next in rotation does not happen (R166). -/
theorem State.withAccess_later {s : State} {a : XmAgent} {x : Access}
    (h : (s.fetchTurns x.turns).serves a x.waiting = false) (f : State → State) : s.withAccess a x f = s := by
  simp [State.withAccess, h]

/-- With no other agent waiting, an access is taken (R166). -/
@[simp] theorem State.serves_nil (s : State) (a : XmAgent) : s.serves a [] = true := rfl

/-! ### Field values as numbers of resources -/

theorem asFin_val {n k : Nat} (i : Fin n) (h : k = i.val) : asFin n k = some i := by
  subst h; simp [asFin]

theorem asFin_none {n k : Nat} (h : n ≤ k) : asFin n k = none := by
  simp [asFin, Nat.not_lt.mpr h]

/-- The first member of a rising list that has a property. -/
theorem find_lowest {n : Nat} {xs : List (Fin n)} {p : Fin n → Bool} (hs : xs.Pairwise (· < ·)) (c : Fin n) (hc : c ∈ xs)
    (hp : p c = true) (hl : ∀ k, k < c → p k = false) : xs.find? p = some c := by
  induction xs with
  | nil => simp at hc
  | cons x xs ih =>
    rw [List.pairwise_cons] at hs
    rcases List.mem_cons.mp hc with rfl | hm
    · simp [hp]
    · simp [hl x (hs.1 c hm), ih hs.2 hm]

theorem find_lowest_channel {p : Fin 6 → Bool} (c : Fin 6) (hp : p c = true) (hl : ∀ k, k < c → p k = false) :
    allChannels.find? p = some c :=
  find_lowest (by decide) c (by fin_cases c <;> decide) hp hl

theorem find_lowest_lane {p : Fin 4 → Bool} (c : Fin 4) (hp : p c = true) (hl : ∀ k, k < c → p k = false) :
    allLanes.find? p = some c :=
  find_lowest (by decide) c (by fin_cases c <;> decide) hp hl

theorem find_lowest_domain {p : Fin 3 → Bool} (c : Fin 3) (hp : p c = true) (hl : ∀ k, k < c → p k = false) :
    allDomains.find? p = some c :=
  find_lowest (by decide) c (by fin_cases c <;> decide) hp hl

/-- The lowest-numbered channel of a set with a property. -/
theorem lowestChannel_some {set : ChannelSet} {f : Fin 6 → Bool} (c : Fin 6) (hc : set.getLsbD c.val = true) (hf : f c = true)
    (hl : ∀ k, k < c → set.getLsbD k.val = true → f k = false) : lowestChannel set f = some c := by
  refine find_lowest_channel c (by rw [hc, hf]; rfl) fun k hk => ?_
  cases h : set.getLsbD k.val
  · rfl
  · rw [hl k hk h]; rfl

theorem lowestChannel_none {set : ChannelSet} {f : Fin 6 → Bool} (hl : ∀ k : Fin 6, set.getLsbD k.val = true → f k = false) :
    lowestChannel set f = none := by
  unfold lowestChannel
  rw [List.find?_eq_none]
  intro x _
  cases h : set.getLsbD x.val
  · simp only [Bool.false_and]; decide
  · rw [hl x h]; decide

/-- Every domain that meets a lane is ARMED. -/
theorem State.domainsArmed_iff (s : State) (l : Fin 4) :
    s.domainsArmed l = true ↔ ¬∃ d : Fin 3, (s.lane l).owned &&& (s.domain d).members ≠ 0 ∧ (s.domain d).state ≠ .armed := by
  simp only [State.domainsArmed, State.meetsDomain, allDomains, List.all_cons, List.all_nil, Fin.exists_fin_succ]
  simp
  tauto

end Sys2Proof.Machine
end

