-- ==== Sys2Proof/Laws/LaneStep.lean ====
section
/-! SUPPORT. What the lane sequencer, the gate unit and the capture writer can do to the state, said once: `LaneStep s t` holds
of every operation of theirs that answers t from s. Later proofs cite it in place of unfolding the operation. -/

namespace Sys2Proof.Machine

/-- Only channels, lanes, slots, gates, streams, SQs and events differ. -/
def LaneWork (s t : State) : Prop :=
  ∃ ch la sl ga st sq ev, t = { s with channels := ch, lanes := la, slots := sl, gates := ga, streams := st, sqs := sq, events := ev }

theorem LaneWork.refl (s : State) : LaneWork s s := ⟨_, _, _, _, _, _, _, rfl⟩

theorem LaneWork.trans {s t u : State} (h : LaneWork s t) (k : LaneWork t u) : LaneWork s u := by
  obtain ⟨_, _, _, _, _, _, _, rfl⟩ := h
  obtain ⟨_, _, _, _, _, _, _, rfl⟩ := k
  exact ⟨_, _, _, _, _, _, _, rfl⟩

/-- A step of the lanes: the frame, and that owners and owned sets stay, an OFF channel under a forced-off condition stays OFF,
and no lane becomes UNBOUND. -/
structure LaneStep (s t : State) : Prop where
  work : LaneWork s t
  owner : ∀ c, (t.channel c).owner = (s.channel c).owner
  owned : ∀ l, (t.lane l).owned = (s.lane l).owned
  off : ∀ c, s.forcedOff c = true → (s.channel c).code = .off → (t.channel c).code = .off
  bound : ∀ l, (t.lane l).state = .unbound → (s.lane l).state = .unbound

theorem LaneStep.permitOn {s t : State} (h : LaneStep s t) : t.permitOn = s.permitOn := by
  obtain ⟨_, _, _, _, _, _, _, rfl⟩ := h.work; rfl

theorem LaneStep.domain {s t : State} (h : LaneStep s t) (d : Fin 3) : t.domain d = s.domain d := by
  obtain ⟨_, _, _, _, _, _, _, rfl⟩ := h.work; rfl

theorem LaneStep.forcedOff {s t : State} (h : LaneStep s t) (c : Fin 6) : t.forcedOff c = s.forcedOff c := by
  simp only [State.forcedOff, State.inTrippedDomain, h.owner, h.permitOn, h.domain]

theorem LaneStep.domainsArmed {s t : State} (h : LaneStep s t) (l : Fin 4) : t.domainsArmed l = s.domainsArmed l := by
  simp only [State.domainsArmed, State.meetsDomain, h.owned, h.domain]

theorem LaneStep.refl (s : State) : LaneStep s s :=
  ⟨LaneWork.refl s, fun _ => rfl, fun _ => rfl, fun _ _ h => h, fun _ h => h⟩

theorem LaneStep.trans {s t u : State} (h : LaneStep s t) (k : LaneStep t u) : LaneStep s u where
  work := h.work.trans k.work
  owner c := (k.owner c).trans (h.owner c)
  owned l := (k.owned l).trans (h.owned l)
  off c hf ho := k.off c ((h.forcedOff c).trans hf) (h.off c hf ho)
  bound l hu := h.bound l (k.bound l hu)

/-- A fold of lane steps is one. -/
theorem LaneStep.foldl {α : Type} {f : State → α → State} (hf : ∀ s a, LaneStep s (f s a)) :
    ∀ (as : List α) (s : State), LaneStep s (as.foldl f s)
  | [], s => .refl s
  | a :: as, s => (hf s a).trans (LaneStep.foldl hf as (f s a))

theorem LaneStep.ite {s t u : State} {p : Prop} [Decidable p] (h : p → LaneStep s t) (k : ¬p → LaneStep s u) :
    LaneStep s (if p then t else u) := by
  split
  · exact h ‹_›
  · exact k ‹_›

theorem LaneStep.updLane (s : State) (l : Fin 4) (f : Lane → Lane) (ho : (f (s.lane l)).owned = (s.lane l).owned)
    (hb : (f (s.lane l)).state = .unbound → (s.lane l).state = .unbound) : LaneStep s (s.updLane l f) where
  work := ⟨_, _, _, _, _, _, _, rfl⟩
  owner _ := rfl
  owned k := by rw [State.updLane_lane]; split <;> simp_all
  off _ _ h := h
  bound k := by rw [State.updLane_lane]; split <;> simp_all

theorem LaneStep.mapChannels (s : State) (f : Fin 6 → Channel → Channel) (ho : ∀ c, (f c (s.channel c)).owner = (s.channel c).owner)
    (hf : ∀ c, s.forcedOff c = true → (s.channel c).code = .off → (f c (s.channel c)).code = .off) :
    LaneStep s (s.mapChannels f) where
  work := ⟨_, _, _, _, _, _, _, rfl⟩
  owner c := by rw [State.mapChannels_channel]; exact ho c
  owned _ := rfl
  off c h k := by rw [State.mapChannels_channel]; exact hf c h k
  bound _ h := h

theorem LaneStep.updSlot (s : State) (n : Fin 16) (f : Slot → Slot) : LaneStep s (s.updSlot n f) :=
  ⟨⟨_, _, _, _, _, _, _, rfl⟩, fun _ => rfl, fun _ => rfl, fun _ _ h => h, fun _ h => h⟩

theorem LaneStep.updGate (s : State) (g : Fin 4) (f : Gate → Gate) : LaneStep s (s.updGate g f) :=
  ⟨⟨_, _, _, _, _, _, _, rfl⟩, fun _ => rfl, fun _ => rfl, fun _ _ h => h, fun _ h => h⟩

theorem LaneStep.mapGates (s : State) (f : Fin 4 → Gate → Gate) : LaneStep s (s.mapGates f) :=
  ⟨⟨_, _, _, _, _, _, _, rfl⟩, fun _ => rfl, fun _ => rfl, fun _ _ h => h, fun _ h => h⟩

theorem LaneStep.updStream (s : State) (n : Fin 2) (f : CaptureStream → CaptureStream) : LaneStep s (s.updStream n f) :=
  ⟨⟨_, _, _, _, _, _, _, rfl⟩, fun _ => rfl, fun _ => rfl, fun _ _ h => h, fun _ h => h⟩

theorem LaneStep.mapSqs (s : State) (f : Fin 4 → Sq → Sq) : LaneStep s (s.mapSqs f) :=
  ⟨⟨_, _, _, _, _, _, _, rfl⟩, fun _ => rfl, fun _ => rfl, fun _ _ h => h, fun _ h => h⟩

theorem LaneStep.recordEvent (s : State) (e : Fin 12) (d : EventDetail) : LaneStep s (s.recordEvent e d) :=
  ⟨⟨_, _, _, _, _, _, _, rfl⟩, fun _ => rfl, fun _ => rfl, fun _ _ h => h, fun _ h => h⟩

/-! ### The output stage -/

@[simp] theorem Channel.driveTo_owner (c : Channel) (now : Tick) (code : DriveCode) (duty period offset : Nat) :
    (c.driveTo now code duty period offset).owner = c.owner := rfl

@[simp] theorem Channel.driveTo_code (c : Channel) (now : Tick) (code : DriveCode) (duty period offset : Nat) :
    (c.driveTo now code duty period offset).code = code := rfl

@[simp] theorem Channel.turnOff_code (c : Channel) (now : Tick) (offset : Nat) : (c.turnOff now offset).code = .off := by
  unfold Channel.turnOff; split <;> simp_all

@[simp] theorem Channel.turnOff_owner (c : Channel) (now : Tick) (offset : Nat) :
    (c.turnOff now offset).owner = c.owner := by
  unfold Channel.turnOff; split <;> rfl

@[simp] theorem Channel.applyPhase_owner (c : Channel) (forced : Bool) (now : Tick) (n : Fin 6) (p : Phase) (period : Nat) :
    (c.applyPhase forced now n p period).owner = c.owner := by
  unfold Channel.applyPhase
  dsimp only
  split
  · simp
  · split
    · rfl
    · split <;> rfl

@[simp] theorem Channel.applyPhase_forced (c : Channel) (now : Tick) (n : Fin 6) (p : Phase) (period : Nat) :
    (c.applyPhase true now n p period).code = .off := by simp [Channel.applyPhase]

theorem LaneStep.laneOff (s : State) (l : Fin 4) (offset : Nat := 0) : LaneStep s (s.laneOff l offset) :=
  .mapChannels s _ (fun c => by split <;> simp) fun c _ h => by split <;> simp [h]

theorem LaneStep.setOff (s : State) (set : ChannelSet) (offset : Nat := 0) : LaneStep s (s.setOff set offset) :=
  .mapChannels s _ (fun c => by split <;> simp) fun c _ h => by split <;> simp [h]

theorem LaneStep.applyPhase (s : State) (l : Fin 4) (p : Phase) (period : Nat) : LaneStep s (s.applyPhase l p period) :=
  .mapChannels s _ (fun c => by split <;> simp) fun c hf h => by split <;> simp [h, hf]

/-! ### The capture writer -/

theorem LaneStep.freezeStream (s : State) (n : Fin 2) : LaneStep s (s.freezeStream n) :=
  (LaneStep.updStream s n _).trans (.recordEvent _ _ _)

theorem LaneStep.freezeIf (s : State) (n : Fin 2) (c : FreezeCondition) : LaneStep s (s.freezeIf n c) :=
  .ite (fun _ => .freezeStream s n) fun _ => .refl s

theorem LaneStep.tripFreeze (s : State) : LaneStep s s.tripFreeze := (LaneStep.freezeIf s 0 _).trans (.freezeIf _ 1 _)

theorem LaneStep.laneFault (s : State) (l : Fin 4) : LaneStep s (s.laneFault l) :=
  (LaneStep.freezeIf s 0 _).trans (.freezeIf _ 1 _)

theorem LaneStep.triggerStream (s : State) (n : Fin 2) (l : Fin 4) : LaneStep s (s.triggerStream n l) :=
  .ite (fun _ => .updStream s n _) fun _ => .refl s

theorem LaneStep.laneEntered (s : State) (l : Fin 4) : LaneStep s (s.laneEntered l) :=
  (LaneStep.triggerStream s 0 l).trans (.triggerStream _ 1 l)

/-! ### Lanes and gates -/

theorem LaneStep.holdSlot (s : State) (g : Segment) : LaneStep s (s.holdSlot g) := by
  unfold State.holdSlot; split
  · exact .refl s
  · exact .updSlot s _ _

theorem LaneStep.releaseSlot (s : State) (g : Segment) : LaneStep s (s.releaseSlot g) := by
  unfold State.releaseSlot; split
  · exact .refl s
  · exact .updSlot s _ _

theorem LaneStep.releaseSlots : ∀ (gs : List Segment) (s : State), LaneStep s (s.releaseSlots gs)
  | [], s => .refl s
  | g :: gs, s => (LaneStep.releaseSlot s g).trans (LaneStep.releaseSlots gs _)

theorem LaneStep.addOutbox (s : State) (l : Fin 4) (cs : List Completion) : LaneStep s (s.addOutbox l cs) :=
  .updLane s l _ rfl fun h => h

theorem LaneStep.readinessNotice (s : State) (l : Fin 4) : LaneStep s (s.readinessNotice l) := .mapSqs s _

theorem LaneStep.startHead (s : State) (l : Fin 4) : LaneStep s (s.startHead l) := by
  unfold State.startHead
  split
  · exact .refl s
  · exact (((LaneStep.updLane s l _ rfl (fun h => by cases h)).trans (.applyPhase _ l _ _)).trans (.laneEntered _ l)).trans
      (.readinessNotice _ l)

theorem LaneStep.enterGated (s : State) (l : Fin 4) : LaneStep s (s.enterGated l) := .updLane s l _ rfl fun h => by cases h

theorem LaneStep.startSet (s : State) (set : LaneSet) : LaneStep s (s.startSet set) :=
  .foldl (fun s l => .ite (fun _ => .startHead s l) fun _ => .refl s) allLanes s

theorem LaneStep.fireGate (s : State) (g : Fin 4) : LaneStep s (s.fireGate g) :=
  (LaneStep.updGate s g _).trans (.startSet _ _)

theorem LaneStep.arrive (s : State) (l g : Fin 4) : LaneStep s (s.arrive l g) :=
  .ite (fun _ => .refl s) fun _ => .ite (fun _ => .fireGate s g) fun _ => .updGate s g _

/-- The start test is a lane step (R13). -/
theorem LaneStep.startTest (s : State) (l : Fin 4) : LaneStep s (s.startTest l) := by
  unfold State.startTest
  split
  · split
    · exact .refl s
    · split
      · exact .startHead s l
      · exact (LaneStep.enterGated s l).trans (.arrive _ l _)
  · exact .refl s

theorem LaneStep.leaveGates (s : State) (l : Fin 4) : LaneStep s (s.leaveGates l) := .mapGates s _

/-- The ending of a segment is a lane step (R35). -/
theorem LaneStep.endSegment (s : State) (l : Fin 4) (r : Running) (st : Status) : LaneStep s (s.endSegment l r st) := by
  unfold State.endSegment
  dsimp only
  refine LaneStep.trans ?_ (.startTest _ l)
  have h1 : LaneStep s (if r.seg.endAction = .coast then s.laneOff l else s) := .ite (fun _ => .laneOff s l) fun _ => .refl s
  have h2 := (h1.trans (.releaseSlot _ r.seg)).trans (.addOutbox _ l [s.ranCompletion l r st (endDetail r.seg st)])
  have h3 := h2.trans (.updLane _ l (fun ln => { ln with
      state := r.seg.endAction.nextState
      holdTimer := if r.seg.endAction = .hold then holdStart ln.holdLimit else none }) rfl
      (by cases h : r.seg.endAction <;> simp [EndAction.nextState]))
  exact .ite (fun _ => h3.trans (.laneFault _ l)) fun _ => h3

theorem LaneStep.endIfDue (s : State) (l : Fin 4) : LaneStep s (s.endIfDue l) := by
  unfold State.endIfDue
  split
  · split
    · exact .endSegment ..
    · exact .refl s
  · exact .refl s

theorem LaneStep.phaseEnd (s : State) (l : Fin 4) : LaneStep s (s.phaseEnd l) := by
  unfold State.phaseEnd
  split
  · refine .ite (fun _ => ?_) fun _ => .refl s
    split
    · exact .endSegment ..
    · exact (LaneStep.updLane s l _ rfl (fun h => by cases h)).trans (.applyPhase _ l _ _)
  · exact .refl s

theorem LaneStep.segmentTimeout (s : State) (l : Fin 4) : LaneStep s (s.segmentTimeout l) := by
  unfold State.segmentTimeout
  split
  · exact .ite (fun _ => .endIfDue s l) fun _ => .refl s
  · exact .refl s

theorem LaneStep.currentStop (s : State) (l : Fin 4) : LaneStep s (s.currentStop l) := by
  unfold State.currentStop
  split
  · exact .ite (fun _ => .endIfDue s l) fun _ => .refl s
  · exact .refl s

theorem LaneStep.inputStop (s : State) (i l : Fin 4) : LaneStep s (s.inputStop i l) := by
  unfold State.inputStop
  split
  · exact .ite (fun _ => .endIfDue s l) fun _ => .refl s
  · exact .refl s

theorem LaneStep.holdExpiry (s : State) (l : Fin 4) : LaneStep s (s.holdExpiry l) := by
  unfold State.holdExpiry
  refine .ite (fun _ => ?_) fun _ => .refl s
  split
  · exact ((LaneStep.laneOff s l).trans (.updLane _ l _ rfl fun h => by cases h)).trans (.startTest _ l)
  · exact (LaneStep.laneOff s l).trans (.updLane _ l _ rfl fun h => h)
  · exact .refl s

theorem LaneStep.gateTimeoutLane (s : State) (g l : Fin 4) : LaneStep s (s.gateTimeoutLane g l) := by
  unfold State.gateTimeoutLane
  split
  · exact .refl s
  · exact (((LaneStep.releaseSlot s _).trans (.updLane _ l _ rfl fun h => by
      revert h; dsimp only; cases (State.lane _ l).resume <;> simp [Resume.state])).trans (.startTest _ l)).trans
        (.readinessNotice _ l)

theorem LaneStep.gateTimeout (s : State) (g : Fin 4) : LaneStep s (s.gateTimeout g) :=
  .ite (fun _ => (LaneStep.updGate s g _).trans
      (.foldl (fun s l => .ite (fun _ => .gateTimeoutLane s g l) fun _ => .refl s) allLanes _)) fun _ => .refl s

/-- A flush is a lane step (R41, R89). -/
theorem LaneStep.flushLane (s : State) (l : Fin 4) (st : Status) (offset : Nat := 0) : LaneStep s (s.flushLane l st offset) := by
  unfold State.flushLane
  dsimp only
  refine (((LaneStep.leaveGates s l).trans (.laneOff _ l offset)).trans (.releaseSlots _ _)).trans (.updLane _ l _ rfl fun h => ?_)
  revert h
  dsimp only
  cases (State.lane _ l).state <;> simp [LaneState.afterFlush]

theorem LaneStep.takeHalt (s : State) (l : Fin 4) (o : Origin) (offset : Nat := 0) : LaneStep s (s.takeHalt l o offset) :=
  (((LaneStep.flushLane s l _ offset).trans (.addOutbox _ l _)).trans (.startTest _ l)).trans (.readinessNotice _ l)

theorem LaneStep.disableLane (s : State) (l : Fin 4) : LaneStep s (s.disableLane l) := by
  refine .ite (fun _ => .refl s) fun _ => ?_
  refine LaneStep.trans ?_ (.readinessNotice _ l)
  exact .ite (fun _ => (LaneStep.flushLane s l _).trans (.laneFault _ l)) fun _ => .flushLane s l _

/-- The delivery of a segment is a lane step (R25). -/
theorem LaneStep.deliverSegment (s : State) (l : Fin 4) (g : Segment) : LaneStep s (s.deliverSegment l g) :=
  .ite (fun _ => ((LaneStep.holdSlot s g).trans (.updLane _ l _ rfl fun h => h)).trans (.startTest _ l))
    fun _ => (LaneStep.addOutbox s l _).trans (.laneFault _ l)

theorem LaneStep.holdLane (s : State) (l : Fin 4) (offset : Nat := 0) : LaneStep s (s.holdLane l offset) :=
  (LaneStep.laneOff s l offset).trans (.updLane _ l _ rfl fun h => by cases h)

/-- A domain trip reaches a lane in a lane step (R78). -/
theorem LaneStep.laneTrip (s : State) (l : Fin 4) (c : Fin 6) (offset : Nat := 0) : LaneStep s (s.laneTrip l c offset) := by
  unfold State.laneTrip
  split
  · exact .refl s
  · exact .refl s
  · exact .updLane s l _ rfl fun h => by cases h
  · exact .holdLane s l offset
  · exact (LaneStep.leaveGates s l).trans (.holdLane _ l offset)
  · exact (((LaneStep.holdLane s l offset).trans (.releaseSlot _ _)).trans (.addOutbox _ l _)).trans (.laneFault _ l)

theorem LaneStep.leaveHeld (s : State) (l : Fin 4) : LaneStep s (s.leaveHeld l) :=
  .ite (fun _ => (LaneStep.updLane s l _ rfl (fun h => by cases h)).trans (.startTest _ l)) fun _ => .refl s

theorem LaneStep.rearmLanes (s : State) : LaneStep s s.rearmLanes := .foldl LaneStep.leaveHeld allLanes s

theorem LaneStep.tripLanes (s : State) (d : Fin 3) (c : Fin 6) (offset : Nat := 0) : LaneStep s (s.tripLanes d c offset) :=
  .foldl (fun s l => .ite (fun _ => .laneTrip s l c offset) fun _ => .refl s) allLanes s

theorem LaneStep.captureInputs (s : State) (i : Fin 4) : LaneStep s (allLanes.foldl (fun s l => s.inputStop i l) s) :=
  .foldl (fun s l => .inputStop s i l) allLanes s

end Sys2Proof.Machine
end

