-- ==== Sys2Proof/Laws/Terms.lean ====
section
/-! SUPPORT. What the model computes is what the statements say: the causes of an ending and its completion (R34, R43, R44), the
bytes that rings occupy (R137, R146), the registers as they read (section 10.8) and the registers that can be written (R168). -/

namespace Sys2Proof.Machine

/-! ### Endings of a segment (R34, R43, R44) -/

theorem satSucc_eq (top n : Nat) : satSucc top n = min top (n + 1) := by
  unfold satSucc; split <;> omega

theorem State.atLastPhase_iff {s : State} {r : Running} :
    s.atLastPhase r = true ↔ (segmentPhases s r.seg).length ≤ r.phaseIndex + 1 :=
  decide_eq_true_iff

theorem State.lastPassDone_iff {s : State} {r : Running} : s.lastPassDone r = true ↔ CauseArises s r .done := by
  simp [State.lastPassDone, CauseArises, PassEnds, State.atLastPhase_iff, satSucc_eq, and_assoc]

theorem State.inputStopMet_iff {s : State} {r : Running} : s.inputStopMet r = true ↔ CauseArises s r .stoppedInput := by
  cases h : r.seg.inputStop with
  | none => simp [State.inputStopMet, CauseArises, h]
  | some x => cases he : x.edge <;> simp [State.inputStopMet, CauseArises, h, Edge.metBy, he, and_assoc]

/-- A segment ends with a status at the present tick exactly when the model finds that cause (R34). -/
theorem State.endCause_iff {s : State} {r : Running} {st : Status} : s.endCause r = some st ↔ EndsNow s r st := by
  by_cases h1 : CauseArises s r .stoppedCurrent
  · have he : s.endCause r = some .stoppedCurrent := if_pos h1
    cases st <;> simp only [he, EndsNow, h1] <;> simp [CauseArises]
  by_cases h2 : CauseArises s r .stoppedInput
  · have he : s.endCause r = some .stoppedInput := (if_neg h1).trans (if_pos (State.inputStopMet_iff.mpr h2))
    cases st <;> simp only [he, EndsNow, h1, h2] <;> simp [CauseArises]
  have n2 := mt State.inputStopMet_iff.mp h2
  by_cases h3 : CauseArises s r .timedOut
  · have he : s.endCause r = some .timedOut := (if_neg h1).trans ((if_neg n2).trans (if_pos h3))
    cases st <;> simp only [he, EndsNow, h1, h2, h3] <;> simp [CauseArises]
  have he : s.endCause r = if s.lastPassDone r then some .done else none :=
    (if_neg h1).trans ((if_neg n2).trans (if_neg h3))
  by_cases h4 : CauseArises s r .done
  · rw [he.trans (if_pos (State.lastPassDone_iff.mpr h4))]
    cases st <;> simp only [EndsNow, h1, h2, h3, h4] <;> simp [CauseArises]
  · rw [he.trans (if_neg (mt State.lastPassDone_iff.mp h4))]
    cases st <;> simp only [EndsNow, h1, h2, h3, h4] <;> simp [CauseArises]

/-- A segment goes on at the present tick exactly when no cause of R34 has arisen. -/
theorem State.endCause_none_iff {s : State} {r : Running} : s.endCause r = none ↔ ∀ st, ¬CauseArises s r st := by
  constructor
  · intro h st hst
    have hn : ∀ x, ¬EndsNow s r x := fun x hx => nomatch h.symm.trans (State.endCause_iff.mpr hx)
    by_cases h1 : CauseArises s r .stoppedCurrent
    · exact hn _ ⟨h1, trivial⟩
    by_cases h2 : CauseArises s r .stoppedInput
    · exact hn _ ⟨h2, h1⟩
    by_cases h3 : CauseArises s r .timedOut
    · exact hn _ ⟨h3, h1, h2⟩
    cases st with
    | stoppedCurrent => exact h1 hst
    | stoppedInput => exact h2 hst
    | timedOut => exact h3 hst
    | done => exact hn _ ⟨hst, h1, h2, h3⟩
    | _ => exact hst
  · intro h
    cases hc : s.endCause r with
    | none => rfl
    | some st => exact absurd (State.endCause_iff.mp hc).1 (h st)

theorem endDetail_eq (g : Segment) (st : Status) : endDetail g st = endingDetail g st := by
  cases st <;> cases hc : g.currentStop <;> cases hi : g.inputStop <;> simp [endDetail, endingDetail, hc, hi]

/-- The completion of a segment that has run (R43, R44). -/
theorem State.ranCompletion_eq (s : State) (l : Fin 4) (r : Running) (st : Status) (detail : Nat) :
    s.ranCompletion l r st detail = runCompletion s l r st detail := by
  have h : s.repeatsNow r = if PassEnds s r then min 255 (r.repeatsDone + 1) else r.repeatsDone := by
    simp [State.repeatsNow, PassEnds, State.atLastPhase_iff, satSucc_eq]
  cases he : r.endedPhase <;> simp [State.ranCompletion, runCompletion, h, he]

/-! ### Rings in use (R137, R146) -/

/-- A range shares a byte with what is occupied exactly when the model finds an overlap. -/
theorem State.overlaps_iff {s : State} {except : Option (Fin 2)} {base size : Nat} :
    s.overlaps except (base, size) = true ↔ SharesByte s except base size := by
  simp only [State.overlaps, State.ringRanges, List.any_cons, List.any_append, List.any_map, Bool.or_eq_true, List.any_eq_true,
    mem_allLanes, mem_allPairs, true_and, List.mem_filter, rangesMeet_iff, Function.comp_apply, CaptureStream.active,
    Bool.and_eq_true, bne_iff_ne, SharesByte, Occupied, Config.configBlockSize]
  constructor
  · rintro (⟨k, h, h'⟩ | (⟨q, k, h, h'⟩ | ⟨q, k, h, h'⟩) | ⟨n, ⟨ha, he⟩, k, h, h'⟩)
    · exact ⟨k, h.1, h.2, .inl (by omega)⟩
    · exact ⟨k, h.1, h.2, .inr (.inl ⟨q, h'⟩)⟩
    · exact ⟨k, h.1, h.2, .inr (.inr (.inl ⟨q, h'⟩))⟩
    · exact ⟨k, h.1, h.2, .inr (.inr (.inr ⟨n, he, ha, h'⟩))⟩
  · rintro ⟨k, h1, h2, h | ⟨q, h⟩ | ⟨q, h⟩ | ⟨n, he, ha, h⟩⟩
    · exact .inl ⟨k, ⟨h1, h2⟩, by omega⟩
    · exact .inr (.inl (.inl ⟨q, k, ⟨h1, h2⟩, h⟩))
    · exact .inr (.inl (.inr ⟨q, k, ⟨h1, h2⟩, h⟩))
    · exact .inr (.inr ⟨n, ⟨ha, he⟩, k, ⟨h1, h2⟩, h⟩)

/-! ### Registers (R168, section 10.8) -/

theorem writableAt_iff {a : Nat} {r : WritableRegister} : writableAt a = some r ↔ writtenRegister a r := by
  unfold writableAt writtenRegister
  split <;> cases r <;> simp_all

theorem bit_lt (b : Bool) : bit b < 2 := by cases b <;> decide

/-- A bit of STATUS is that of the field it lies in. -/
theorem statusSum_bit {e c f k p pc pe re le : Nat} (he : e < 8) (hc : c < 8) (hf : f < 4) (hk : k < 4) (hp : p < 2) (hpc : pc < 4)
    (hpe : pe < 2) (hre : re < 2) {b : Nat} (hb : b < 32) :
    (e + 8 * c + 64 * f + 256 * k + 1024 * p + 2048 * pc + 8192 * pe + 16384 * re + 65536 * (le % 256)).testBit b =
      ([(0, 3, e), (3, 3, c), (6, 2, f), (8, 2, k), (10, 1, p), (11, 2, pc), (13, 1, pe), (14, 1, re), (16, 8, le)].any fun f =>
        decide (f.1 ≤ b) && decide (b < f.1 + f.2.1) && f.2.2.testBit (b - f.1)) := by
  simp only [Nat.testBit_eq_decide_div_mod_eq, List.any_cons, List.any_nil]
  interval_cases b
  all_goals simp only [Nat.reduceLeDiff, decide_true, decide_false, Bool.true_and, Bool.false_and, Bool.or_false, Bool.false_or,
    Nat.reduceAdd, Nat.reduceSub, Nat.reduceLT, Nat.reducePow, Nat.div_one, Nat.zero_le, decide_eq_decide, decide_eq_false_iff_not]
  all_goals first | omega | exact decide_eq_decide.mpr (by omega)

theorem EngineState.code_lt (e : EngineState) : e.code < 8 := by cases e <;> decide

theorem ConfigError.code_lt (e : ConfigError) : e.code < 8 := by cases e <;> decide

theorem FetchState.code_lt (e : FetchState) : e.code < 4 := by cases e <;> simp [FetchState.code]

theorem ResetCause.code_lt (e : ResetCause) : e.code < 4 := by cases e <;> decide

theorem State.permitCause_lt (s : State) : s.permitCause < 4 := by unfold State.permitCause; split <;> split <;> decide

theorem registerFields_status (s : State) : registerFields s 2 =
    [(0, 3, s.engine.code), (3, 3, s.configError.code), (6, 2, s.fetch.code), (8, 2, s.resetCause.code), (10, 1, bit s.permitOn),
      (11, 2, s.permitCause), (13, 1, bit s.postError), (14, 1, bit s.releaseError), (16, 8, s.linkErrors)] := by
  simp only [registerFields, State.permitOn, State.permitCause, bit, List.cons.injEq, Prod.mk.injEq, true_and, and_true]
  refine ⟨?_, ?_, ?_, ?_, ?_⟩
  · cases s.engine <;> rfl
  · cases s.configError <;> rfl
  · cases s.fetch <;> rfl
  · cases s.resetCause <;> rfl
  · refine ⟨rfl, ?_⟩
    rcases h : s.permit.enableHigh <;> rcases h' : s.permit.supplyGood <;> rfl

/-- Each register reads as its fields say (R168, section 10.8). -/
theorem State.register_bit (s : State) {k b : Nat} (hb : b < 32) : (s.register k).getLsbD b = registerBit s k b := by
  match k with
  | 0 =>
    show Config.ident.getLsbD b = ([(0, 8, 0x5A), (8, 8, 0x36), (16, 8, 1), (24, 8, 16)] : List (Nat × Nat × Nat)).any _
    interval_cases b <;> decide
  | 1 =>
    have hr : registerFields s 1 = [(0, 1, bit s.runBit), (4, 1, bit (s.enables.getLsbD 0)), (5, 1, bit (s.enables.getLsbD 1)),
        (6, 1, bit (s.enables.getLsbD 2))] := by
      simp only [registerFields, State.runBit, bit, List.cons.injEq, Prod.mk.injEq, true_and, and_true]
      split <;> simp_all
    simp only [registerBit, hr, State.register, State.controlValue]
    generalize s.runBit = x
    generalize s.enables = v
    revert x v
    interval_cases b <;> decide
  | 2 =>
    rw [State.register, State.statusValue, BitVec.getLsbD_ofNat, registerBit, registerFields_status,
      statusSum_bit s.engine.code_lt s.configError.code_lt s.fetch.code_lt s.resetCause.code_lt (bit_lt _) s.permitCause_lt (bit_lt _)
        (bit_lt _) hb]
    simp [hb]
  | 3 => simp [State.register, registerBit, registerFields]
  | 4 => simp [State.register, registerBit, registerFields]
  | 5 =>
    simp only [State.register, State.causeValue, registerBit, registerFields]
    generalize s.cause = v
    revert v
    interval_cases b <;> decide
  | _ + 6 => simp [State.register, registerBit, registerFields]

end Sys2Proof.Machine
end

