-- ==== Sys2Proof/Laws/Time.lean ====
section
/-! SUPPORT. What the tick does, said once: what the counters and the samples make of each block's records, and that a tick at
which nothing is due takes nothing. -/

namespace Sys2Proof.Machine

/-! ### The samples -/

theorem State.observe_channel (s : State) (p : PinSample) (c : Fin 6) :
    (s.observe p).channel c = (s.channel c).sample (samplesOf p)[c] := by
  simp only [State.observe, State.mapChannels_channel]; rfl

theorem State.observe_lane (s : State) (p : PinSample) (l : Fin 4) :
    (s.observe p).lane l = { s.lane l with state := (s.lane l).state.sample (samplesOf p) (s.lane l).owned } := by
  simp only [State.observe, State.mapChannels_lane, State.mapLanes_lane]; rfl

theorem State.observe_senseInput (s : State) (p : PinSample) (i : Fin 4) :
    (s.observe p).senseInput i = (s.senseInput i).sample p.sense[i] := by
  simp only [State.observe, State.mapChannels_senseInput, State.mapLanes_senseInput, State.mapSenseInputs_senseInput]; rfl

/-- The samples touch channels, lanes, the filters and the last-sample store alone. -/
theorem State.observe_frame (s : State) (p : PinSample) :
    s.observe p =
      { s with
        channels := (s.observe p).channels, lanes := (s.observe p).lanes, senseInputs := (s.observe p).senseInputs
        lastSample := samplesOf p, permit := s.permit.sample p.enable p.supply } := rfl

theorem samplesOf_get (p : PinSample) (c : Fin 6) : (samplesOf p)[c] = max (-4000) (min 4000 p.currents[c]) := by
  fin_cases c <;> rfl

/-! ### The counters -/

theorem State.advance_channel (s : State) (c : Fin 6) : s.advance.channel c = (s.channel c).rebase (s.tick + 1) := by
  simp only [State.advance, State.mapCqs_channel, State.mapGates_channel, State.mapChannels_channel]; rfl

theorem State.advance_lane (s : State) (l : Fin 4) :
    s.advance.lane l = { s.lane l with state := (s.lane l).state.advance, holdTimer := countDown (s.lane l).holdTimer } := by
  simp only [State.advance, State.mapCqs_lane, State.mapGates_lane, State.mapChannels_lane, State.mapLanes_lane]; rfl

theorem State.advance_gate (s : State) (g : Fin 4) :
    s.advance.gate g = { s.gate g with waitTimer := countDown (s.gate g).waitTimer } := by
  simp only [State.advance, State.mapCqs_gate, State.mapGates_gate]; rfl

theorem State.advance_cq (s : State) (q : Fin 2) :
    s.advance.cq q = { s.cq q with delayTimer := countDown (s.cq q).delayTimer } := by
  simp only [State.advance, State.mapCqs_cq]; rfl

/-- The counters touch the tick, channels, lanes, gates and CQs alone. -/
theorem State.advance_frame (s : State) :
    s.advance =
      { s with
        tick := s.tick + 1, channels := s.advance.channels, lanes := s.advance.lanes, gates := s.advance.gates
        cqs := s.advance.cqs } := rfl

theorem Channel.rebase_eq (c : Channel) (now : Tick) :
    c.rebase now =
      { c with carrierStart := (c.rebase now).carrierStart, bbmChanges := (c.rebase now).bbmChanges } := by
  unfold Channel.rebase; split <;> rfl

@[simp] theorem Channel.rebase_code (c : Channel) (now : Tick) : (c.rebase now).code = c.code := by rw [Channel.rebase_eq]

@[simp] theorem Channel.rebase_owner (c : Channel) (now : Tick) : (c.rebase now).owner = c.owner := by rw [Channel.rebase_eq]

@[simp] theorem Channel.rebase_overCount (c : Channel) (now : Tick) : (c.rebase now).overCount = c.overCount := by
  rw [Channel.rebase_eq]

@[simp] theorem Channel.rebase_threshold (c : Channel) (now : Tick) : (c.rebase now).threshold = c.threshold := by
  rw [Channel.rebase_eq]

@[simp] theorem Channel.rebase_driven (c : Channel) (now : Tick) : (c.rebase now).driven = c.driven := by
  rw [Channel.rebase_eq]; rfl

@[simp] theorem Channel.sample_code (c : Channel) (i : Int) : (c.sample i).code = c.code := rfl

@[simp] theorem Channel.sample_owner (c : Channel) (i : Int) : (c.sample i).owner = c.owner := rfl

/-- A channel that is not driven has no count after its sample (R72). -/
theorem Channel.sample_off {c : Channel} (h : c.code = .off) (i : Int) : c.sample i = { c with overCount := false } := by
  simp [Channel.sample, Channel.overThreshold, Channel.driven, h]

/-! ### Taking nothing -/

theorem State.takeAll_nil (s : State) : s.takeAll [] = s := rfl

/-- Events that change nothing leave the state as it is, in any order. -/
theorem State.takeAll_none {s : State} (h : ∀ e, s.takeDue e = s) : ∀ es : List DueEvent, s.takeAll es = s
  | [] => rfl
  | e :: es => by
    show State.takeAll (s.takeDue e) es = s
    rw [h e]; exact State.takeAll_none h es

end Sys2Proof.Machine
end

