-- ==== Sys2Proof/WellFormed.lean ====
section
/-! DEFINITION. The checks that operands of a command meet beyond their types. A command outside them still has a meaning;
these are the operands that a real part can present. -/

namespace Sys2Proof

/-- A moment inside a tick lies below 10 us. -/
def offsetOk (offset : Nat) : Bool := decide (offset < Config.tickNs)

/-- The code of an unknown-code frame is neither a read's nor a write's (R160). -/
def unknownCodeOk (code : Byte) : Bool := code != Config.readCode && code != Config.writeCode

/-- A current outside the range is delivered as the nearer end (R142), so every integer is a current; the drive supply
stays at or below its maximum operating level of 30 V (chapter 9, electrical limits). -/
def pinsOk (p : PinSample) : Bool := decide (p.supply ≤ 30000)

/-- What the samples of a tick bring. -/
def DueEvent.ofSamples : DueEvent → Bool
  | .currentStop _ => true
  | .overcurrentTrip _ => true
  | _ => false

/-- The order of a tick names each event at most once, and leaves for later only what the samples bring. -/
def orderOk (o : TickOrder) : Bool := decide (o.first ++ o.late).Nodup && o.late.all DueEvent.ofSamples

/-- The agents that wait together with an access are named at most once, and an agent of the fetch side has at most 9 accesses to
make (R53). -/
def accessOk (a : Access) : Bool := decide a.waiting.Nodup && decide (a.turns ≤ 9)

/-- Bits of an incomplete byte are there only when the frame ends (R159). -/
def partOk (extra : Fin 8) (ends : Bool) : Bool := ends || extra == 0

/-- The operands of a command are those a part can present. -/
def Instr.wellFormed : Instr → Bool
  | .tick pins order => pinsOk pins && orderOk order
  | .shortDetect _ offset => offsetOk offset
  | .softReset pins turns => pinsOk pins && decide (turns ≤ 9)
  | .powerOnResetEnd pins _ => pinsOk pins
  | .pinResetEnd pins _ => pinsOk pins
  | .unknownCodeFrame code _ _ => unknownCodeOk code
  | .enableFilterChange => true
  | .supplyFilterChange => true
  | .senseInputChange _ => true
  | .phaseEnd _ => true
  | .segmentTimeout _ => true
  | .holdExpiry _ => true
  | .gateTimeout _ => true
  | .coalescingDelayExpiry _ => true
  | .captureSampleInstant _ access => accessOk access
  | .readFrame _ extra access ends => partOk extra ends && accessOk access
  | .writeFrame _ _ => true
  | .writeChunk access => accessOk access
  | .registerWrite _ _ _ => true
  | .runStart => true
  | .runStop => true
  | .clearErrors => true
  | .irqEnable => true
  | .postTail => true
  | .postResume => true
  | .postReset => true
  | .releaseCq => true
  | .releaseCap => true
  | .causeClear => true
  | .powerOnResetBegin => true
  | .pinResetBegin turns => decide (turns ≤ 9)
  | .startDrained => true
  | .configReadComplete waiting => decide waiting.Nodup
  | .sqArbitration => true
  | .recordRead waiting => decide waiting.Nodup
  | .nop => true
  | .segment => true
  | .halt offset => offsetOk offset
  | .bind => true
  | .unbind offset => offsetOk offset
  | .setLimits offset => offsetOk offset
  | .setDomains => true
  | .rearm => true
  | .loadPattern => true
  | .patternCopyComplete waiting => decide waiting.Nodup
  | .setGate => true
  | .captureStart => true
  | .captureStop => true
  | .snapshot => true
  | .snapshotWriteComplete waiting => decide waiting.Nodup
  | .waitPostAccept => true
  | .outboxAccept => true
  | .completionWrite access => accessOk access
  | .eventWrite access => accessOk access

end Sys2Proof
end

