-- ==== Sys2Proof/Tests/Slice0.lean ====
section
/-! SUPPORT. Tests of the model on small states, and for every statement with hypotheses a state that meets them. Expected values
come from the manual: its tables, its worked examples, or a hand calculation from a rule. -/

namespace Sys2Proof.Tests

open Sys2Proof.Machine

/-! Each evaluation by the kernel takes a thread with a large stack: one at a time. -/
set_option Elab.async false

/-! ### Builders -/

/-- Every pin quiet, ENABLE high and VS at 12 V. -/
def quiet : PinSample :=
  { currents := Vector.replicate 6 0, enable := true, supply := 12000, sense := Vector.replicate 4 false }

/-- No order asked for. -/
def plainOrder : TickOrder := { first := [], late := [] }

/-- An access with no other agent about. -/
def alone : Access := { turns := 0, waiting := [] }

/-- An access for which every other agent waits too. -/
def contended : Access := { turns := 0, waiting := [.link, .fetch, .loader, .snapshot, .posting, .capture] }

/-- The state an outcome gives. -/
def after (o : Host.Outcome State Fault Refusal) : State :=
  match o with
  | .next t => t
  | _ => State.reset

/-- A 64-byte record of a kind with some bytes set. -/
def record (kind : Nat) (fields : List (Nat × Nat)) : List Byte :=
  (List.range 64).map fun i => BitVec.ofNat 8 (if i = 2 then kind else (fields.lookup i).getD 0)

/-- A ready SQ of four entries with one record. -/
def readyQueue : Sq :=
  { base := 0x400, size := 4, cls := .normal, weight := 1, target := 0, state := .ready, head := 0, tail := 1, expected := 0 }

/-- A CQ of eight entries at 0x1000 with coalescing count 3 and delay 5. -/
def emptyRing : Cq :=
  { base := 0x1000, size := 8, coalCount := 3, coalDelay := 5, tail := 0, hostHead := 0, phaseTag := true, unsignalled := 0
    delayTimer := none }

/-- A running engine with SQ0 and CQ0, and the permit off. -/
def idle : State :=
  { State.reset with
    engine := .running, eventCq := some 0
    sqs := #v[readyQueue, Sq.afterReset, Sq.afterReset, Sq.afterReset]
    cqs := #v[emptyRing, Cq.afterReset] }

/-- The same with the permit on. -/
def on : State := { idle with permit := { PermitMonitor.afterReset with enableHigh := true, supplyGood := true } }

/-- The fetch engine holds a checked record from SQ0. -/
def given (s : State) (r : List Byte) : State := { s with fetch := .reading 0 r true }

/-- A lane bound to a channel set, in a state. -/
def bound (s : State) (l : Fin 4) (set : ChannelSet) (st : LaneState) : State :=
  (s.mapChannels fun c ch => if set.getLsbD c.val then { ch with owner := some l } else ch).updLane l fun ln =>
    { ln with owned := set, state := st }

/-- The origin of a record from SQ0. -/
def origin0 (kind : Byte) : Origin := { tag := 7, kind := kind, sq := 0, sqHead := 1, cq := 0 }

/-- A completion of a kind. -/
def anyCompletion (kind : Byte) : Completion := plainCompletion (origin0 kind) .done none 0

/-- A phase of some ticks that drives channel 0 with a code. -/
def phaseOf (ticks : Nat) (code : PhaseCode) : Phase :=
  { duration := ticks, codes := #v[code, .keep, .keep, .keep, .keep, .keep], duty := 600 }

/-- A segment of one phase of 50 ticks, HIGH on channel 0, run once. -/
def plainSegment : Segment :=
  { origin := origin0 0x02, gate := none, source := .inline [phaseOf 50 (.drive .high)], repeatCount := 1, endAction := .hold
    period := 50, timeout := 0, currentStop := none, inputStop := none }

/-- Its context at its start tick 0. -/
def running (g : Segment) : Running :=
  { seg := g, phaseIndex := 0, phaseEnd := 50, repeatsDone := 0, elapsed := 0, peak := 0, samples := 0, timeoutTick := none
    stopMet := false, endedPhase := none }

/-- Lane 0 runs a segment on channel 0. -/
def runningLane (g : Segment) : State := bound on 0 1 (.running (running g))

/-- The status, lane and detail of the last completion that the fetch engine handed over. -/
def told (i : Instr) (s : State) : Option (Status × Option (Fin 4) × Nat) :=
  (after (exec i s)).pendingList.getLast?.map fun c => (c.status, c.lane, c.detail)

/-- The fetch engine holds a record of its kind. -/
theorem given_holds (s : State) (h : s.inReset = false) (k : Nat) (fields : List (Nat × Nat)) :
    (given s (record k fields)).Holds (BitVec.ofNat 8 k) 0 (record k fields) := ⟨h, rfl, rfl⟩

/-! ### Well-formed operands -/

theorem test_wf_offset_refused :
    [Instr.shortDetect 0 10000, .halt 10000, .unbind 10000, .setLimits 10000].map Instr.wellFormed = [false, false, false, false] ∧
    [Instr.shortDetect 0 9999, .halt 9999, .unbind 9999, .setLimits 9999].map Instr.wellFormed = [true, true, true, true] := by
  decide

theorem test_wf_waiting_refused :
    let twice := [XmAgent.link, .link]
    [Instr.configReadComplete twice, .recordRead twice, .patternCopyComplete twice, .snapshotWriteComplete twice].map
      Instr.wellFormed = [false, false, false, false] ∧ (Instr.recordRead [.link, .fetch]).wellFormed = true := by decide

theorem test_wf_unknown_code_refused : (Instr.unknownCodeFrame 0x3C [] 0).wellFormed = false ∧
    (Instr.unknownCodeFrame 0xC3 [] 0).wellFormed = false ∧ (Instr.unknownCodeFrame 0x00 [] 0).wellFormed = true := by decide

theorem test_wf_pins_refused : (Instr.softReset { quiet with supply := 30001 } 0).wellFormed = false ∧
    (Instr.softReset quiet 10).wellFormed = false ∧ (Instr.softReset quiet 9).wellFormed = true ∧
    (Instr.pinResetBegin 10).wellFormed = false ∧ (Instr.pinResetBegin 9).wellFormed = true := by decide

theorem test_wf_access_refused : (Instr.writeChunk { alone with turns := 10 }).wellFormed = false ∧
    (Instr.writeChunk { alone with waiting := [.fetch, .fetch] }).wellFormed = false ∧
    (Instr.captureSampleInstant 0 { alone with turns := 10 }).wellFormed = false ∧
    (Instr.completionWrite { alone with waiting := [.link, .link] }).wellFormed = false ∧
    (Instr.eventWrite { alone with turns := 10 }).wellFormed = false ∧
    (Instr.eventWrite contended).wellFormed = true := by decide

theorem test_wf_part_refused : (Instr.readFrame [0, 0] 3 alone false).wellFormed = false ∧
    (Instr.readFrame [0, 0] 3 alone true).wellFormed = true ∧ (Instr.readFrame [0, 0] 0 alone false).wellFormed = true := by decide

theorem test_wf_order_refused :
    (Instr.tick quiet { plainOrder with first := [.enableChange, .enableChange] }).wellFormed = false ∧
    (Instr.tick quiet { first := [.currentStop 0], late := [.currentStop 0] }).wellFormed = false ∧
    (Instr.tick quiet { plainOrder with late := [.enableChange] }).wellFormed = false ∧
    (Instr.tick quiet { plainOrder with late := [.overcurrentTrip 1, .currentStop 2] }).wellFormed = true ∧
    (Instr.tick quiet plainOrder).wellFormed = true := by decide

/-! ### Operations -/

/-- The check value of the CRC-8 with this polynomial: the nine ASCII digits give 0xF4. -/
theorem test_crc_digits : crc8 [0x31, 0x32, 0x33, 0x34, 0x35, 0x36, 0x37, 0x38, 0x39] = 0xF4 := by decide +kernel

/-- Writing 0 removes the entry. -/
theorem test_memory_zero_removes : Memory.write (Memory.write [] 5 1) 5 0 = [] := by decide

/-- A word spells no command. -/
theorem test_no_word : decodeTableWord 32 0 = none := rfl

theorem test_reset_quiet :
    [State.reset.permitOn, State.reset.register 0 == 0x1001365A, State.reset.register 2 == 0x1800] = [false, true, true] := by
  decide +kernel

/-- Section 10.8: a RUNNING engine with the permit on reads 2 in bits 2..0 of STATUS and 1 in bit 10, and CONTROL reads RUN. -/
theorem test_registers :
    let reads := fun k => (List.range 32).filter (registerBit on k)
    (on.register 1 == 1, on.register 2 == 0x402) = (true, true) ∧ (reads 1, reads 2) = ([0], [1, 10]) ∧
    (List.range 32).filter (registerBit on 0) = [1, 3, 4, 6, 9, 10, 12, 13, 16, 28] := by decide +kernel

/-! ### Commands: outcomes by the tables of the rules -/

/-- What the fetch engine tells of a record of a kind. -/
def tells (i : Instr) (s : State) (kind : Nat) (fields : List (Nat × Nat)) : Option (Status × Option (Fin 4) × Nat) :=
  told i (given s (record kind fields))

theorem test_nop_done : tells .nop idle 0x01 [] = some (.done, none, 0) := by decide +kernel

/-- R17: lane number, channel byte, BUSY, empty set, CONFLICT on the lowest owned channel, DONE. -/
theorem test_bind_table :
    [tells .bind on 0x10 [(4, 4), (5, 1)], tells .bind on 0x10 [(4, 3), (5, 64)],
      tells .bind (bound on 0 1 .idle) 0x10 [(4, 0), (5, 0)], tells .bind on 0x10 [(4, 3), (5, 0)],
      tells .bind (bound on 0 0x0C .idle) 0x10 [(4, 3), (5, 0x3F)], tells .bind on 0x10 [(4, 3), (5, 0x3F)]] =
    [some (.badArgument, none, 0), some (.badArgument, some 3, 0), some (.busy, some 0, 0), some (.badArgument, some 3, 0),
      some (.conflict, some 3, 2), some (.done, some 3, 0)] := by decide +kernel

/-- R18: lane number, NOT_BOUND, BUSY, DONE. -/
theorem test_unbind_table :
    [tells .unbind on 0x11 [(4, 4)], tells .unbind on 0x11 [(4, 3)], tells .unbind (runningLane plainSegment) 0x11 [(4, 0)],
      tells .unbind (bound on 0 1 .holding) 0x11 [(4, 0)]] =
    [some (.badArgument, none, 0), some (.notBound, some 3, 0), some (.busy, some 0, 0), some (.done, some 0, 0)] := by
  decide +kernel

/-- A SET_LIMITS of channels 0 and 5 with two thresholds and two BBM bytes. -/
def limits (t0 t5 b0 b5 : Nat) : List (Nat × Nat) :=
  [(4, 0x21), (20, t0 % 256), (21, t0 / 256), (30, t5 % 256), (31, t5 / 256), (32, b0), (37, b5)]

/-- R75: the set, the threshold of the lowest channel, then its BBM interval, DONE; 99, 4050 and 110 are no thresholds. -/
theorem test_set_limits_table :
    [tells .setLimits on 0x12 [(4, 0)], tells .setLimits on 0x12 [(4, 64)], tells .setLimits on 0x12 (limits 100 4050 1 1),
      tells .setLimits on 0x12 (limits 110 50 0 0), tells .setLimits on 0x12 (limits 100 4000 1 17),
      tells .setLimits on 0x12 (limits 100 4000 1 16)] =
    [some (.badArgument, none, 0), some (.badArgument, none, 0), some (.badArgument, none, 0x15),
      some (.badArgument, none, 0x10), some (.badArgument, none, 0x25), some (.done, none, 0)] := by decide +kernel

/-- A state whose channel 5 drives LOW. -/
def drivenLow : State := on.updChannel 5 fun c => { c with code := .low }

/-- R81: a domain above 2, a limit above 15, a driven channel, a RUNNING lane, DONE. -/
theorem test_set_domains_table :
    [tells .setDomains on 0x13 [(9, 3)], tells .setDomains on 0x13 [(12, 16)], tells .setDomains drivenLow 0x13 [],
      tells .setDomains (runningLane plainSegment) 0x13 [], tells .setDomains on 0x13 [(9, 2), (12, 15)]] =
    [some (.badArgument, none, 0x15), some (.badArgument, none, 0x22), some (.busy, none, 5), some (.busy, none, 0x10),
      some (.done, none, 0)] := by decide +kernel

/-- Domain 0 in a state with a trip count. -/
def domain0 (s : State) (st : DomainState) (count limit : Nat) : State :=
  s.updDomain 0 fun d => { d with state := st, tripCount := count, tripLimit := limit }

/-- R83: domain number, NOT_TRIPPED, LOCKED_OUT, DONE, each with the trip count. -/
theorem test_rearm_table :
    [tells .rearm on 0x14 [(4, 3)], tells .rearm on 0x14 [(4, 2)], tells .rearm (domain0 on .locked 3 3) 0x14 [],
      tells .rearm (domain0 on .tripped 2 3) 0x14 []] =
    [some (.badArgument, none, 0), some (.notTripped, none, 0), some (.lockedOut, none, 3), some (.done, none, 2)] := by
  decide +kernel

/-- Slot 15 in use by three segments. -/
def slotInUse : State := on.updSlot 15 fun x => { x with useCount := 3 }

/-- R52: slot number, alignment, range, IN_USE with the use count. -/
theorem test_load_pattern_table :
    [tells .loadPattern on 0x15 [(4, 16)], tells .loadPattern on 0x15 [(6, 4)],
      tells .loadPattern on 0x15 [(6, 0x80), (7, 0x3F)], tells .loadPattern slotInUse 0x15 [(4, 15), (6, 0x78), (7, 0x3F)]] =
    [some (.badArgument, none, 1), some (.badArgument, none, 2), some (.badArgument, none, 3), some (.inUse, none, 3)] := by
  decide +kernel

/-- A segment that waits at gate 1. -/
def gatedSegment : Segment := { plainSegment with gate := some 0 }

/-- Lane 0 waits at gate 1, whose members are lanes 0 and 1. -/
def gatedLane : State :=
  ((bound on 0 1 .gated).updLane 0 fun l => { l with queue := [gatedSegment] }).updGate 0 fun g =>
    { g with members := 0x3, arrivals := 0x1, timeout := 5, waitTimer := some 0 }

/-- R59: gate number, members, BUSY with the lowest GATED lane, DONE. -/
theorem test_set_gate_table :
    [tells .setGate on 0x16 [], tells .setGate on 0x16 [(4, 5)], tells .setGate on 0x16 [(4, 4), (5, 16)],
      tells .setGate gatedLane 0x16 [(4, 1), (5, 2)], tells .setGate gatedLane 0x16 [(4, 2), (5, 15)]] =
    [some (.badArgument, none, 1), some (.badArgument, none, 1), some (.badArgument, none, 2), some (.busy, none, 0),
      some (.done, none, 0)] := by decide +kernel

/-- A CAPTURE_START of stream 1: mode, base, size, trigger with its lane, freeze condition with its lane. -/
def capture (mode base size trig tlane frz flane : Nat) : List (Nat × Nat) :=
  [(4, 1), (5, mode), (6, 9), (8, base % 256), (9, base / 256), (10, size % 256), (11, size / 256), (12, trig), (13, tlane),
    (14, frz), (15, flane)]

/-- Stream 1 in a state, with a ring of 256 bytes at 0x2000. -/
def stream1 (st : CaptureState) (mode : CaptureMode) : State :=
  on.updStream 1 fun c =>
    { c with
      state := st, mode := mode, base := 0x2000, size := 256, writePos := 0x20F0, readPos := 0x2000, interval := 10
      nextInstant := some 0, wrapCount := 300 }

/-- R146: the refusals in the order of the table, the last for an overlap with SQ0's ring, and DONE. -/
theorem test_capture_start_table :
    [tells .captureStart on 0x17 [(4, 2)], tells .captureStart (stream1 .overrun .stream) 0x17 (capture 0 0x2000 256 0 0 0 0),
      tells .captureStart on 0x17 (capture 2 0x2000 256 0 0 0 0), tells .captureStart on 0x17 (capture 1 0x2008 256 0 0 0 0),
      tells .captureStart on 0x17 (capture 1 0x2000 240 0 0 0 0), tells .captureStart on 0x17 (capture 1 0x3F10 256 0 0 0 0),
      tells .captureStart on 0x17 (capture 1 0x2000 256 1 4 0 0), tells .captureStart on 0x17 (capture 1 0x2000 256 1 3 1 4),
      tells .captureStart on 0x17 (capture 0 0x0400 256 1 3 3 4), tells .captureStart on 0x17 (capture 0 0x2000 256 1 3 3 4)] =
    [some (.badArgument, none, 1), some (.busy, none, 3), some (.badArgument, none, 2), some (.badArgument, none, 3),
      some (.badArgument, none, 4), some (.badArgument, none, 5), some (.badArgument, none, 6), some (.badArgument, none, 7),
      some (.badArgument, none, 8), some (.done, none, 0)] := by decide +kernel

/-- R156: stream number, and DONE with the state found. -/
theorem test_capture_stop_table :
    [tells .captureStop on 0x18 [(4, 2)], tells .captureStop (stream1 .running .history) 0x18 [(4, 1)],
      tells .captureStop (stream1 .overrun .stream) 0x18 [(4, 1)]] =
    [some (.badArgument, none, 1), some (.done, none, 2), some (.done, none, 3)] := by decide +kernel

/-- R137: alignment, range, overlap with the configuration block. -/
theorem test_snapshot_table :
    [tells .snapshot on 0x19 [(4, 8)], tells .snapshot on 0x19 [(4, 0x90), (5, 0x3F)], tells .snapshot on 0x19 [(4, 0xF0)]] =
    [some (.badArgument, none, 1), some (.badArgument, none, 2), some (.badArgument, none, 3)] := by decide +kernel

/-- R139: the picture is 128 bytes, and its byte 8 is the state of lane 0. -/
theorem test_snapshot_picture :
    ((after (exec .snapshot (given (bound on 0 1 .holding) (record 0x19 [(5, 0x20)])))).fetch =
      .snapshotting 0x2000 { origin0 0x19 with tag := 0 } (bound on 0 1 .holding).picture 0) ∧
    (bound on 0 1 .holding).picture.length = 128 ∧ byteAt (bound on 0 1 .holding).picture 8 = 2 := by decide +kernel

/-- A SEGMENT for lane 0: HIGH on channel 0 for 50 ticks, run once, HOLD, 50 us. -/
def segmentFields : List (Nat × Nat) :=
  [(6, 1), (7, 1), (8, 1), (9, 50), (12, 0xFF), (17, 0xFF), (20, 50), (22, 0x02)]

/-- R23 and R25: lane number, NOT_BOUND, BAD_SEGMENT with the number of the failing check. -/
theorem test_segment_refusals :
    [tells .segment on 0x02 [(4, 4)], tells .segment on 0x02 [(4, 3)], tells .segment (bound on 0 1 .idle) 0x02 [],
      tells .segment (bound on 0 2 .idle) 0x02 segmentFields, tells .segment (bound on 0 1 .idle) 0x02 ((9, 19) :: segmentFields)] =
    [some (.badArgument, none, 0), some (.notBound, some 3, 0), some (.badSegment, some 0, 1), some (.badSegment, some 0, 5),
      some (.badSegment, some 0, 6)] := by decide +kernel

/-- R13, R28: a valid segment of an IDLE lane starts at once, and its channel drives HIGH. -/
theorem test_segment_starts :
    let t := after (exec .segment (given (bound on 0 1 .idle) (record 0x02 segmentFields)))
    ((t.lane 0).isRunning, (t.channel 0).code, (t.channel 1).code, t.fetch) = (true, .high, .off, .idle) := by decide +kernel

/-- R41: a HALT of a RUNNING lane with one queued segment: ABORTED 1, ABORTED 0, DONE 2, and the channel OFF. -/
theorem test_halt_flushes :
    let s := (runningLane plainSegment).updLane 0 fun l => { l with queue := [plainSegment] }
    let t := after (exec .halt (given s (record 0x03 [])))
    ((t.lane 0).outbox.map fun c => (c.status, c.detail)) = [(.aborted, 1), (.aborted, 0), (.done, 2)] ∧
      (t.lane 0).state = .idle ∧ (t.channel 0).code = .off := by decide +kernel

/-! ### Time, trips and the permit -/

/-- Channel 0 drives HIGH in lane 0 with one count over its threshold of 2000 mA. -/
def nearTrip : State :=
  (runningLane plainSegment).updChannel 0 fun c => { c with code := .high, overCount := true }

/-- A tick with a current on channel 0. -/
def current0 (i : Int) : PinSample := { quiet with currents := #v[i, 0, 0, 0, 0, 0] }

/-- R72, R77, R78: 2001 mA counts and 2000 mA does not; the second count trips domain 0, and the lane is HELD. -/
theorem test_second_sample_trips :
    (let t := after (exec (.tick (current0 (-2001)) plainOrder) nearTrip)
     ((t.domain 0).state, (t.lane 0).state, (t.channel 0).code, (t.lane 0).outbox.map fun c => (c.status, c.detail, c.peak)) =
      (.tripped, .held, .off, [(.tripped, 0, 100)])) ∧
    (after (exec (.tick (current0 (-2000)) plainOrder) nearTrip)).domain 0 = nearTrip.domain 0 := by decide +kernel

/-- R42, R74: a HALT taken before the trip that the tick's second sample over the threshold brings: the segment is ABORTED, and the
report still trips domain 0 and leaves the lane HELD. -/
theorem test_halt_before_trip :
    let u := after (exec (.tick (current0 2001) { plainOrder with late := [.overcurrentTrip 0] }) nearTrip)
    let v := after (exec .halt (given u (record 0x03 [])))
    let t := after (exec (.tick quiet plainOrder) v)
    ((u.domain 0).state, (v.lane 0).state, (v.channel 0).code) = (.armed, .idle, .off) ∧
      ((t.domain 0).state, (t.domain 0).tripCount, (t.lane 0).state, (t.lane 0).outbox.map fun c => (c.status, c.detail)) =
        (.tripped, 1, .held, [(.aborted, 1), (.done, 1)]) := by decide +kernel

/-- A segment with a current stop on channel 0 above 1500 mA after 20 blanked samples. -/
def stopSegment : Segment :=
  { plainSegment with currentStop := some { channel := 0, direction := .riseAbove, threshold := 1500, blanking := 20 } }

/-- Lane 0 has run a stop segment for some samples. -/
def sampled (n : Nat) : State := bound on 0 1 (.running { running stopSegment with samples := n, elapsed := n })

/-- R31: sample 20 is blanked, and sample 21 of 1540 mA ends the segment STOPPED_CURRENT with peak 77. -/
theorem test_blanking :
    ((after (exec (.tick (current0 1540) plainOrder) (sampled 19))).lane 0).isRunning = true ∧
    (((after (exec (.tick (current0 1540) plainOrder) (sampled 20))).lane 0).outbox.map fun c =>
      (c.status, c.detail, c.elapsed, c.peak)) = [(.stoppedCurrent, 0, 21, 77)] := by decide +kernel

/-- A short on channel 0 while it drives HIGH locks domain 0 at its third trip of a limit of 3 (section 5.6, the example). -/
theorem test_short_locks :
    let s := domain0 (nearTrip.updChannel 0 fun c => { c with carrierStart := 0, overCount := false }) .armed 2 3
    let t := after (exec (.shortDetect 0 0) s)
    ((t.domain 0).state, (t.domain 0).tripCount, t.event 0) =
      (.locked, 3, some { count := 1, first := 0, detail := { first := 0, second := 2, third := 2 } }) := by decide +kernel

/-- Lane 0 has just started a segment that holds channel 0 HIGH, in the tick after a reset. -/
def justStarted : State := after (exec .segment (given (bound on 0 1 .idle) (record 0x02 segmentFields)))

/-- A HALT of lane 0 at a moment of that tick. -/
def justHalted (offset : Nat) : State := after (exec (.halt offset) (given justStarted (record 0x03 [])))

/-- R42, R74: a short at the moment of a HALT trips the domain though the HALT is taken first, and one a nanosecond later finds the
channel OFF. -/
theorem test_halt_before_short :
    (let t := after (exec (.shortDetect 0 9000) (justHalted 9000))
     (((justHalted 9000).lane 0).state, (t.domain 0).state, (t.lane 0).state) = (.idle, .tripped, .held)) ∧
    ((after (exec (.shortDetect 0 9001) (justHalted 9000))).domain 0).state = .armed := by decide +kernel

/-- R74, R79: two shorts at one moment on the channels of one lane, which lie in two domains, trip both; so do they at the tick at
which the drive begins. -/
theorem test_two_shorts_of_one_moment :
    let s := ((justStarted.updDomain 0 fun d => { d with members := 0x3D }).updDomain 1 fun d => { d with members := 2 }).mapChannels
      fun c ch => if c = 1 then { ch with owner := some 0 }.driveTo 0 .low 0 0 else ch
    let trips := fun (u : State) (o : Nat) =>
      let t := after (exec (.shortDetect 1 o) (after (exec (.shortDetect 0 o) u)))
      ((t.domain 0).state, (t.domain 1).state)
    let v := s.updLane 0 fun l => { l with owned := 3 }
    (trips v 0, trips v 9999) = ((.tripped, .tripped), .tripped, .tripped) := by decide +kernel

/-- R7: a HIGH that a short at 9 us of tick 0 ends; LOW at tick 1 waits 1 us more, until the 2 us have passed. -/
theorem test_short_begins_interval :
    let c := (((after (exec (.shortDetect 0 9000) justStarted)).channel 0).driveTo 1 .low 0 0)
    (c.lowOn 999, c.lowOn 1000) = (false, true) := by decide +kernel

/-- R7, R75: PWM_C begins after LOW, and SET_LIMITS comes in the same tick: the delay of the first high part, in progress or at its
very start, keeps the interval it began with; that of the low part takes the new one. -/
theorem test_limits_keep_delay_in_progress :
    let d := ({ Channel.afterReset with bbm := 1 }.driveTo 0 .low 0 0).driveTo 1 .pwmC 400 20
    let at_ := fun o => let c := d.takeLimits 1 2000 16 o; (c.highOn 499, c.highOn 500, c.lowOn 8500, c.lowOn 15999, c.lowOn 16000)
    (at_ 0, at_ 300) = ((false, true, false, false, true), false, true, false, false, true) := by decide +kernel

/-- R6, R7: PWM_C after OFF or HIGH conducts on the high side at once, after LOW when the 2 us have passed, and in its next period
2 us into the on-time. -/
theorem test_first_pwm_period :
    let first := fun (code : DriveCode) => let c := (Channel.afterReset.driveTo 0 code 0 0).driveTo 1 .pwmC 400 20
      [0, 1999, 2000, 21999, 22000].map c.highOn
    (first .off, first .high, first .low) =
      ([true, true, true, false, true], [true, true, true, false, true], [false, false, true, false, true]) := by decide +kernel

/-- R6, R7, R75: HIGH, then PWM_C with an on-time of 2 us, no longer than the interval: the high switch does not conduct, and the low
one turns on at the end of the on-time with the interval then in force: 2 us, a new 8 us, or a new 0.5 us that is over by then. -/
theorem test_limits_govern_first_turn_on :
    let d := (Channel.afterReset.driveTo 0 .high 0 0).driveTo 1 .pwmC 100 20
    let low := fun (c : Channel) => [1999, 2000, 7999, 8000].map c.lowOn
    ([0, 1000].map d.highOn, low d, low (d.takeLimits 1 2000 16 1000), low (d.takeLimits 1 2000 1 1000)) =
      ([false, false], [false, true, true, true], [false, false, false, true], [false, true, true, true]) := by decide +kernel

/-- The permit filter of ENABLE has reached its fifth differing sample. -/
def enableFalls (s : State) : State := { s with permit := { s.permit with enableDue := true } }

/-- The permit filter of VS has reached its fifth counting sample. -/
def supplyFalls (s : State) : State := { s with permit := { s.permit with supplyDue := true } }

/-- R89, R68: the loss of the permit ends a running segment DISABLED with detail 1 and the lane is IDLE; a gated one ends with detail
2, and the wait timer of its gate stops. -/
theorem test_permit_loss :
    let t := after (exec .enableFilterChange (enableFalls nearTrip))
    ((t.permitOn, t.permitCause, (t.lane 0).state, (t.lane 0).outbox.map fun c => (c.status, c.detail)) =
      (false, 1, .idle, [(.disabled, 1)])) ∧
    (let u := after (exec .supplyFilterChange (supplyFalls gatedLane))
     ((u.gate 0).arrivals, (u.gate 0).waitTimer, (u.lane 0).outbox.map fun c => (c.status, c.detail)) =
      (0, none, [(.disabled, 2)])) := by decide +kernel

/-- R86: the fifth sample, not the fourth, makes the change due. -/
theorem test_enable_fifth_sample :
    (PermitMonitor.afterReset.sample true 0).enableCount = 1 ∧
    ({ PermitMonitor.afterReset with enableCount := 3 }.sample true 0).enableDue = false ∧
    ({ PermitMonitor.afterReset with enableCount := 4 }.sample true 0).enableDue = true := by decide

/-- R65: the wait timer's expiry completes the head GATE_TIMEOUT with the gate number. -/
theorem test_gate_timeout :
    let t := after (exec (.gateTimeout 0) gatedLane)
    ((t.lane 0).state, (t.lane 0).outbox.map (fun c => (c.status, c.detail, c.lastPhase)), (t.gate 0).arrivals) =
      (.idle, [(.gateTimeout, 1, none)], 0) := by decide +kernel

/-- R61, R62: the second member's arrival fires the gate, and both lanes run. -/
theorem test_gate_fires :
    let s := (bound gatedLane 1 2 .idle).updLane 1 fun l => { l with queue := [gatedSegment] }
    let t := s.startTest 1
    ((t.lane 0).isRunning, (t.lane 1).isRunning, (t.gate 0).arrivals, (t.gate 0).waitTimer) = (true, true, 0, none) := by
  decide +kernel

/-- R38: the expiry of a hold turns the channels OFF and counts. -/
theorem test_hold_expiry :
    let s := ((bound on 0 1 .holding).updChannel 0 fun c => { c with code := .low }).updLane 0 fun l => { l with holdTimer := some 0 }
    let t := after (exec (.holdExpiry 0) s)
    ((t.lane 0).state, (t.lane 0).expiryCount, (t.channel 0).code) = (.idle, 1, .off) := by decide +kernel

/-- R29: at its phase end the last pass of a segment ends it DONE with one repeat done. -/
theorem test_phase_end_done :
    let t := after (exec (.phaseEnd 0) { runningLane plainSegment with tick := 50 })
    ((t.lane 0).state, (t.lane 0).outbox.map fun c => (c.status, c.repeats, c.lastPhase)) = (.holding, [(.done, 1, some 0)]) := by
  decide +kernel

/-- R7: after 1 tick of HIGH, LOW waits the BBM interval of 2.0 us. -/
theorem test_break_before_make :
    let c := (Channel.afterReset.driveTo 0 .high 0 0).driveTo 1 .low 0 0
    (c.highOn 0, c.lowOn 1999, c.lowOn 2000) = (false, false, true) := by decide +kernel

/-- R7, R75: PWM_C, 20 us, duty 700. At 20 us the interval goes from 0.5 to 8 us: the low switch, on since 14.5 us, stays on up to
then, and a HIGH applied at that moment waits the whole 8 us. -/
theorem test_limits_keep_earlier_edges :
    let c := ({ Channel.afterReset with bbm := 1 }.driveTo 0 .pwmC 700 20).takeLimits 2 2000 16
    (c.lowOn 14499, c.lowOn 14500, c.lowOn 19999, (c.driveTo 2 .high 0 0).highWait) = (false, true, true, 8000) := by decide +kernel

/-! ### Link, registers, engine and posting -/

/-- Section 9.3's example: a write of 70 bytes at 0x0478 makes chunks of 8, 16, 16, 16 and 14 bytes. -/
theorem test_chunks :
    (chunksOf maxChunks 0x478 (List.replicate 70 1)).map (fun e => match e with
      | .chunk a d => (a, d.length)
      | _ => (0, 0)) = [(0x478, 8), (0x480, 16), (0x490, 16), (0x4A0, 16), (0x4B0, 14)] := by decide +kernel

/-- A write frame with a correct trailer. -/
def writeBody (a : Nat) (data : List Byte) : List Byte :=
  let body := [BitVec.ofNat 8 a, BitVec.ofNat 8 (a / 256)] ++ data
  body ++ [crc8 (0xC3 :: body)]

/-- R160, R163: a wrong trailer is counted; a four-byte write of RUN 1 starts the engine once it is taken. -/
theorem test_write_frames :
    (after (exec (.writeFrame [0, 0, 0, 1] 0) State.reset)).linkErrors = 1 ∧
    (after (exec .runStart (after (exec (.writeFrame (writeBody 0x4004 [1, 0, 0, 0]) 0) State.reset)))).engine = .starting ∧
    (after (exec (.writeChunk alone) (after (exec (.writeFrame (writeBody 0x3FFF [9]) 0) State.reset)))).xm = [(0x3FFF, 9)] := by
  decide +kernel

/-- R161: a read that begins at the last byte of exchange memory goes on at IDENT; three bits of a byte of IDENT follow (0x5A begins
010); and a read in two parts has one picture of its span. -/
theorem test_read_frame :
    let s := { State.reset with xm := [(0x3FFF, 9)] }
    (after (exec (.readFrame [0xFF, 0x3F, 0, 0, 0, 0, 0] 3 alone true) s)).miso = [0, 0, 0, 9, 0x5A, 0x36, 0x01, 0x10] ∧
    (after (exec (.readFrame [0xFF, 0x3F, 0] 3 alone true) s)).misoBits = [false, true, false] ∧
    (let u := after (exec (.readFrame [0xFE, 0x3F, 0] 0 alone false) s)
     (after (exec (.readFrame [0] 0 alone true) { u with xm := [] })).miso) = [0, 0, 0, 0, 9] := by
  decide +kernel

/-- R164: a read that has ended waits behind a chunk; a register write and another read come meanwhile, and each takes its turn. -/
theorem test_frames_behind_ended_read :
    let wait := after (exec (.readFrame [0xFF, 0x3F, 0] 0 contended true) { on with linkQueue := [.chunk 0x3FFF [9]] })
    let next := after (exec (.readFrame [4, 0x40, 0] 0 alone true) (after (exec (.writeFrame (writeBody 0x4014 [7, 0, 0, 0]) 0) wait)))
    let chunk := after (exec (.writeChunk alone) next)
    let read := after (exec (.readFrame [] 0 alone false) chunk)
    (wait.miso, next.linkQueue.length, chunk.linkQueue.length, read.miso, read.linkQueue.length,
      (after (exec .causeClear read)).linkQueue) = ([0, 0, 0], 4, 3, [0, 0, 0, 9], 2, []) := by decide +kernel

/-- R166: a read over the end of a span takes one access, and the posting engine's comes before its second. -/
theorem test_read_shares_rotation :
    let s := { on with pendingList := [anyCompletion 1], xm := [(0x2F, 8), (0x30, 9)] }
    let t := after (exec (.readFrame [0x2F, 0, 0, 0] 0 contended true) s)
    let u := after (exec (.completionWrite contended) t)
    (t.linkQueue.length, (after (exec (.readFrame [] 0 contended false) t)).linkQueue.length, u.pendingList,
      (after (exec (.readFrame [] 0 contended false) u)).miso) = (1, 1, [], [0, 0, 0, 8, 9]) := by decide +kernel

/-- R166: the read of a record stops after the access before which the link's chunk waits. -/
theorem test_record_read_shares_rotation :
    let s := { on with fetch := .reading 0 [] false, rotation := .link, linkQueue := [.chunk 0 [1]] }
    let t := after (exec (.recordRead [.link]) s)
    (t.fetch, (after (exec (.recordRead [.link]) t)).fetch) =
      (.reading 0 (List.replicate 16 0) false, .reading 0 (List.replicate 16 0) false) := by decide +kernel

/-- R164, R169: the frame discarded before a CLEAR_ERRORS is cleared with it, the one behind it is counted after it. -/
theorem test_discard_order :
    let a := after (exec (.unknownCodeFrame 0 [] 0) State.reset)
    let b := after (exec (.writeFrame (writeBody 0x4004 [4, 0, 0, 0]) 0) a)
    let c := after (exec (.unknownCodeFrame 0 [] 0) b)
    (a.linkErrors, c.linkErrors, (after (exec .clearErrors c)).linkErrors) = (1, 1, 1) ∧
    (after (exec .clearErrors b)).linkErrors = 0 := by decide +kernel

/-- R132, R133: the third record of a CQ with count 3 sets its CAUSE bit; one record alone waits for the delay of 50 ticks. -/
theorem test_coalescing :
    let s := { on with pendingList := [anyCompletion 0x01] }
    let t := after (exec (.completionWrite alone) s)
    ((t.cq 0).unsignalled, (t.cq 0).delayTimer, t.cause) = (1, some 50, 0) ∧
    (let u := after (exec (.completionWrite alone) (s.updCq 0 fun q => { q with unsignalled := 2, delayTimer := some 20 }))
     ((u.cq 0).unsignalled, (u.cq 0).delayTimer, u.cause) = (0, none, 1)) := by decide +kernel

/-- Section 6.5's example, turns 3 and 5: SQ0's burst is over and SQ2 begins one of 3; it goes on with its credit. -/
theorem test_arbiter_bursts :
    let q := fun w => { readyQueue with weight := w }
    let s := { on with sqs := #v[q 2, Sq.afterReset, q 3, q 1], normalPointer := 0, burstCredit := 0 }
    let t := after (exec .sqArbitration s)
    (t.normalPointer, t.burstCredit, t.fetch) = (2, 2, .reading 2 [] false) ∧
    (after (exec .sqArbitration { t with fetch := .idle })).burstCredit = 1 := by decide +kernel

/-- R100, R103: memory of zeros holds a record with a correct CRC and sequence 0, whose kind 0 is BAD_KIND; with sequence 1
expected the SQ faults. -/
theorem test_record_read :
    told .recordRead { on with fetch := .reading 0 [] false } = some (.badKind, none, 0) ∧
    (let t := after (exec .recordRead ({ on with fetch := .reading 0 [] false }.updSq 0 fun q => { q with expected := 1 }))
     ((t.sq 0).state, (t.sq 0).head, t.event 8)) =
      (.faulted, 0, some { count := 1, first := 0, detail := { first := 2, second := 1, third := 0 } }) := by decide +kernel

/-- R153: a STREAM ring without room drops the sample, enters OVERRUN and takes its next instant. -/
theorem test_capture_overrun :
    let t := after (exec (.captureSampleInstant 1 alone) (stream1 .running .stream))
    ((t.stream 1).state, (t.stream 1).dropCount, (t.stream 1).nextInstant, t.xm) = (.overrun, 1, some 10, []) := by decide +kernel

/-! ### Witnesses: for every statement with hypotheses, states that meet them, clause by clause -/

/-- The part while a power-on reset lasts. -/
def heldPor : State := after (exec .powerOnResetBegin State.reset)

/-- The part while a pin reset lasts. -/
def heldPin : State := after (exec (.pinResetBegin 0) State.reset)

/-- A write of a register waits, with a chunk behind it. -/
def handed (s : State) (r : WritableRegister) (v : BitVec 32) : State := { s with linkQueue := [.reg r v, .chunk 0x300 [1]] }

theorem handed_ok (s : State) (h : s.inReset = false) (r : WritableRegister) (v : BitVec 32) : (handed s r v).Handed r v :=
  ⟨h, rfl, ⟨nofun, nofun⟩, nofun⟩

/-- A read frame asked for some bytes from an address on. -/
def readAt (a n : Nat) : OpenRead :=
  { addr := BitVec.ofNat 16 a, held := [], want := n, bits := 0, sent := [0, 0, 0], sentBits := [] }

/-- A write of a register may wait alone, or before a read of exchange memory that has ended. -/
theorem test_witness_Handed :
    ({ on with linkQueue := [.reg .post 0] } : State).Handed .post 0 ∧
    ({ on with linkQueue := [.reg .post 0, .read (readAt 0x3FFF 1)] } : State).Handed .post 0 :=
  ⟨⟨rfl, rfl, ⟨nofun, nofun⟩, fun _ => rfl⟩, rfl, rfl, ⟨nofun, fun _ h => by cases h; rfl⟩, nofun⟩

theorem test_witness_StepTakesFrontCommand : State.reset.pending = [] := rfl

theorem test_witness_HeldPartIgnoresCommands : heldPor.inReset = true ∧ isResetRow .nop = false := by decide +kernel

theorem test_witness_EveryResetReturnsBlocks :
    (heldPor.hold.vddLow = true ∧ heldPor.hold.resetnLow = false) ∧ (heldPin.hold.resetnLow = true ∧ heldPin.hold.vddLow = false) ∧
    (handed on .control 2).Handed .control 2 ∧ (2 : BitVec 32).getLsbD 1 = true :=
  ⟨by decide +kernel, by decide +kernel, handed_ok on rfl _ _, by decide⟩

theorem test_witness_ResetBeginsWithDriveOff : State.reset.Awake ∧ heldPor.inReset = true := ⟨rfl, by decide +kernel⟩

theorem test_witness_ResetsKeepWhatTheyKeep :
    (heldPor.hold.vddLow = true ∧ heldPor.hold.resetnLow = false ∧ heldPor.hold.por = true) ∧
    (after (exec .powerOnResetBegin heldPin)).hold = { vddLow := true, resetnLow := true, por := true } ∧
    (heldPin.hold.resetnLow = true ∧ heldPin.hold.vddLow = false) ∧
    (handed on .control 2).Handed .control 2 ∧ (handed on .control 2).permit.enableDue = false ∧
    (handed on .control 2).permit.supplyDue = false ∧ ∀ i : Fin 4, ((handed on .control 2).senseInput i).due = false :=
  ⟨by decide +kernel, by decide +kernel, by decide +kernel, handed_ok on rfl _ _, rfl, rfl, by decide +kernel⟩

/-- In a state whose lane 0 runs with its phase end ahead, and nothing else, nothing is due. -/
theorem nothing_due (s : State) (r : Running) (h0 : (s.lane 0).state = .running r) (hr : r.phaseEnd ≠ s.tick ∧ r.timeoutTick = none ∧
    r.stopMet = false) (hl : ∀ l : Fin 4, l ≠ 0 → (s.lane l).state = .unbound)
    (hp : s.permit.enableDue = false ∧ s.permit.supplyDue = false) (hs : ∀ i : Fin 4, (s.senseInput i).due = false)
    (hh : ∀ l : Fin 4, (s.lane l).holdTimer ≠ some 0) (hg : ∀ g : Fin 4, (s.gate g).waitTimer ≠ some 0)
    (hn : ∀ n : Fin 2, s.instantDue n = false) (ht : s.tripsDue = []) (hq : ∀ q : Fin 2, (s.cq q).delayTimer ≠ some 0) :
    s.NothingDue := by
  refine ⟨hp.1, hp.2, hs, fun l x hx => ?_, hh, hg, hn, ht, hq⟩
  by_cases h : l = 0
  · subst h
    rw [h0] at hx
    cases hx
    exact ⟨hr.1, by rw [hr.2.1]; nofun, hr.2.2⟩
  · rw [hl l h] at hx
    cases hx

theorem nearTrip_due : nearTrip.NothingDue :=
  nothing_due _ (running plainSegment) rfl ⟨by decide, rfl, rfl⟩ (by decide +kernel) ⟨rfl, rfl⟩ (by decide +kernel)
    (by decide +kernel) (by decide +kernel) (by decide +kernel) rfl (by decide +kernel)

theorem nearTrip_domains : nearTrip.DomainsOk := by unfold State.DomainsOk; decide +kernel

theorem test_witness_SecondSampleOverTripsDomain :
    nearTrip.Awake ∧ nearTrip.NothingDue ∧ nearTrip.DomainsOk ∧ (nearTrip.domain 0).state = .armed ∧
    (∀ c : Fin 6, .overcurrentTrip c ∉ plainOrder.late) ∧
    countsAgainst nearTrip (current0 2001) 0 = true ∧ countsAgainst nearTrip (current0 2000) 0 = false ∧
    (let s := { nearTrip with tripsDue := [0] }
     s.Awake ∧ s.OnlyTripsDue ∧ s.DomainsOk ∧ s.tripsDue = [0] ∧ (s.domain 0).members.getLsbD 0 = true ∧
      (s.domain 0).state = .armed ∧ ∀ k : Fin 6, countsAgainst s quiet k = true → (s.channel k).overCount = false) :=
  ⟨rfl, nearTrip_due, nearTrip_domains, by decide +kernel, fun _ => nofun, by decide +kernel, by decide +kernel,
    rfl, nearTrip_due, nearTrip_domains, rfl, by decide +kernel⟩

theorem sampled_due (n : Nat) : (sampled n).NothingDue :=
  nothing_due _ { running stopSegment with samples := n, elapsed := n } rfl ⟨show (50 : Tick) ≠ 0 by decide, rfl, rfl⟩
    (fun l h => by fin_cases l <;> first | exact absurd rfl h | rfl) ⟨rfl, rfl⟩ (fun i => by fin_cases i <;> rfl)
    (fun l => by fin_cases l <;> nofun) (fun g => by fin_cases g <;> nofun) (fun n => by fin_cases n <;> rfl) rfl
    (fun q => by fin_cases q <;> nofun)

theorem test_witness_TickAdvancesAndSamples :
    on.Awake ∧ plainOrder.first = [] ∧ (sampled 20).NothingDue ∧
    (∀ c : Fin 6, countsAgainst (sampled 20) (current0 1540) c = true → ((sampled 20).channel c).overCount = false) ∧
    ((sampled 20).lane 1).isRunning = false ∧ (filterCount 5 true 3, filterCount 5 true 4) = ((4, false), (4, true)) ∧
    (((sampled 20).lane 0).state = .running { running stopSegment with samples := 20, elapsed := 20 } ∧
      stopSegment.currentStop ≠ none ∧ ((sampled 20).channel 0).owner = some 0 ∧ ((sampled 20).channel 1).owner = none ∧
      stopSegment.uses 0 = false) :=
  ⟨rfl, rfl, sampled_due 20, by decide +kernel, rfl, rfl, rfl, nofun, by decide +kernel⟩

theorem test_witness_RunningSegmentTakesSample :
    (sampled 20).Awake ∧ (sampled 20).NothingDue ∧ plainOrder.first = [] ∧
    .currentStop 0 ∉ plainOrder.late ∧
    (∀ c : Fin 6, countsAgainst (sampled 20) (current0 1540) c = true → ((sampled 20).channel c).overCount = false) ∧
    ((sampled 20).lane 0).state = .running { running stopSegment with samples := 20, elapsed := 20 } ∧
    (20 < 20 + 1 ∧ 1500 < (max (-4000) (min 4000 (current0 1540).currents[0])).natAbs) ∧
    ¬1500 < (max (-4000) (min 4000 (current0 1500).currents[0])).natAbs :=
  ⟨rfl, sampled_due 20, rfl, nofun, by decide +kernel, rfl, by decide +kernel⟩

/-- A HISTORY stream that freezes on a trip. -/
def freezing : State := nearTrip.updStream 0 fun c => { c with mode := .history, state := .running, freeze := .onTrip }

theorem test_witness_ShortTripsArmedDomain :
    (nearTrip.Awake ∧ nearTrip.conducting 0 0 = true ∧ nearTrip.DomainsOk ∧ (nearTrip.domain 0).members.getLsbD 0 = true ∧
      (nearTrip.domain 0).state = .armed ∧ nearTrip.meetsDomain 0 0 = true ∧ nearTrip.meetsDomain 1 0 = false) ∧
    (freezing.conducting 0 0 = true ∧ (freezing.stream 0).mode = .history ∧ (freezing.stream 0).state = .running ∧
      (freezing.stream 0).freeze = .onTrip) ∧
    ((domain0 nearTrip .locked 3 3).DomainsOk ∧ ((domain0 nearTrip .locked 3 3).domain 0).members.getLsbD 0 = true ∧
      ((domain0 nearTrip .locked 3 3).domain 0).state ≠ .armed ∧ (domain0 nearTrip .locked 3 3).conducting 0 0 = true) ∧
    nearTrip.conducting 1 0 = false ∧
    ((justHalted 9000).channel 0).code = .off ∧
    (((justHalted 9000).channel 0).elapsedNs (justHalted 9000).tick + 8999 ≠ ((justHalted 9000).channel 0).applied ∧
      ((justHalted 9000).channel 1).conductedThen = false) ∧
    (endsDriveAt (.halt 9000) 9000 ∧ endsDriveAt (.shortDetect 1 9000) 9000 ∧ endsDriveAt (.phaseEnd 0) 0 ∧
      justStarted.Awake ∧ (justStarted.channel 0).applied ≤ (justStarted.channel 0).elapsedNs justStarted.tick + 9000 ∧
      justStarted.conducting 0 9000 = true) :=
  ⟨⟨rfl, by decide +kernel, nearTrip_domains, by decide +kernel⟩, by decide +kernel,
    ⟨by unfold State.DomainsOk; decide +kernel, by decide +kernel⟩, by decide +kernel, by decide +kernel, by decide +kernel,
    .inl rfl, .inr (.inl ⟨1, rfl⟩), .inr (.inr ⟨rfl, .inr (.inr ⟨0, .inl rfl⟩)⟩), rfl, by decide +kernel⟩

theorem nearTrip_lanes : nearTrip.LanesOk := by unfold State.LanesOk; decide +kernel

theorem test_witness_PermitLossDisablesLanes :
    ((enableFalls nearTrip).Awake ∧ (enableFalls nearTrip).permitOn = true ∧ (enableFalls nearTrip).LanesOk ∧
      lossRow (enableFalls nearTrip) .enableFilterChange) ∧
    ((supplyFalls gatedLane).Awake ∧ (supplyFalls gatedLane).permitOn = true ∧ (supplyFalls gatedLane).LanesOk ∧
      lossRow (supplyFalls gatedLane) .supplyFilterChange) ∧
    ∀ l : Fin 4, (laneBit 0).getLsbD l.val = true ↔ ((supplyFalls gatedLane).lane l).state ≠ .unbound :=
  ⟨⟨rfl, rfl, nearTrip_lanes, .inl ⟨rfl, rfl⟩⟩, ⟨rfl, rfl, by unfold State.LanesOk; decide +kernel, .inr ⟨rfl, rfl⟩⟩,
    by decide +kernel⟩

theorem test_witness_PermitReturnStartsNothing :
    ((enableFalls idle).Awake ∧ (enableFalls idle).permit.enableDue = true ∧ (enableFalls idle).permit.enableHigh = false ∧
      ∀ l : Fin 4, ((enableFalls idle).lane l).queue = []) ∧
    ((supplyFalls idle).Awake ∧ (supplyFalls idle).permit.supplyDue = true ∧ (supplyFalls idle).permit.supplyGood = false ∧
      ∀ l : Fin 4, ((supplyFalls idle).lane l).queue = []) ∧
    (let s := enableFalls { idle with permit := { PermitMonitor.afterReset with enableHigh := true } }
     s.Awake ∧ s.permit.enableDue = true ∧ s.permit.supplyGood = false ∧ s.permit.enableHigh = true) ∧
    (let s := supplyFalls { idle with permit := { PermitMonitor.afterReset with supplyGood := true } }
     s.Awake ∧ s.permit.supplyDue = true ∧ s.permit.enableHigh = false ∧ s.permit.supplyGood = true) :=
  ⟨⟨rfl, rfl, rfl, by decide +kernel⟩, ⟨rfl, rfl, rfl, by decide +kernel⟩, ⟨rfl, rfl, rfl, rfl⟩, rfl, rfl, rfl, rfl⟩

/-- Sense input 3 changes from LOW to HIGH at this tick. -/
def rises (s : State) : State := s.updSenseInput 3 fun x => { x with due := true }

/-- A segment with a RISE stop on input 3. -/
def riseSegment : Segment := { plainSegment with inputStop := some { input := 3, edge := .rise } }

/-- Lane 0 has run a RISE segment for one tick. -/
def riseLane : State := rises (bound on 0 1 (.running { running riseSegment with elapsed := 1 }))

theorem test_witness_SenseChangeIsReported :
    ((rises on).Awake ∧ ((rises on).senseInput 3).due = true ∧
      ∀ (l : Fin 4) (r : Running), ((rises on).lane l).state = .running r → r.seg.inputStop.map (·.input) ≠ some 3) ∧
    ((riseLane.senseInput 3).due = true ∧ (riseLane.lane 0).state = .running { running riseSegment with elapsed := 1 } ∧
      riseSegment.inputStop = some { input := 3, edge := .rise } ∧ (riseLane.senseInput 3).high = false) :=
  ⟨⟨rfl, rfl, fun l r h => by fin_cases l <;> cases h⟩, rfl, rfl, rfl, rfl⟩

/-- A segment of two passes. -/
def twice : Segment := { plainSegment with repeatCount := 2 }

/-- Lane 0 at the phase end tick of a segment. -/
def atPhaseEnd (g : Segment) : State := { runningLane g with tick := 50 }

theorem test_witness_PhaseEndAppliesNextPhase :
    (atPhaseEnd twice).Awake ∧ ((atPhaseEnd twice).lane 0).state = .running (running twice) ∧
    (running twice).phaseEnd = (atPhaseEnd twice).tick ∧ ∀ st, ¬CauseArises (atPhaseEnd twice) (running twice) st :=
  ⟨rfl, rfl, rfl, State.endCause_none_iff.mp (by decide +kernel)⟩

/-- The context of a segment that times out at tick 50. -/
def timingOut : Running := { running plainSegment with phaseEnd := 60, timeoutTick := some 50 }

/-- Lane 0 runs a segment with some progress at tick 50, its phase end tick, while sense input 3 rises. -/
def ending (r : Running) : State := rises { bound on 0 1 (.running r) with tick := 50 }

theorem test_witness_SegmentEndsByItsCause :
    (∀ r, (ending r).Awake ∧ ((ending r).lane 0).state = .running r) ∧
    ((running plainSegment).phaseEnd = (ending (running plainSegment)).tick ∧
      EndsNow (ending (running plainSegment)) (running plainSegment) .done) ∧
    (timingOut.timeoutTick = some (ending timingOut).tick ∧ EndsNow (ending timingOut) timingOut .timedOut) ∧
    (let both := { running plainSegment with timeoutTick := some 50 }
     EndsNow (ending both) both .timedOut) ∧
    (let r := { running riseSegment with elapsed := 1, timeoutTick := some 50 }
     EndsNow (ending r) r .stoppedInput) ∧
    (let r := { running riseSegment with elapsed := 1, timeoutTick := some 50, stopMet := true }
     EndsNow (ending r) r .stoppedCurrent) ∧
    (timingOut.phaseEnd ≠ (ending timingOut).tick ∧ (running plainSegment).timeoutTick ≠ some (ending (running plainSegment)).tick) :=
  ⟨fun _ => ⟨rfl, rfl⟩, ⟨rfl, State.endCause_iff.mp (by decide +kernel)⟩, ⟨rfl, State.endCause_iff.mp (by decide +kernel)⟩,
    State.endCause_iff.mp (by decide +kernel), State.endCause_iff.mp (by decide +kernel), State.endCause_iff.mp (by decide +kernel),
    by decide +kernel⟩

/-- A lane whose hold expires at this tick. -/
def holdEnds (st : LaneState) : State := (bound on 0 1 st).updLane 0 fun l => { l with holdTimer := some 0 }

/-- The same lane with a queued segment, and with some entries in its outbox. -/
def holdQueue (outbox : List Completion) : State :=
  (holdEnds .holding).updLane 0 fun l => { l with queue := [plainSegment], outbox := outbox }

/-- R38, R13: a hold that expires before a queued segment starts it, unless completions wait in the outbox. -/
theorem test_hold_expiry_takes_head :
    let t := fun o => after (exec (.holdExpiry 0) (holdQueue o))
    (((t []).lane 0).isRunning, ((t []).channel 0).code, ((t [anyCompletion 2]).lane 0).state,
      ((t [anyCompletion 2]).lane 0).queue.length) = (true, .high, .idle, 1) := by decide +kernel

theorem test_witness_HoldExpiryTurnsChannelsOff :
    ((holdEnds .holding).Awake ∧ ((holdEnds .holding).lane 0).holdTimer = some 0 ∧ ((holdEnds .holding).lane 0).state = .holding ∧
      ((holdEnds .holding).lane 0).queue = []) ∧
    (((holdEnds .gated).lane 0).holdTimer = some 0 ∧ ((holdEnds .gated).lane 0).state = .gated) ∧
    (let v := fun o => (holdQueue o).updLane 0 fun l => { l with state := .idle, holdTimer := none }
     ((holdQueue []).lane 0).queue = plainSegment :: [] ∧ (holdQueue []).LanesOk ∧ (v []).mayStart 0 = true ∧
      (v [anyCompletion 2]).mayStart 0 = false) :=
  ⟨⟨rfl, rfl, rfl, rfl⟩, ⟨rfl, rfl⟩, rfl, by unfold State.LanesOk; decide +kernel, by decide +kernel, by decide +kernel⟩

theorem test_witness_GateTimeoutReturnsLanes :
    gatedLane.Awake ∧ (gatedLane.gate 0).waitTimer = some 0 ∧ gatedLane.LanesOk ∧ (gatedLane.gate 0).arrivals.getLsbD 0 = true ∧
    (gatedLane.gate 0).arrivals.getLsbD 1 = false :=
  ⟨rfl, rfl, by unfold State.LanesOk; decide +kernel, by decide +kernel⟩

theorem test_witness_DelayExpirySetsCause :
    let s := on.updCq 0 fun q => { q with unsignalled := 1, delayTimer := some 0 }
    s.Awake ∧ (s.cq 0).delayTimer = some 0 ∧ 0 < (s.cq 0).unsignalled := ⟨rfl, rfl, by decide⟩

/-- The fetch engine reads SQ0's head record. -/
def reading (s : State) : State := { s with fetch := .reading 0 [] false }

/-- Stream 1 with its read position two records on, so that it has room. -/
def roomy (st : CaptureState) : State := (stream1 st .stream).updStream 1 fun c => { c with readPos := 0x2010 }

theorem test_witness_SampleInstantWritesOrDrops :
    ((roomy .running).Awake ∧ (roomy .running).MemoryOk ∧ (roomy .running).instantDue 1 = true ∧
      ((roomy .running).stream 1).writePos + 16 ≤ Config.xmSize ∧ (0x2000 : Nat) ≠ ((roomy .running).stream 1).readPos) ∧
    ((roomy .overrun).instantDue 1 = true ∧ ((roomy .overrun).stream 1).state = .overrun) ∧
    ((stream1 .running .history).instantDue 1 = true ∧ ((stream1 .running .history).stream 1).mode = .history) ∧
    ((stream1 .running .stream).instantDue 1 = true ∧ (0x2000 : Nat) = ((stream1 .running .stream).stream 1).readPos ∧
      0x20F0 + 16 = 0x2000 + ((stream1 .running .stream).stream 1).size) ∧
    ((roomy .running).stream 1).writePos + 16 = ((roomy .running).stream 1).base + ((roomy .running).stream 1).size ∧
    ((roomy .running).fetchTurns alone.turns).serves .capture alone.waiting = true ∧
    ({ reading (roomy .running) with rotation := .link }.fetchTurns contended.turns).serves .capture contended.waiting = false :=
  ⟨⟨rfl, rfl, by decide +kernel⟩, by decide +kernel⟩

/-- The link comes last in rotation, and the fetch engine waits. -/
def linkLast (s : State) : State := { reading s with rotation := .link }

/-- No other agent waits; or the fetch engine waits, after the link or before it. -/
theorem link_served (s : State) (h : s = on ∨ s = reading on ∨ s = linkLast on) :
    (s = on → s.Alone .link contended.waiting ∧ s.serves .link contended.waiting = true) ∧
    (s = reading on → ¬s.Alone .link contended.waiting ∧ s.serves .link contended.waiting = true) ∧
    (s = linkLast on → s.serves .link contended.waiting = false) := by
  unfold State.Alone
  refine ⟨?_, ?_, ?_⟩ <;> rintro rfl <;> decide +kernel

theorem test_witness_ReadGoesOn :
    ({ on with linkQueue := [.chunk 0 [1]] }.linkQueue = .chunk 0 [1] :: [] ∧ LinkEntry.chunk 0 [1] ≠ .discard ∧
      ∀ r, LinkEntry.chunk 0 [1] ≠ .read r) ∧
    ({ linkLast on with linkQueue := [.read (readAt 0x3FFF 1)] }.linkQueue = .read (readAt 0x3FFF 1) :: [] ∧
      (readAt 0x3FFF 1).needsAccess = true ∧
      { linkLast on with linkQueue := [.read (readAt 0x3FFF 1)] }.serves .link contended.waiting = false) ∧
    (on.linkQueue = [] ∧ (on.fetchTurns 0).Alone .link contended.waiting) ∧
    ((readAt 0x4000 1).NeedsNone ∧ (readAt 0x3FFF 0).NeedsNone ∧
      ({ readAt 0x3FFF 1 with held := [7] } : OpenRead).NeedsNone) ∧
    ((readAt 0x3FF0 16).NeedsOne ∧ ((reading on).fetchTurns 0).serves .link contended.waiting = true) ∧
    ((linkLast on).linkQueue = [] ∧ (readAt 0x3FFF 1).needsAccess = true ∧
      ((linkLast on).fetchTurns 0).serves .link contended.waiting = false) ∧
    ((readAt 0x3FEF 2).NeedsMore ∧ ¬((reading on).fetchTurns 0).Alone .link contended.waiting) := by
  refine ⟨⟨rfl, nofun, nofun⟩, ⟨rfl, by decide +kernel⟩, ⟨rfl, ?_⟩, ⟨fun i _ h => ?_, fun i _ h => ?_, fun i hi h => ?_⟩,
    ⟨⟨rfl, by decide⟩, ((link_served _ (.inr (.inl rfl))).2.1 rfl).2⟩, ⟨rfl, by decide +kernel⟩, ⟨rfl, by decide⟩, ?_⟩
  · exact ((link_served _ (.inl rfl)).1 rfl).1
  · have hi : i = 0 := Nat.lt_one_iff.mp h
    subst hi
    decide
  · exact absurd h (Nat.not_lt_zero i)
  · exact absurd (Nat.lt_of_le_of_lt hi h) (Nat.lt_irrefl 1)
  · exact ((link_served _ (.inr (.inl rfl))).2.1 rfl).1

theorem test_witness_ReadFrameShiftsOutBytes :
    (on.Awake ∧ on.awaitCsnRise = false ∧ on.openRead = none) ∧
    (let s := { on with openRead := some { readAt 0x3FFF 0 with held := [7] } }
     s.Awake ∧ s.awaitCsnRise = false ∧ s.openRead = some { readAt 0x3FFF 0 with held := [7] }) ∧
    (let s := fun (u : State) (o : OpenRead) => { u with linkQueue := [.read o] }
     (s on (readAt 0x3FF0 16)).linkQueue = [.read (readAt 0x3FF0 16)] ∧ (readAt 0x3FF0 16).needsAccess = true ∧
      ((s (linkLast on) (readAt 0x3FF0 16)).fetchTurns 0).serves .link contended.waiting = false ∧
      ((s on (readAt 0x3FF0 16)).fetchTurns 0).Alone .link alone.waiting ∧
      ((s (reading on) (readAt 0x3FF0 16)).fetchTurns 0).serves .link contended.waiting = true ∧
      (readAt 0x3FF0 16).NeedsOne ∧ (readAt 0x3FEF 2).needsAccess = true ∧ (readAt 0x3FEF 2).NeedsMore ∧
      ¬((s (reading on) (readAt 0x3FEF 2)).fetchTurns 0).Alone .link contended.waiting) ∧
    ((([0] : List Byte).length < 2 ∧ ([0] : List Byte) ≠ []) ∧
      ∀ o rest, on.linkQueue = .read o :: rest → o.needsAccess = false) ∧
    { on with awaitCsnRise := true }.awaitCsnRise = true := by
  refine ⟨⟨rfl, rfl, rfl⟩, ⟨rfl, rfl, rfl⟩, ⟨rfl, by decide, by decide +kernel, nofun, by decide +kernel, ⟨rfl, by decide⟩,
    by decide, ⟨rfl, by decide⟩, ?_⟩, ⟨by decide, nofun⟩, rfl⟩
  unfold State.Alone
  decide +kernel

theorem test_witness_DiscardedFramesOnlyCount :
    (on.Awake ∧ on.awaitCsnRise = false ∧ on.openRead = none ∧ LinkWaits on.linkQueue) ∧
    (LinkWaits [.chunk 0 [1]] ∧ LinkWaits [.read (readAt 0x3FFF 1)]) ∧
    ([0] : List Byte).length < 2 ∧ ((0x3D : Byte) ≠ 0x3C ∧ (0x3D : Byte) ≠ 0xC3) ∧
    ([0, 0, 0] : List Byte).length < 4 ∧ 259 < (List.replicate 260 (0 : Byte)).length ∧
    crc8 (0xC3 :: ([0, 0, 0, 1] : List Byte).dropLast) ≠ 1 ∧
    { on with linkQueue := [.reg .control 4, .discard] }.linkQueue = .reg .control 4 :: List.replicate 1 .discard ∧
    ((4 : BitVec 32).getLsbD 2 = true ∧ (4 : BitVec 32).getLsbD 1 = false) ∧ (2 : BitVec 32).getLsbD 1 = true :=
  ⟨⟨rfl, rfl, rfl, nofun, nofun⟩, ⟨⟨nofun, nofun⟩, nofun, fun _ h => by cases h; rfl⟩, by decide +kernel⟩

theorem test_witness_AcceptedWriteBecomesChunks :
    on.Awake ∧ on.awaitCsnRise = false ∧ on.openRead = none ∧ LinkWaits on.linkQueue ∧ ([9] : List Byte) ≠ [] ∧
    0x3FFF + ([9] : List Byte).length ≤ 16384 ∧
    (writtenRegister 0x4004 .control ∧ writtenRegister 0x400C .post ∧ writtenRegister 0x4010 .release ∧ writtenRegister 0x4014 .cause) ∧
    (16384 < 0x4000 + 1 ∧ ∀ r, ¬writtenRegister 0x4000 r) :=
  ⟨rfl, rfl, rfl, ⟨nofun, nofun⟩, by decide, by decide, ⟨writableAt_iff.mp rfl, writableAt_iff.mp rfl, writableAt_iff.mp rfl, writableAt_iff.mp rfl⟩,
    by decide, fun r => by unfold writtenRegister; cases r <;> decide⟩

theorem test_witness_ChunkIsOneWrite :
    let s := { on with linkQueue := [.chunk 0x3FFF [9], .discard, .reg .cause 1] }
    (s.Awake ∧ s.MemoryOk ∧ s.linkQueue = .chunk 0x3FFF [9] :: [.discard, .reg .cause 1] ∧
      0x3FFF + ([9] : List Byte).length ≤ 16384) ∧
    ((s.fetchTurns alone.turns).serves .link alone.waiting = true ∧
      ({ reading s with rotation := .link }.fetchTurns contended.turns).serves .link contended.waiting = false) ∧
    ([LinkEntry.discard, .reg .cause 1] = List.replicate 1 .discard ++ [.reg .cause 1] ∧ LinkWaits [.reg .cause 1] ∧
      s.linkErrors ≤ 255) ∧
    ((readAt 0x3FFF 1).needsAccess = true ∧ (readAt 0x3FFF 0).NeedsNone ∧
      (let r := fun o => { on with linkQueue := [.chunk 0x3FFF [9]], openRead := some o }
       ∀ o, (r o).linkQueue = .chunk 0x3FFF [9] :: [] ∧ ([] : List LinkEntry) = List.replicate 0 .discard ++ [] ∧
        (r o).openRead = some o) ∧
      [LinkEntry.read (readAt 0x3FFF 0)] = List.replicate 0 .discard ++ [.read (readAt 0x3FFF 0)] ∧ s.openRead = none) ∧
    (XmAgent.posting ∈ contended.waiting ∧ { s with pendingList := [anyCompletion 1] }.hasAccess .posting = true ∧
      XmAgent.posting ≠ .link ∧ { s with pendingList := [anyCompletion 1] }.serves .link contended.waiting = true) :=
  ⟨⟨rfl, rfl, rfl, by decide⟩, by decide +kernel, ⟨rfl, ⟨nofun, nofun⟩, by decide⟩,
    ⟨by decide, fun i _ h => absurd h (Nat.not_lt_zero i), fun _ => ⟨rfl, rfl, rfl⟩, rfl, rfl⟩, by decide +kernel⟩

theorem test_witness_ControlWriteIsTakenWhole :
    (handed on .control 0x71).Handed .control 0x71 ∧ (handed on .control 4).Handed .control 4 ∧
    ((0x71 : BitVec 32).getLsbD 1 = false ∧ (0x71 : BitVec 32).getLsbD 0 = true) ∧
    ((4 : BitVec 32).getLsbD 1 = false ∧ (4 : BitVec 32).getLsbD 0 = false ∧ (4 : BitVec 32).getLsbD 2 = true) :=
  ⟨handed_ok on rfl _ _, handed_ok on rfl _ _, by decide, by decide⟩

theorem test_witness_PostActsOnItsQueue :
    (∀ v, (handed on .post v).Handed .post v) ∧ on.engine = .running ∧ (on.sq 0).state ≠ .absent ∧ 3 < (on.sq 0).size ∧
    ({ on with sqs := on.sqs.set 0 { readyQueue with state := .faulted } }.sq 0).state = .faulted ∧ (on.sq 1).state = .absent ∧
    ((0x0003 : BitVec 32).extractLsb' 0 8).toNat = 3 ∧ ((0x1000 : BitVec 32).extractLsb' 12 2).toNat = 1 ∧
    ((0x2000 : BitVec 32).extractLsb' 12 2).toNat = 2 ∧ ((0x3000 : BitVec 32).extractLsb' 12 2).toNat = 3 ∧
    3 < ((0x0400 : BitVec 32).extractLsb' 8 4).toNat ∧ (on.sq 0).size ≤ ((0x0004 : BitVec 32).extractLsb' 0 8).toNat :=
  ⟨fun v => handed_ok on rfl _ v, by decide +kernel⟩

theorem test_witness_ReleaseMovesOrSetsError :
    (∀ v, (handed on .release v).Handed .release v) ∧ ((0x00000 : BitVec 32).extractLsb' 16 3).toNat = 0 ∧
    ((0x10000 : BitVec 32).extractLsb' 16 3).toNat = 1 ∧ ((0x20000 : BitVec 32).extractLsb' 16 3).toNat = 2 ∧
    ((0x30000 : BitVec 32).extractLsb' 16 3).toNat = 3 ∧ 3 < ((0x40000 : BitVec 32).extractLsb' 16 3).toNat :=
  ⟨fun v => handed_ok on rfl _ v, by decide⟩

theorem test_witness_CauseWriteClearsBits : (handed on .cause 7).Handed .cause 7 := handed_ok on rfl _ _

/-- A STARTING engine that has drained. -/
def starting : State := { State.reset with engine := .starting }

theorem test_witness_StartWaitsForDrain :
    (starting.Awake ∧ starting.engine = .starting ∧ starting.configRead = none ∧
      (∀ l : Fin 4, (∀ r, (starting.lane l).state ≠ .running r) ∧ (starting.lane l).state ≠ .gated ∧ (starting.lane l).queue = [] ∧
        (starting.lane l).outbox = []) ∧ starting.pendingList = [] ∧ starting.fetch = .idle) ∧
    { starting with pendingList := [anyCompletion 1] }.pendingList ≠ [] ∧
    ({ starting with configRead := some [] }.engine = .starting ∧ { starting with configRead := some [] }.configRead.isSome = true) :=
  ⟨⟨rfl, rfl, rfl, fun l => by fin_cases l <;> exact ⟨nofun, nofun, rfl, rfl⟩, rfl, rfl⟩, nofun, rfl, rfl⟩

/-- A configuration block with SQ0 at 0x400 and CQ0 at 0x1000. -/
def configBlock : List Byte :=
  [0x54, 0x51, 0x36, 0x43] ++ List.replicate 12 0 ++ [0x00, 0x04, 3, 0, 2, 0, 0, 0] ++ List.replicate 24 0 ++
    [0x00, 0x10, 5, 1, 0, 0, 0, 0] ++ List.replicate 24 0

/-- A starting engine has read some bytes of its configuration, and the arbiter served an agent last. -/
def configAt (n : Nat) (rotation : XmAgent) : State :=
  { starting with
    configRead := some (configBlock.take n), rotation := rotation, xm := Memory.writeBytes [] 0 configBlock
    linkQueue := [.chunk 0 [1]] }

theorem test_witness_ConfigurationDecidesStart :
    ((configAt 0 .capture).Awake ∧ (configAt 0 .capture).engine = .starting ∧ (configAt 0 .capture).configRead = some [] ∧
      ([] : List Byte).length % 16 = 0) ∧
    ((configAt 64 .capture).serves .fetch contended.waiting = false ∧
      (configAt 48 .link).serves .fetch contended.waiting = true ∧ ¬(configAt 48 .link).Alone .fetch contended.waiting) ∧
    ((configAt 0 .capture).Alone .fetch alone.waiting ∧ (configBlock.take 80).length = 80 ∧ (configBlock.take 64).length = 64 ∧
      (configAt 64 .link).serves .fetch contended.waiting = true) ∧
    (∀ e, ¬ConfigFault (configAt 0 .capture) (Memory.readBytes (configAt 0 .capture).xm 0 80) e) ∧
    firstConfigFault starting (Memory.readBytes starting.xm 0 80) .badSignature := by
  refine ⟨⟨rfl, rfl, rfl, rfl⟩, ⟨by decide +kernel, by decide +kernel, by unfold State.Alone; decide +kernel⟩,
    ⟨nofun, by decide, by decide, by decide +kernel⟩, ?_, ?_⟩
  · have h : (configAt 0 .capture).configCheck (Memory.readBytes (configAt 0 .capture).xm 0 80) = .none := by decide +kernel
    obtain ⟨_, hn⟩ | ⟨hx, _⟩ := State.configCheck_eq (configAt 0 .capture) (Memory.readBytes (configAt 0 .capture).xm 0 80)
    · exact hn
    · exact absurd h hx
  · exact ⟨by unfold ConfigFault; decide +kernel, fun e' h => by cases e' <;> first | exact id | exact absurd h (by decide)⟩

theorem test_witness_ArbiterServesUrgentFirst :
    let urgent := on.updSq 3 fun _ => { readyQueue with cls := .urgent }
    let burst := { on with normalPointer := 0, burstCredit := 1 }
    let none_ := { on with sqs := State.reset.sqs }
    (urgent.Awake ∧ urgent.engine = .running ∧ urgent.fetch = .idle ∧ (urgent.sq 3).state = .ready ∧ (urgent.sq 3).cls = .urgent ∧
      ∀ p : Fin 4, (p - (urgent.urgentPointer + 1)).val < ((3 : Fin 4) - (urgent.urgentPointer + 1)).val →
        ¬((urgent.sq p).state = .ready ∧ (urgent.sq p).cls = .urgent)) ∧
    ((burst.sq 0).state = .ready ∧ (burst.sq 0).cls = .normal ∧ 0 < burst.burstCredit) ∧
    ((on.sq 0).state = .ready ∧ (on.sq 0).cls = .normal ∧ on.burstCredit = 0) ∧ ∀ q : Fin 4, (none_.sq q).state ≠ .ready := by
  refine ⟨⟨rfl, rfl, rfl, by decide +kernel⟩, by decide +kernel⟩

/-- A record of a kind with its CRC. -/
def checked (kind : Nat) : List Byte := (record kind []).take 63 ++ [crc8 ((record kind []).take 63)]

theorem test_witness_RecordIsCheckedInOrder :
    ((reading on).Awake ∧ (reading on).configRead = none ∧ (reading on).fetch = .reading 0 [] false) ∧
    (let r := Memory.readBytes [(0x400, 1)] 0x400 64; crc8 (r.take 63) ≠ r.getD 63 0) ∧
    (let r := Memory.readBytes [] 0x400 64; crc8 (r.take 63) = r.getD 63 0 ∧ (recordKind r).toNat = 0 ∧ byteAt r 3 ≠ 1) ∧
    ([0x01, 0x03, 0x10, 0x19, 0x04, 0x0F, 0x1A].map fun k =>
      (crc8 ((checked k).take 63) == (checked k).getD 63 0, (recordKind (checked k)).toNat)) =
      [(true, 0x01), (true, 0x03), (true, 0x10), (true, 0x19), (true, 0x04), (true, 0x0F), (true, 0x1A)] ∧
    (let s := fun (n : Nat) (x : XmAgent) =>
      { on with fetch := .reading 0 (List.replicate n 0) false, rotation := x, linkQueue := [.chunk 0 [1]] }
     ((s 48 .capture).serves .fetch contended.waiting = false ∧ (s 32 .link).serves .fetch contended.waiting = true ∧
        (s 48 .link).serves .fetch contended.waiting = true) ∧
      (s 0 .capture).Alone .fetch alone.waiting ∧ ¬(s 32 .link).Alone .fetch contended.waiting) :=
  ⟨⟨rfl, rfl, rfl⟩, by decide +kernel, by decide +kernel, by decide +kernel, by decide +kernel, nofun,
    by unfold State.Alone; decide +kernel⟩

theorem test_witness_NopCompletesDone : (given on (record 0x01 [])).Holds 0x01 0 (record 0x01 []) := given_holds on rfl _ _

theorem test_witness_ValidSegmentIsDelivered :
    (∀ s : State, s.inReset = false → (given s (record 0x02 segmentFields)).Holds 0x02 0 (record 0x02 segmentFields)) ∧
    ((bound idle 0 1 .idle).lane 0).queue.length + ((bound idle 0 1 .idle).lane 0).outbox.length ≤ 3 ∧
    (∀ n, ¬SegmentFault (bound idle 0 1 .idle) 0 (record 0x02 segmentFields) n) ∧ (bound idle 0 1 .idle).permitOn = false ∧
    (∀ n, ¬SegmentFault (bound on 0 1 .idle) 0 (record 0x02 segmentFields) n) ∧
    ((bound on 0 1 .idle).permitOn = true ∧ (bound on 0 1 .idle).mayStart 0 = true) ∧
    ((∀ n, ¬SegmentFault (runningLane plainSegment) 0 (record 0x02 segmentFields) n) ∧
      (runningLane plainSegment).mayStart 0 = false) ∧
    ((bound gatedLane 1 2 .idle).LanesOk ∧ (bound gatedLane 1 2 .idle).mayStart 1 = true ∧
      (gatedLane.gate 0).members.getLsbD 1 = true ∧ (gatedLane.gate 0).arrivals ||| laneBit 1 = (gatedLane.gate 0).members) ∧
    ((on.updGate 0 fun g => { g with members := 3 }).gate 0).arrivals ||| laneBit 1 ≠ 3 ∧
    (on.gate 0).members.getLsbD 1 = false :=
  ⟨fun s h => given_holds s h _ _, by decide +kernel, State.segmentCheck_eq_none_iff.mp (by decide +kernel), by decide +kernel,
    State.segmentCheck_eq_none_iff.mp (by decide +kernel), by decide +kernel,
    ⟨State.segmentCheck_eq_none_iff.mp (by decide +kernel), by decide +kernel⟩,
    ⟨by unfold State.LanesOk; decide +kernel, by decide +kernel⟩, by decide +kernel⟩

/-- A slot whose phase has the invalid code 7, as no copy leaves it, and a slot that is not VALID. -/
def slots : State := (bound on 0 1 .idle).updSlot 0 fun _ => { valid := true, useCount := 0, phases := [phaseOf 1 .invalid] }

/-- R23: for each check a record in which it is the first to fail. -/
def segmentFaults : List (Nat × List (Nat × Nat)) :=
  let f := segmentFields
  [(1, (6, 32) :: f), (2, (6, 31) :: f), (3, (20, 0) :: f), (4, (22, 0x07) :: f), (4, (6, 16) :: f), (5, (23, 0x01) :: f),
    (6, (9, 201) :: f), (7, (25, 0xE9) :: (26, 0x03) :: f), (8, (8, 2) :: f), (9, (12, 1) :: f), (10, (17, 4) :: f),
    (11, (5, 5) :: f), (12, (7, 0) :: f)]

theorem test_segment_checks :
    segmentFaults.map (fun x => slots.segmentCheck 0 (record 0x02 x.2)) = segmentFaults.map fun x => some x.1 := by decide +kernel

theorem test_witness_LaneCommandsAreRefusedInOrder :
    (∀ f, (given on (record 0x02 f)).Holds 0x02 0 (record 0x02 f)) ∧ (∀ f, (given on (record 0x03 f)).Holds 0x03 0 (record 0x03 f)) ∧
    3 < byteAt (record 0x02 [(4, 4)]) 4 ∧ byteAt (record 0x03 [(4, 3)]) 4 = 3 ∧
    ((on.updLane 3 fun l => { l with outbox := List.replicate 4 (anyCompletion 0x02) }).lane 3).readyFor .segment = false ∧
    ((on.updLane 3 fun l => { l with outbox := [anyCompletion 0x03] }).lane 3).readyFor .halt = false ∧
    ((on.lane 3).readyFor .segment = true ∧ (on.lane 3).state = .unbound) ∧
    ∀ x ∈ segmentFaults, SegmentFault slots 0 (record 0x02 x.2) x.1 ∧ ∀ k, k < x.1 → ¬SegmentFault slots 0 (record 0x02 x.2) k := by
  refine ⟨fun f => given_holds on rfl _ f, fun f => given_holds on rfl _ f, by decide +kernel, by decide +kernel, by decide +kernel,
    by decide +kernel, by decide +kernel, fun x hx => State.segmentCheck_eq_some_iff.mp ?_⟩
  exact (List.map_inj_left.mp test_segment_checks) x hx

theorem test_witness_HaltFlushesLane :
    (given (runningLane plainSegment) (record 0x03 [])).Holds 0x03 0 (record 0x03 []) ∧ byteAt (record 0x03 []) 4 = 0 ∧
    (∀ c ∈ ((runningLane plainSegment).lane 0).outbox, c.origin.kind ≠ 0x03) ∧
    ((runningLane plainSegment).lane 0).state ≠ .unbound ∧
    ((given gatedLane (record 0x03 [])).Holds 0x03 0 (record 0x03 []) ∧ (gatedLane.lane 0).state = .gated ∧
      (∀ c ∈ (gatedLane.lane 0).outbox, c.origin.kind ≠ 0x03) ∧ (gatedLane.gate 0).arrivals.getLsbD 0 = true ∧
      (gatedLane.gate 1).arrivals.getLsbD 0 = false) :=
  ⟨given_holds _ rfl _ _, by decide +kernel, by decide +kernel, by decide +kernel, given_holds _ rfl _ _, by decide +kernel⟩

theorem test_witness_BindFollowsItsTable :
    (∀ f, (given on (record 0x10 f)).Holds 0x10 0 (record 0x10 f)) ∧ 3 < byteAt (record 0x10 [(4, 4)]) 4 ∧
    (byteAt (record 0x10 [(4, 3), (5, 64)]) 4 = 3 ∧ 64 ≤ byteAt (record 0x10 [(4, 3), (5, 64)]) 5) ∧
    (byteAt (record 0x10 [(5, 63)]) 5 < 64 ∧ ((bound on 0 1 .idle).lane 0).state ≠ .unbound) ∧
    (byteAt (record 0x10 []) 5 = 0 ∧ (on.lane 0).state = .unbound) ∧
    (((bound on 0 4 .idle).channel 2).owner ≠ none ∧ ∀ k : Fin 6, k < 2 → ((bound on 0 4 .idle).channel k).owner = none) ∧
    ∀ c : Fin 6, (on.channel c).owner = none := ⟨fun f => given_holds on rfl _ f, by decide +kernel⟩

theorem test_witness_UnbindFollowsItsTable :
    (∀ f, (given on (record 0x11 f)).Holds 0x11 0 (record 0x11 f)) ∧ 3 < byteAt (record 0x11 [(4, 4)]) 4 ∧
    (on.lane 3).state = .unbound ∧ (∃ run, ((runningLane plainSegment).lane 0).state = .running run) ∧
    (((bound on 0 1 .held).lane 0).state = .held ∧ ((bound on 0 1 .held).lane 0).queue = [] ∧
      ((bound on 0 1 .held).lane 0).outbox = []) :=
  ⟨fun f => given_holds on rfl _ f, by decide +kernel, by decide +kernel, ⟨_, rfl⟩, by decide +kernel⟩

theorem test_witness_SetLimitsFollowsItsTable :
    (∀ f, (given on (record 0x12 f)).Holds 0x12 0 (record 0x12 f)) ∧ 64 ≤ byteAt (record 0x12 [(4, 64)]) 4 ∧
    (byteAt (record 0x12 (limits 100 4050 1 1)) 4 = 0x21 ∧ 4000 < field16 (record 0x12 (limits 100 4050 1 1)) 30) ∧
    (field16 (record 0x12 (limits 100 4000 1 17)) 20 = 100 ∧ field16 (record 0x12 (limits 100 4000 1 17)) 30 = 4000 ∧
      16 < byteAt (record 0x12 (limits 100 4000 1 17)) 37) ∧
    byteAt (record 0x12 (limits 100 4000 1 16)) 37 = 16 := ⟨fun f => given_holds on rfl _ f, by decide +kernel⟩

theorem test_witness_SetDomainsFollowsItsTable :
    (∀ (s : State) (f : List (Nat × Nat)), s.inReset = false → (given s (record 0x13 f)).Holds 0x13 0 (record 0x13 f)) ∧
    on.LanesOk ∧ 2 < byteAt (record 0x13 [(9, 3)]) 9 ∧ 15 < byteAt (record 0x13 [(12, 16)]) 12 ∧ (drivenLow.channel 5).code ≠ .off ∧
    ((runningLane plainSegment).lane 0).isRunning = true ∧ (∀ c : Fin 6, (on.channel c).code = .off) ∧
    (∀ l : Fin 4, (on.lane l).isRunning = false) ∧ ∀ l : Fin 4, (on.lane l).state = .held → (on.lane l).queue = [] := by
  refine ⟨fun s f h => given_holds s h _ f, ?_⟩
  unfold State.LanesOk
  decide +kernel

/-- A HELD lane, and two domains TRIPPED: re-arming domain 0 frees it, re-arming domain 1 does not. -/
def heldLane : State := domain0 (bound on 0 1 .held) .tripped 1 0 |>.updDomain 1 fun d => { d with state := .tripped }

/-- A HELD lane with a queued segment, its domain TRIPPED. -/
def heldQueue : State := heldLane.updLane 0 fun l => { l with queue := [plainSegment] }

/-- R84, R13: re-arming frees the lane, which takes the head of its queue at once. -/
theorem test_rearm_starts_head :
    let t := after (exec .rearm (given heldQueue (record 0x14 [])))
    ((t.lane 0).isRunning, (t.lane 0).queue, (t.channel 0).code, t.pendingList.map (·.detail)) = (true, [], .high, [1]) := by
  decide +kernel

theorem test_witness_RearmFollowsItsTable :
    (∀ (s : State) (f : List (Nat × Nat)), s.inReset = false → (given s (record 0x14 f)).Holds 0x14 0 (record 0x14 f)) ∧
    2 < byteAt (record 0x14 [(4, 3)]) 4 ∧ (on.domain 2).state = .armed ∧ ((domain0 on .locked 3 3).domain 0).state = .locked ∧
    (heldLane.domain 0).state = .tripped ∧ (heldLane.domain 1).state = .tripped ∧ (heldLane.lane 0).state = .held ∧
    heldLane.meetsDomain 0 0 = true ∧ heldLane.LanesOk ∧
    (heldQueue.LanesOk ∧ (heldQueue.lane 0).queue = [plainSegment] ∧
      (heldQueue.updDomain 0 fun d => { d with state := .armed }).meetsDomain 0 0 = true ∧
      (((heldQueue.updDomain 0 fun d => { d with state := .armed }).updLane 0 fun l => { l with state := .idle }).mayStart 0 = true)) :=
  ⟨fun s f h => given_holds s h _ f, by unfold State.LanesOk; decide +kernel⟩

theorem test_witness_LoadPatternFollowsItsTable :
    (∀ (s : State) (f : List (Nat × Nat)), s.inReset = false → (given s (record 0x15 f)).Holds 0x15 0 (record 0x15 f)) ∧
    15 < byteAt (record 0x15 [(4, 16)]) 4 ∧ field16 (record 0x15 [(6, 4)]) 6 % 8 ≠ 0 ∧
    0x3F78 < field16 (record 0x15 [(6, 0x80), (7, 0x3F)]) 6 ∧ field16 (record 0x15 [(4, 15), (6, 0x78), (7, 0x3F)]) 6 = 0x3F78 ∧
    (slotInUse.slot 15).useCount ≠ 0 ∧ (on.slot 15).useCount = 0 := ⟨fun s f h => given_holds s h _ f, by decide +kernel⟩

/-- A pattern copy into slot 0 from 0x3000 has begun, with some bytes there. -/
def copying (bytes : List Byte) : State :=
  { on with fetch := .loading 0 0x3000 (origin0 0x15) [], xm := Memory.writeBytes [] 0x3000 bytes }

/-- The image that the copy finds. -/
def imageOf (bytes : List Byte) : List Byte := Memory.readBytes (copying bytes).xm 0x3000 144

/-- R54: no phases, a phase of duration 0 after a sound one, an invalid code, and a sound image of one phase. -/
theorem test_pattern_copies :
    [told .patternCopyComplete (copying []), told .patternCopyComplete (copying [2, 0, 0, 0, 0, 0, 0, 0, 3, 0]),
      told .patternCopyComplete (copying [1, 0, 0, 0, 0, 0, 0, 0, 3, 0, 0x70]),
      told .patternCopyComplete (copying [1, 0, 0, 0, 0, 0, 0, 0, 3, 0, 0x20])] =
    [some (.badPattern, none, 1), some (.badPattern, none, 2), some (.badPattern, none, 3), some (.done, none, 1)] := by
  decide +kernel

/-- The aligned spans of a pattern image of 16 phases at 0x3008. -/
def longImage : List Byte :=
  List.replicate 8 0 ++ (16 : Byte) :: List.replicate 7 0 ++ (List.replicate 16 [3, 0, 0x20, 0, 0, 0, 0, (0 : Byte)]).flatten

/-- A copy of that image has read some of its bytes, and the arbiter served an agent last, while a chunk waits. -/
def lateCopy (rotation : XmAgent) (got : Nat) : State :=
  { on with
    fetch := .loading 0 0x3008 (origin0 0x15) (longImage.take got), rotation := rotation, linkQueue := [.chunk 0 [1]]
    xm := Memory.writeBytes [] 0x3000 longImage }

theorem test_witness_PatternCopyReplacesSlot :
    ((copying []).Awake ∧ (copying []).configRead = none ∧ (copying []).fetch = .loading 0 0x3000 (origin0 0x15) [] ∧ 0x3000 % 8 = 0 ∧
      byteAt (imageOf []) 0 = 0) ∧
    (byteAt (imageOf [2, 0, 0, 0, 0, 0, 0, 0, 3, 0]) 0 = 2 ∧
      (phaseAt (imageOf [2, 0, 0, 0, 0, 0, 0, 0, 3, 0]) 8).duration ≠ 0 ∧
      (phaseAt (imageOf [2, 0, 0, 0, 0, 0, 0, 0, 3, 0]) 8).hasInvalid = false ∧
      (phaseAt (imageOf [2, 0, 0, 0, 0, 0, 0, 0, 3, 0]) 16).duration = 0) ∧
    (byteAt (imageOf [1, 0, 0, 0, 0, 0, 0, 0, 3, 0, 0x20]) 0 = 1 ∧
      (phaseAt (imageOf [1, 0, 0, 0, 0, 0, 0, 0, 3, 0, 0x20]) 8).duration ≠ 0 ∧
      (phaseAt (imageOf [1, 0, 0, 0, 0, 0, 0, 0, 3, 0, 0x20]) 8).hasInvalid = false) ∧
    ((lateCopy .capture 128).hasAccess .loader = true ∧ (lateCopy .capture 128).serves .loader contended.waiting = false ∧
      (lateCopy .link 112).serves .loader contended.waiting = true ∧
      ∃ got, (lateCopy .link 112).fetch = .loading 0 0x3008 (origin0 0x15) got ∧ got.length = 112 ∧
        imageVerdict 0x3008 (got ++ Memory.readBytes (lateCopy .link 112).xm (0x3008 / 16 * 16 + 112) 16) = .more) ∧
    (¬(lateCopy .link 112).Alone .loader contended.waiting ∧ (copying []).Alone .loader alone.waiting) ∧
    ((lateCopy .link 128).serves .loader contended.waiting = true ∧
      ∃ got, (lateCopy .link 128).fetch = .loading 0 0x3008 (origin0 0x15) got ∧ got.length = 128 ∧
        imageVerdict 0x3008 (got ++ Memory.readBytes (lateCopy .link 128).xm (0x3008 / 16 * 16 + 128) 16) ≠ .more) ∧
    (lateCopy .link 144).hasAccess .loader = false :=
  ⟨⟨rfl, rfl, rfl, rfl, by decide +kernel⟩, by decide +kernel, by decide +kernel,
    ⟨by decide +kernel, by decide +kernel, by decide +kernel, _, rfl, by decide +kernel, by decide +kernel⟩,
    ⟨by unfold State.Alone; decide +kernel, nofun⟩, ⟨by decide +kernel, _, rfl, by decide +kernel, by decide +kernel⟩,
    by decide +kernel⟩

theorem test_witness_SetGateFollowsItsTable :
    (∀ (s : State) (f : List (Nat × Nat)), s.inReset = false → (given s (record 0x16 f)).Holds 0x16 0 (record 0x16 f)) ∧
    4 < byteAt (record 0x16 [(4, 5)]) 4 ∧ byteAt (record 0x16 [(4, 4), (5, 16)]) 4 = (3 : Fin 4).val + 1 ∧
    16 ≤ byteAt (record 0x16 [(4, 4), (5, 16)]) 5 ∧
    ((gatedLane.gate 0).members.getLsbD 0 = true ∧ (gatedLane.lane 0).gatedOn 0 = true) ∧
    ∀ l : Fin 4, (gatedLane.lane l).gatedOn 1 = false := ⟨fun s f h => given_holds s h _ f, by decide +kernel⟩

theorem test_witness_CaptureStartFollowsItsTable :
    (∀ (s : State) (f : List (Nat × Nat)), s.inReset = false → (given s (record 0x17 f)).Holds 0x17 0 (record 0x17 f)) ∧
    (SharesByte on (some 1) 0x0400 256 ∧ SharesByte on (some 1) 0x0F10 256 ∧ ¬SharesByte on (some 1) 0x0F00 256) ∧
    1 < byteAt (record 0x17 [(4, 2)]) 4 ∧ byteAt (record 0x17 (capture 2 0x2000 256 0 0 0 0)) 4 = 1 ∧
    ((stream1 .armed .stream).stream 1).state = .armed ∧ ((stream1 .overrun .stream).stream 1).state = .overrun ∧
    ((stream1 .frozen .history).stream 1).state = .frozen ∧
    1 < byteAt (record 0x17 (capture 2 0x2000 256 0 0 0 0)) 5 ∧
    field16 (record 0x17 (capture 1 0x2008 256 0 0 0 0)) 8 % 16 ≠ 0 ∧
    field16 (record 0x17 (capture 1 0x2000 240 0 0 0 0)) 10 < 256 ∧
    16384 < field16 (record 0x17 (capture 1 0x3F10 256 0 0 0 0)) 8 + 256 ∧
    (byteAt (record 0x17 (capture 1 0x2000 256 1 4 0 0)) 12 = 1 ∧ 3 < byteAt (record 0x17 (capture 1 0x2000 256 1 4 0 0)) 13) ∧
    byteAt (record 0x17 (capture 1 0x2000 256 1 3 1 4)) 14 = 1 ∧ 3 < byteAt (record 0x17 (capture 1 0x2000 256 1 3 1 4)) 15 := by
  simp only [← State.overlaps_iff]
  exact ⟨fun s f h => given_holds s h _ f, by decide +kernel⟩

/-- Stream 1 after its trigger lane has entered RUNNING at this tick. -/
def entered (mode : CaptureMode) : State := ((stream1 .armed mode).updStream 1 fun c =>
  { c with trigger := .laneStart 0, writePos := 0x2000, wrapCount := 0, nextInstant := none }).laneEntered 0

/-- R156: a CAPTURE_STOP at the tick of the lane's entry comes after the first record. -/
theorem test_capture_stop_after_first_record :
    let t := after (exec .captureStop (given (entered .stream) (record 0x18 [(4, 1)])))
    ((t.stream 1).state, (t.stream 1).writePos, Memory.read t.xm 0x2000 == 0, t.pendingList.map fun c => (c.detail, c.elapsed)) =
      (.off, 0x2010, false, [(2, 0x2010)]) := by decide +kernel

/-- R156, R157: a stopped HISTORY ring tells code 2 with the record index, 1 after the first record; a wrapped one code 3. -/
theorem test_capture_stop_event :
    let told := fun s => ((after (exec .captureStop (given s (record 0x18 [(4, 1)])))).event (captureStateSource 1)).map (·.detail)
    (told (entered .history), told (stream1 .running .history), told (stream1 .running .stream)) =
      (some { first := 2, second := 1, third := 0 }, some { first := 3, second := 15, third := 0 }, none) := by decide +kernel

theorem test_witness_CaptureStopReportsState :
    (∀ (s : State) (f : List (Nat × Nat)), s.inReset = false → (given s (record 0x18 f)).Holds 0x18 0 (record 0x18 f)) ∧
    1 < byteAt (record 0x18 [(4, 2)]) 4 ∧ byteAt (record 0x18 [(4, 1)]) 4 = 1 ∧
    (((stream1 .running .history).stream 1).mode = .history ∧ ((stream1 .running .history).stream 1).state = .running) ∧
    (((stream1 .overrun .stream).stream 1).mode = .stream ∧ ((stream1 .overrun .stream).stream 1).state = .overrun) ∧
    ∀ mode ∈ [CaptureMode.stream, .history], let c := (entered mode).stream 1
      c.trigger ≠ .immediate ∧ (entered mode).instantDue 1 = true ∧ c.writePos = c.base ∧ c.wrapCount = 0 ∧ (entered mode).MemoryOk ∧
        c.state = .running ∧ c.mode = mode ∧ c.base + 16 ≤ 16384 ∧ 16 < c.size ∧ c.readPos = c.base :=
  ⟨fun s f h => given_holds s h _ f, by unfold State.MemoryOk; decide +kernel⟩

theorem test_witness_SnapshotTakesItsPicture :
    (∀ f, (given on (record 0x19 f)).Holds 0x19 0 (record 0x19 f)) ∧ field16 (record 0x19 [(4, 8)]) 4 % 16 ≠ 0 ∧
    0x3F80 < field16 (record 0x19 [(4, 0x90), (5, 0x3F)]) 4 ∧ field16 (record 0x19 [(4, 0x80), (5, 0x3F)]) 4 = 0x3F80 ∧
    (SharesByte on none 0xF0 128 ∧ ¬SharesByte on none 0x100 128 ∧ ¬SharesByte on none 0x3F80 128) := by
  simp only [← State.overlaps_iff]
  exact ⟨fun f => given_holds on rfl _ f, by decide +kernel⟩

theorem test_witness_SnapshotIsWrittenWhole :
    let s := fun n x =>
      { on with fetch := .snapshotting 0x3F80 (origin0 0x19) on.picture n, rotation := x, linkQueue := [.chunk 0 [1]] }
    ((s 0 .capture).Awake ∧ (s 0 .capture).MemoryOk ∧ (s 0 .capture).configRead = none ∧
      (s 0 .capture).fetch = .snapshotting 0x3F80 (origin0 0x19) on.picture 0 ∧ on.picture.length = 128) ∧
    ((s 7 .capture).serves .snapshot contended.waiting = false ∧ (s 6 .link).serves .snapshot contended.waiting = true ∧
      ¬(s 6 .link).Alone .snapshot contended.waiting) ∧
    ((s 0 .capture).Alone .snapshot alone.waiting ∧ (s 7 .link).serves .snapshot contended.waiting = true ∧
      (s 8 .capture).fetch = .snapshotting 0x3F80 (origin0 0x19) on.picture 8) :=
  ⟨⟨rfl, rfl, rfl, rfl, by decide +kernel⟩,
    ⟨by decide +kernel, by decide +kernel, by unfold State.Alone; decide +kernel⟩, nofun, by decide +kernel, rfl⟩

theorem test_witness_WaitPostIsAccepted :
    let s := { on with fetch := .waitPost (anyCompletion 1) }
    (s.Awake ∧ s.fetch = .waitPost (anyCompletion 1) ∧ s.pendingList.length < 8) ∧
    8 ≤ { s with pendingList := List.replicate 8 (anyCompletion 1) }.pendingList.length :=
  ⟨⟨rfl, rfl, by decide⟩, by decide +kernel⟩

theorem test_witness_OutboxGivesOldestInRotation :
    let s := on.updLane 1 fun l => { l with outbox := [anyCompletion 2, anyCompletion 3] }
    (s.Awake ∧ (∀ c, s.fetch ≠ .waitPost c) ∧ s.pendingList.length < 8 ∧
      (s.lane 1).outbox = anyCompletion 2 :: [anyCompletion 3] ∧
      ∀ k : Fin 4, (k - (s.lanePointer + 1)).val < ((1 : Fin 4) - (s.lanePointer + 1)).val → (s.lane k).outbox = []) ∧
    (let v := (bound gatedLane 1 2 .idle).updLane 1 fun l => { l with queue := [gatedSegment] }
     v.LanesOk ∧ v.mayStart 1 = true ∧ (v.lane 1).queue = [gatedSegment]) ∧
    ((∀ l : Fin 4, (on.lane l).outbox = []) ∧ 8 ≤ (List.replicate 8 (anyCompletion 1)).length ∧
      ∃ c, { on with fetch := .waitPost (anyCompletion 1) }.fetch = .waitPost c) :=
  ⟨⟨rfl, nofun, by decide, rfl, by decide +kernel⟩, ⟨by unfold State.LanesOk; decide +kernel, by decide +kernel⟩,
    by decide +kernel, by decide +kernel, _, rfl⟩

/-- R111: with an outbox entry gone, the SQ blocked on the lane is READY. -/
theorem test_readiness_notice :
    let s := (on.updLane 1 fun l => { l with outbox := List.replicate 4 (anyCompletion 2) }).updSq 0 fun q =>
      { q with state := .blocked 1 .segment }
    ((after (exec .outboxAccept s)).sq 0).state = .ready := by decide +kernel

theorem test_witness_PostedRecordStandsInRing :
    let s := { on with pendingList := [anyCompletion 1] }
    let e := on.recordEvent 3 { first := 0, second := 0, third := 0 }
    (s.Awake ∧ s.MemoryOk ∧ (s.cq 0).base + 16 * (s.cq 0).size ≤ 16384 ∧ (s.cq 0).tail < (s.cq 0).size ∧
      s.nextPost = some (0, .completion (anyCompletion 1))) ∧
    (e.nextPost = some (0, .event 3) ∧ { e with pendingList := [anyCompletion 1] }.nextPost = some (0, .event 3) ∧
      (e.recordEvent 5 { first := 0, second := 0, third := 0 }).nextPost = some (0, .event 3) ∧ e.eventCq = some 0 ∧ e.event 3 ≠ none) ∧
    ({ emptyRing with tail := 7 }.tail + 1) % emptyRing.size = 0 ∧
    ((s.fetchTurns alone.turns).serves .posting alone.waiting = true ∧
      ({ reading s with rotation := .link }.fetchTurns contended.turns).serves .posting contended.waiting = false) ∧
    (let b := { s with
       cqs := #v[emptyRing, { emptyRing with base := 0x1800 }]
       pendingList := [anyCompletion 1, { anyCompletion 1 with origin := { origin0 1 with cq := 1 } }] }
     b.engine ≠ .starting ∧ ∀ q : Fin 2, ((b.cq q).size ≠ 0 ∧ ((b.cq q).tail + 1) % (b.cq q).size ≠ (b.cq q).hostHead) ∧
      ∃ c ∈ b.pendingList, c.origin.cq = q) ∧
    ∀ q : Fin 2, ¬(∃ c ∈ on.pendingList, c.origin.cq = q) :=
  ⟨⟨rfl, rfl, by decide +kernel⟩, by decide +kernel⟩

/-! States that no run reaches are covered by the laws; each law holds of the states above as well. -/

theorem test_witness_StepKeepsLaws :
    nearTrip.MemoryOk ∧ nearTrip.OwnershipOk ∧ nearTrip.LanesOk ∧ nearTrip.BoundsOk ∧ nearTrip.UseCountsOk ∧ nearTrip.DomainsOk ∧
    nearTrip.RingsOk ∧ nearTrip.PendingOk ∧ nearTrip.ForcedOffOk ∧
    (∃ t, step { nearTrip with pending := [.tick quiet plainOrder] } = .next t) := by
  refine ⟨rfl, ?_, nearTrip_lanes, ?_, ?_, nearTrip_domains, ?_, ?_, ?_, ⟨_, rfl⟩⟩
  · unfold State.OwnershipOk; decide +kernel
  · unfold State.BoundsOk Lane.BoundsOk; decide +kernel
  · unfold State.UseCountsOk; decide +kernel
  · unfold State.RingsOk; decide +kernel
  · unfold State.PendingOk; decide +kernel
  · unfold State.ForcedOffOk; decide +kernel

/-- A channel that has driven LOW since tick 0, at tick 1. -/
theorem test_witness_SwitchesBreakBeforeMake :
    let c := Channel.afterReset.driveTo 0 .low 0 0
    9999 < max (c.elapsedNs 1 + 0) c.applied ∧ c.lowOn 9999 = true ∧ (c.driveTo 1 .high 0 0).highOn 2000 = true ∧
    (12999 < max (c.elapsedNs 1 + 3000) c.applied ∧ c.lowOn 12999 = true ∧ (c.driveTo 1 .high 0 0 3000).highOn 5000 = true) ∧
    (c.takeLimits 1 2000 16).lowOn 9999 = true := by decide +kernel

/-- The drives of R3's ranges, a drive of a tick with and without a delay after it, and the moments about a new interval. -/
theorem test_witness_SwitchesConduct :
    (driveOk .pwmC 1000 200 ∧ driveOk .pwmH 0 20 ∧ driveOk .high 0 0 ∧ bbmOk 1 ∧ bbmOk 16) ∧
    (let c := Channel.afterReset.driveTo 0 .low 0 0
     driveOk c.code c.duty c.period ∧ bbmOk c.bbm ∧ c.applied + 10000 ≤ max (c.elapsedNs 1 + 0) c.applied ∧
      (c.driveTo 1 .high 0 0).highWait = 2000 ∧ c.lowOn (10000 + 2000 - 2000 - 1) = true ∧ (c.driveTo 1 .low 0 0).lowWait = 0) ∧
    (let d := Channel.afterReset.driveTo 0 .pwmC 100 20
     max (d.elapsedNs 0 + 1999) d.applied < 20 * 100 ∧ 20 * 100 ≤ d.bbmNs ∧ max d.highWait d.lowWait ≤ 20000 ∧
      max (d.elapsedNs 0 + 1999) d.applied + 20000 < 60000 / 20000 * 20000) := by
  unfold driveOk bbmOk
  decide +kernel

end Sys2Proof.Tests
end

section
/-! PROOFS. BIND by its table (R17): an equation for each outcome of `State.handleBind`, what an accepted BIND writes, and the
statement O36 assembled from them. -/

namespace Sys2Proof.Machine

/-! ### What a fetch-side answer leaves unchanged -/

theorem OnlyFetchSide.channel {s t : State} (h : OnlyFetchSide s t) (c : Fin 6) : t.channel c = s.channel c := by
  rw [h]; rfl

theorem OnlyFetchSide.lane {s t : State} (h : OnlyFetchSide s t) (l : Fin 4) : t.lane l = s.lane l := by
  rw [h]; rfl

/-- After an effect on channels and lanes, an answer of the fetch side adds its own fields to those that differ. -/
theorem OnlyFetchSide.after_channels_lanes {s u t : State} (h : OnlyFetchSide u t)
    (hu : u = { s with channels := u.channels, lanes := u.lanes }) :
    t = { s with
      sqs := t.sqs, fetch := t.fetch, pendingList := t.pendingList, engine := t.engine, channels := t.channels
      lanes := t.lanes } := by
  have hc : t.channels = u.channels := by rw [h]
  have hl : t.lanes = u.lanes := by rw [h]
  rw [hc, hl]
  calc t = { u with sqs := t.sqs, fetch := t.fetch, pendingList := t.pendingList, engine := t.engine } := h
    _ = _ := congrArg (fun x : State =>
      { x with sqs := t.sqs, fetch := t.fetch, pendingList := t.pendingList, engine := t.engine }) hu

/-- What a refusal answers: the record is consumed and completed, and nothing else differs (R105). -/
theorem refuse_answers {s t : State} {q : Fin 4} {r : List Byte} {st : Status} {lane : Option (Fin 4)} {detail : Nat}
    (e : t = s.refuse q r st lane detail) : Completes s t q r st lane detail ∧ OnlyFetchSide s t :=
  e ▸ ⟨s.refuse_completes q r st lane detail, s.refuse_only q r st lane detail⟩

/-! ### What an accepted BIND writes -/

/-- The named channels become owned by the lane; nothing else of a channel changes (R8, R17). -/
theorem State.bindLane_channel (s : State) (l : Fin 4) (set : ChannelSet) (limit : Nat) (c : Fin 6) :
    (s.bindLane l set limit).channel c =
      { s.channel c with owner := if set.getLsbD c.val then some l else (s.channel c).owner } := by
  simp only [State.bindLane, State.updLane_channel, State.mapChannels_channel]
  split <;> rfl

/-- The lane after an accepted BIND: HELD if a domain that meets the named set is not ARMED, else IDLE (R17). -/
theorem State.bindLane_lane_self (s : State) (l : Fin 4) (set : ChannelSet) (limit : Nat) :
    (s.bindLane l set limit).lane l =
      { s.lane l with
        owned := set, holdLimit := limit, expiryCount := 0
        state :=
          if ∃ d : Fin 3, set &&& (s.domain d).members ≠ 0 ∧ (s.domain d).state ≠ .armed then .held else .idle } := by
  simp only [State.bindLane, State.updLane_lane_self, State.mapChannels_lane, State.domainsArmed_iff, State.updLane_domain,
    State.mapChannels_domain, ite_not]

theorem State.bindLane_lane_ne (s : State) (l : Fin 4) (set : ChannelSet) (limit : Nat) {k : Fin 4} (h : k ≠ l) :
    (s.bindLane l set limit).lane k = s.lane k := by
  simp [State.bindLane, h]

theorem State.bindLane_frame (s : State) (l : Fin 4) (set : ChannelSet) (limit : Nat) :
    s.bindLane l set limit =
      { s with channels := (s.bindLane l set limit).channels, lanes := (s.bindLane l set limit).lanes } := rfl

/-! ### The outcomes of BIND, in the order of its table -/

/-- The channel set that a BIND record names is empty exactly when its byte is 0. -/
theorem channelSet_eq_zero_iff {n : Nat} (h : n < 64) : (BitVec.ofNat 6 n : ChannelSet) = 0 ↔ n = 0 := by
  rw [← BitVec.toNat_inj, BitVec.toNat_ofNat, Nat.mod_eq_of_lt h]
  rfl

section
variable {s : State} {q : Fin 4} {r : List Byte}

theorem State.handleBind_noLane (h : 3 < byteAt r 4) : s.handleBind q r = s.refuse q r .badArgument none 0 := by
  simp only [State.handleBind, asFin_none h]

variable {l : Fin 4} (hl : byteAt r 4 = l.val)
include hl

theorem State.handleBind_badSet (h : 64 ≤ byteAt r 5) : s.handleBind q r = s.refuse q r .badArgument (some l) 0 := by
  simp only [State.handleBind, asFin_val l hl, if_pos h]

theorem State.handleBind_busy (h : byteAt r 5 < 64) (hb : (s.lane l).state ≠ .unbound) :
    s.handleBind q r = s.refuse q r .busy (some l) 0 := by
  simp only [State.handleBind, asFin_val l hl, if_neg (Nat.not_le.mpr h), if_pos hb]

theorem State.handleBind_emptySet (h : byteAt r 5 = 0) (hu : (s.lane l).state = .unbound) :
    s.handleBind q r = s.refuse q r .badArgument (some l) 0 := by
  simp [State.handleBind, asFin_val l hl, h, hu]

variable (h : byteAt r 5 < 64) (h0 : byteAt r 5 ≠ 0) (hu : (s.lane l).state = .unbound)
include h h0 hu

/-- The lowest-numbered named channel that has an owner is the detail of the CONFLICT. -/
theorem State.handleBind_conflict {c : Fin 6} (hc : (BitVec.ofNat 6 (byteAt r 5)).getLsbD c.val = true)
    (ho : (s.channel c).owner ≠ none)
    (hlow : ∀ k : Fin 6, k < c → (BitVec.ofNat 6 (byteAt r 5)).getLsbD k.val = true → (s.channel k).owner = none) :
    s.handleBind q r = s.refuse q r .conflict (some l) c.val := by
  have hfirst : lowestChannel (BitVec.ofNat 6 (byteAt r 5)) (fun c => (s.channel c).owner.isSome) = some c :=
    lowestChannel_some c hc (Option.isSome_iff_ne_none.mpr ho) fun k hk hm => by simp [hlow k hk hm]
  simp only [State.handleBind, asFin_val l hl, if_neg (Nat.not_le.mpr h), hu, ne_eq, not_true, if_false,
    channelSet_eq_zero_iff h, h0, hfirst]

theorem State.handleBind_accepted
    (hfree : ∀ c : Fin 6, (BitVec.ofNat 6 (byteAt r 5)).getLsbD c.val = true → (s.channel c).owner = none) :
    s.handleBind q r =
      (s.bindLane l (BitVec.ofNat 6 (byteAt r 5)) (field16 r 6)).refuse q r .done (some l) 0 := by
  have hnone : lowestChannel (BitVec.ofNat 6 (byteAt r 5)) (fun c => (s.channel c).owner.isSome) = none :=
    lowestChannel_none fun k hm => by simp [hfree k hm]
  simp only [State.handleBind, asFin_val l hl, if_neg (Nat.not_le.mpr h), hu, ne_eq, not_true, if_false,
    channelSet_eq_zero_iff h, h0, hnone]

end

/-! ### BIND by its table -/

theorem exec_bind {s : State} {q : Fin 4} {r : List Byte} (h : s.Holds 0x10 q r) : exec .bind s = .next (s.handleBind q r) :=
  State.act_withRecord h State.handleBind

/-- Settles O36: each clause of R17's table is the outcome that `State.handleBind` answers under the clause's conditions. -/
theorem bindFollowsItsTable : Obligations.BindFollowsItsTable := by
  intro s q r hHolds
  refine ⟨_, exec_bind hHolds, fun hl => refuse_answers (State.handleBind_noLane hl), fun l hl => ⟨?badSet, ?busy, ?emptySet,
    fun h h0 hu => ⟨?conflict, ?accepted⟩⟩⟩
  case badSet => exact fun h => refuse_answers (State.handleBind_badSet hl h)
  case busy => exact fun h hb => refuse_answers (State.handleBind_busy hl h hb)
  case emptySet => exact fun h hu => refuse_answers (State.handleBind_emptySet hl h hu)
  case conflict => exact fun c hc ho hlow => refuse_answers (State.handleBind_conflict hl h h0 hu hc ho hlow)
  case accepted =>
    intro hfree
    rw [State.handleBind_accepted hl h h0 hu hfree]
    have only := (s.bindLane l (BitVec.ofNat 6 (byteAt r 5)) (field16 r 6)).refuse_only q r .done (some l) 0
    refine ⟨(State.refuse_completes ..).after rfl rfl rfl, fun c => ?_, ?_, fun k hk => ?_,
      only.after_channels_lanes (State.bindLane_frame ..)⟩
    · rw [only.channel, State.bindLane_channel]
    · rw [only.lane, State.bindLane_lane_self]
    · rw [only.lane, State.bindLane_lane_ne _ _ _ _ hk]

end Sys2Proof.Machine
end

section
/-! PROOFS. LOAD_PATTERN at its consumption by its table (R52, R53): an equation for each outcome of `State.handleLoadPattern`,
what an accepted record leaves, and the statement O41 assembled from them. -/

namespace Sys2Proof.Machine

/-! ### The outcomes of LOAD_PATTERN, in the order of its table -/

/-- An image of 8 + 16 * 8 bytes leaves exchange memory exactly when its source address is above 0x3F78 (R52). -/
theorem imageLeavesMemory_iff {src : Nat} : Config.xmSize < src + 136 ↔ 0x3F78 < src := by
  unfold Config.xmSize
  omega

section
variable {s : State} {q : Fin 4} {r : List Byte}

theorem State.handleLoadPattern_noSlot (h : 15 < byteAt r 4) :
    s.handleLoadPattern q r = s.refuse q r .badArgument none 1 := by
  simp only [State.handleLoadPattern, asFin_none h]

variable {n : Fin 16} (hn : byteAt r 4 = n.val)
include hn

theorem State.handleLoadPattern_misaligned (h : field16 r 6 % 8 ≠ 0) :
    s.handleLoadPattern q r = s.refuse q r .badArgument none 2 := by
  simp only [State.handleLoadPattern, asFin_val n hn, if_pos h]

variable (ha : field16 r 6 % 8 = 0)
include ha

theorem State.handleLoadPattern_outOfRange (h : 0x3F78 < field16 r 6) :
    s.handleLoadPattern q r = s.refuse q r .badArgument none 3 := by
  simp only [State.handleLoadPattern, asFin_val n hn, if_neg (not_not.mpr ha), if_pos (imageLeavesMemory_iff.mpr h)]

variable (hr : field16 r 6 ≤ 0x3F78)
include hr

theorem State.handleLoadPattern_inUse (h : (s.slot n).useCount ≠ 0) :
    s.handleLoadPattern q r = s.refuse q r .inUse none (s.slot n).useCount := by
  simp only [State.handleLoadPattern, asFin_val n hn, if_neg (not_not.mpr ha),
    if_neg (imageLeavesMemory_iff.not.mpr (Nat.not_lt.mpr hr)), if_pos h]

theorem State.handleLoadPattern_accepted (h : (s.slot n).useCount = 0) :
    s.handleLoadPattern q r = { s.consume q with fetch := .loading n (field16 r 6) (identity s q r) [] } := by
  simp only [State.handleLoadPattern, asFin_val n hn, if_neg (not_not.mpr ha),
    if_neg (imageLeavesMemory_iff.not.mpr (Nat.not_lt.mpr hr)), if_neg (not_not.mpr h), State.originOf_eq]

end

/-! ### LOAD_PATTERN by its table -/

/-- A record that is consumed while the fetch engine goes on: the SQs and the fetch engine alone differ (R53, R105). -/
theorem State.consume_fetching {s t : State} {q : Fin 4} {f : FetchState} (e : t = { s.consume q with fetch := f }) :
    Consumed s t q ∧ t = { s with sqs := t.sqs, fetch := f } :=
  e ▸ ⟨(s.consume_consumed q).of_sqs rfl, rfl⟩

theorem exec_loadPattern {s : State} {q : Fin 4} {r : List Byte} (h : s.Holds 0x15 q r) :
    exec .loadPattern s = .next (s.handleLoadPattern q r) :=
  State.act_withRecord h State.handleLoadPattern

/-- Settles O41: each clause of R52's table is the outcome that `State.handleLoadPattern` answers under its conditions. -/
theorem loadPatternFollowsItsTable : Obligations.LoadPatternFollowsItsTable := by
  intro s q r hHolds
  refine ⟨_, exec_loadPattern hHolds, fun h => refuse_answers (State.handleLoadPattern_noSlot h),
    fun n hn => ⟨?misaligned, ?outOfRange, ?inUse, ?accepted⟩⟩
  case misaligned => exact fun h => refuse_answers (State.handleLoadPattern_misaligned hn h)
  case outOfRange => exact fun ha h => refuse_answers (State.handleLoadPattern_outOfRange hn ha h)
  case inUse => exact fun ha hr h => refuse_answers (State.handleLoadPattern_inUse hn ha hr h)
  case accepted => exact fun ha hr h => State.consume_fetching (State.handleLoadPattern_accepted hn ha hr h)

end Sys2Proof.Machine
end

section
/-! PROOFS. What a step can do, said once: `Move s t` names the changes that the operations of the part are made of, and
`exec_moves` shows that every command answers a state that such moves reach. The laws that every step keeps (O51 to O58) are then
proved of each move, and not of each command. -/

namespace Sys2Proof.Machine

-- One declaration after another: so the whole text compiles within the memory of the check.
set_option Elab.async false

/-! ### Changes that no law speaks of -/

/-- The fields that the laws of a state speak of, and the queue of commands, are the same. -/
structure Minor (s t : State) : Prop where
  pending : t.pending = s.pending
  channels : t.channels = s.channels
  lanes : t.lanes = s.lanes
  slots : t.slots = s.slots
  gates : t.gates = s.gates
  domains : t.domains = s.domains
  permit : t.permit = s.permit
  sqs : t.sqs = s.sqs
  cqs : t.cqs = s.cqs
  pendingList : t.pendingList = s.pendingList
  xm : t.xm = s.xm

theorem Minor.refl (s : State) : Minor s s := ⟨rfl, rfl, rfl, rfl, rfl, rfl, rfl, rfl, rfl, rfl, rfl⟩

theorem Minor.trans {s t u : State} (h : Minor s t) (k : Minor t u) : Minor s u :=
  ⟨k.1.trans h.1, k.2.trans h.2, k.3.trans h.3, k.4.trans h.4, k.5.trans h.5, k.6.trans h.6, k.7.trans h.7, k.8.trans h.8,
    k.9.trans h.9, k.10.trans h.10, k.11.trans h.11⟩

/-- The later of two changes named first, so that it tells what stands between them. -/
theorem Minor.after {s t u : State} (k : Minor t u) (h : Minor s t) : Minor s u := h.trans k

theorem Minor.ite {s t u : State} {p : Prop} [Decidable p] (h : p → Minor s t) (k : ¬p → Minor s u) :
    Minor s (if p then t else u) := by
  split
  · exact h ‹_›
  · exact k ‹_›

/-! ### The positions of one ring -/

/-- The positions of an SQ that has a size lie inside it (R93). -/
def Sq.PosOk (q : Sq) : Prop := q.size ≠ 0 → q.head < q.size ∧ q.tail < q.size

/-- The positions of a CQ that has a size lie inside it (R119). -/
def Cq.PosOk (q : Cq) : Prop := q.size ≠ 0 → q.tail < q.size ∧ q.hostHead < q.size

theorem State.ringsOk_iff {s : State} : s.RingsOk ↔ (∀ q, (s.sq q).PosOk) ∧ ∀ q, (s.cq q).PosOk := Iff.rfl

/-! ### The moves -/

/-- A running segment has ended, up to the fault of its lane and the start test (R35): end action, slot, completion, state. -/
def State.ended (s : State) (l : Fin 4) (r : Running) (st : Status) : State :=
  let u := if r.seg.endAction = .coast then s.laneOff l else s
  ((u.releaseSlot r.seg).addOutbox l [s.ranCompletion l r st (endDetail r.seg st)]).updLane l fun ln =>
    { ln with
      state := r.seg.endAction.nextState
      holdTimer := if r.seg.endAction = .hold then holdStart ln.holdLimit else none }

theorem State.endSegment_eq (s : State) (l : Fin 4) (r : Running) (st : Status) :
    s.endSegment l r st = (if st = .timedOut then (s.ended l r st).laneFault l else s.ended l r st).startTest l := rfl

/-- The changes that the operations of the part are made of, with what the part has checked before it makes each. -/
inductive Move : State → State → Prop
  | minor {s t} (h : Minor s t) : Move s t
  | start (s : State) (l : Fin 4) : Move s (s.startTest l)
  | ended (s : State) (l : Fin 4) (r : Running) (st : Status) (h : (s.lane l).state = .running r) : Move s (s.ended l r st)
  | phase (s : State) (l : Fin 4) (r n : Running) (p : Phase) (period : Nat) (h : (s.lane l).state = .running r)
      (hn : n.seg = r.seg) : Move s ((s.updLane l fun ln => { ln with state := .running n }).applyPhase l p period)
  | holdOver (s : State) (l : Fin 4) (h : (s.lane l).state = .holding) : Move s ((s.laneOff l).updLane l fun ln =>
      { ln with state := .idle, holdTimer := none, expiryCount := satSucc 255 ln.expiryCount })
  | gatedHoldOver (s : State) (l : Fin 4) : Move s ((s.laneOff l).updLane l fun ln =>
      { ln with resume := .idle, holdTimer := none, expiryCount := satSucc 255 ln.expiryCount })
  | gateTimeout (s : State) (g : Fin 4) : Move s (s.gateTimeout g)
  | halted (s : State) (l : Fin 4) (o : Origin) (offset n : Nat) (hb : (s.lane l).state ≠ .unbound)
      (hr : (s.lane l).readyFor .halt = true) (hk : o.kind = kindHalt) :
      Move s ((s.flushLane l .aborted offset).addOutbox l [neverStarted o .done (some l) n])
  | permitLoss (s : State) (p : PermitMonitor) (h : s.permitOn = true) (hp : ({ s with permit := p } : State).permitOn = false) :
      Move s (allLanes.foldl (fun s l => s.disableLane l) ({ s with permit := p }.setOff 0x3F))
  | permitKept (s : State) (p : PermitMonitor) (h : s.permitOn = true → ({ s with permit := p } : State).permitOn = true) :
      Move s { s with permit := p }
  | queued (s : State) (l : Fin 4) (g : Segment) (hb : (s.lane l).state ≠ .unbound) (hr : (s.lane l).readyFor .segment = true)
      (hk : g.origin.kind ≠ kindHalt) : Move s ((s.holdSlot g).updLane l fun ln => { ln with queue := ln.queue ++ [g] })
  | disabledAtOnce (s : State) (l : Fin 4) (c : Completion) (hr : (s.lane l).readyFor .segment = true)
      (hk : c.origin.kind ≠ kindHalt) : Move s (s.addOutbox l [c])
  | trip (s : State) (d : Fin 3) (c : Fin 6) (offset : Nat) :
      Move s (((s.updDomain d Domain.trip).setOff (s.domain d).members offset).tripLanes d c offset)
  | released (s : State) (l : Fin 4) (h : (s.lane l).state = .held) : Move s (s.updLane l fun ln => { ln with state := .idle })
  | domainsSet (s : State) (r : List Byte) (hd : ∀ c : Fin 6, byteAt r (4 + c.val) ≤ 2) (ho : ∀ c, (s.channel c).code = .off) :
      Move s (s.mapDomains fun d _ =>
        { members := domainMembers r d, state := .armed, tripCount := 0, tripLimit := domainLimit r d })
  | domainRearmed (s : State) (d : Fin 3) : Move s (s.updDomain d fun x => { x with state := .armed })
  | bound (s : State) (l : Fin 4) (set : ChannelSet) (limit : Nat) (hu : (s.lane l).state = .unbound)
      (ho : ∀ c : Fin 6, set.getLsbD c.val = true → (s.channel c).owner = none) : Move s (s.bindLane l set limit)
  | unbound (s : State) (l : Fin 4) (offset : Nat) (hw : (s.lane l).hasWork = false) : Move s (s.unbindLane l offset)
  | outboxTaken (s : State) (l : Fin 4) (c : Completion) (rest : List Completion) (ho : (s.lane l).outbox = c :: rest)
      (hr : s.listHasRoom = true) :
      Move s (({ s with lanePointer := l }.addPending c).updLane l fun ln => { ln with outbox := rest })
  | limits (s : State) (r : List Byte) (set : ChannelSet) (offset : Nat) : Move s (s.setLimits r set offset)
  | gateSet (s : State) (g : Fin 4) (set : LaneSet) (timeout : Nat) :
      Move s (s.updGate g fun x => { x with members := set, timeout := timeout })
  | slotLoaded (s : State) (n : Fin 16) (ps : List Phase) : Move s (s.updSlot n fun x => { x with valid := true, phases := ps })
  | notice (s : State) (l : Fin 4) : Move s (s.readinessNotice l)
  | advance (s : State) : Move s s.advance
  | observe (s : State) (p : PinSample) : Move s (s.observe p)
  | sq (s : State) (q : Fin 4) (f : Sq → Sq) (h : (s.sq q).PosOk → (f (s.sq q)).PosOk) : Move s (s.updSq q f)
  | cq (s : State) (q : Fin 2) (f : Cq → Cq) (h : (s.cq q).PosOk → (f (s.cq q)).PosOk) : Move s (s.updCq q f)
  | configured (s : State) (b : List Byte) : Move s ((s.mapSqs fun n _ => sqFromConfig b n).mapCqs fun n _ => cqFromConfig b n)
  | listed (s : State) (c : Completion) (h : s.listHasRoom = true) : Move s (s.addPending c)
  | posted (s : State) (f : Completion → Bool) : Move s { s with pendingList := s.pendingList.eraseP f }
  | write (s : State) (a : Nat) (bs : List Byte) : Move s { s with xm := Memory.writeBytes s.xm a bs }
  | reset {s t} (hp : t.pending = s.pending) (hc : t.channels = State.reset.channels) (hl : t.lanes = State.reset.lanes)
      (hs : t.slots = State.reset.slots) (hg : t.gates = State.reset.gates) (hd : t.domains = State.reset.domains)
      (hq : t.sqs = State.reset.sqs) (hcq : t.cqs = State.reset.cqs) (hpl : t.pendingList = [])
      (hx : t.xm = s.xm ∨ t.xm = []) : Move s t

/-- Some moves, one after another. -/
def Moves (s t : State) : Prop := Relation.ReflTransGen Move s t

theorem Moves.refl {s : State} : Moves s s := Relation.ReflTransGen.refl

theorem Moves.trans {s t u : State} (h : Moves s t) (k : Moves t u) : Moves s u := Relation.ReflTransGen.trans h k

theorem Move.moves {s t : State} (h : Move s t) : Moves s t := Relation.ReflTransGen.single h

theorem Minor.moves {s t : State} (h : Minor s t) : Moves s t := (Move.minor h).moves

/-- The later change named first, so that it tells what stands between them. -/
theorem Moves.after {s t u : State} (k : Moves t u) (h : Minor s t) : Moves s u := h.moves.trans k

theorem Moves.ite {s t u : State} {p : Prop} [Decidable p] (h : p → Moves s t) (k : ¬p → Moves s u) :
    Moves s (if p then t else u) := by
  split
  · exact h ‹_›
  · exact k ‹_›

theorem Moves.foldl {α : Type} {f : State → α → State} (hf : ∀ s a, Moves s (f s a)) :
    ∀ (as : List α) (s : State), Moves s (as.foldl f s)
  | [], _ => .refl
  | a :: as, s => (hf s a).trans (Moves.foldl hf as (f s a))

/-! ### The capture writer -/

theorem Minor.recordEvent (s : State) (e : Fin 12) (d : EventDetail) : Minor s (s.recordEvent e d) :=
  ⟨rfl, rfl, rfl, rfl, rfl, rfl, rfl, rfl, rfl, rfl, rfl⟩

theorem Minor.updStream (s : State) (n : Fin 2) (f : CaptureStream → CaptureStream) : Minor s (s.updStream n f) :=
  ⟨rfl, rfl, rfl, rfl, rfl, rfl, rfl, rfl, rfl, rfl, rfl⟩

theorem Minor.updSenseInput (s : State) (i : Fin 4) (f : SenseInput → SenseInput) : Minor s (s.updSenseInput i f) :=
  ⟨rfl, rfl, rfl, rfl, rfl, rfl, rfl, rfl, rfl, rfl, rfl⟩

theorem Minor.freezeStream (s : State) (n : Fin 2) : Minor s (s.freezeStream n) :=
  (Minor.updStream s n _).trans (.recordEvent _ _ _)

theorem Minor.freezeIf (s : State) (n : Fin 2) (c : FreezeCondition) : Minor s (s.freezeIf n c) :=
  .ite (fun _ => .freezeStream s n) fun _ => .refl s

theorem Minor.tripFreeze (s : State) : Minor s s.tripFreeze := (Minor.freezeIf s 0 _).trans (.freezeIf _ 1 _)

theorem Minor.laneFault (s : State) (l : Fin 4) : Minor s (s.laneFault l) := (Minor.freezeIf s 0 _).trans (.freezeIf _ 1 _)

theorem Minor.triggerStream (s : State) (n : Fin 2) (l : Fin 4) : Minor s (s.triggerStream n l) :=
  .ite (fun _ => .updStream s n _) fun _ => .refl s

theorem Minor.laneEntered (s : State) (l : Fin 4) : Minor s (s.laneEntered l) :=
  (Minor.triggerStream s 0 l).trans (.triggerStream _ 1 l)

/-- A record is written in one access: exchange memory, and then what the laws do not speak of. -/
theorem Moves.writeCapture (s : State) (n : Fin 2) (record : List Byte) : Moves s (s.writeCapture n record) := by
  refine (Move.write s (s.stream n).writePos record).moves.trans (Minor.moves ?_)
  unfold State.writeCapture
  dsimp only
  split
  · split <;> exact ⟨rfl, rfl, rfl, rfl, rfl, rfl, rfl, rfl, rfl, rfl, rfl⟩
  · exact ⟨rfl, rfl, rfl, rfl, rfl, rfl, rfl, rfl, rfl, rfl, rfl⟩

theorem Moves.captureInstant (s : State) (n : Fin 2) : Moves s (s.captureInstant n) := by
  refine .ite (fun _ => .trans ?_ (Minor.updStream _ n _).moves) fun _ => .refl
  unfold State.captureRecord
  dsimp only
  refine .ite (fun _ => .writeCapture s n _) fun _ => .ite (fun _ => .ite (fun _ => ?_) fun _ => .writeCapture s n _) fun _ =>
    .ite (fun _ => (Minor.updStream s n _).moves) fun _ => ?_
  · exact (Moves.writeCapture s n _).trans (Minor.updStream _ n _).moves
  · exact ((Minor.updStream s n _).trans (.recordEvent _ _ _)).moves

/-! ### Lanes, domains and the permit -/

theorem Moves.endSegment (s : State) (l : Fin 4) (r : Running) (st : Status) (h : (s.lane l).state = .running r) :
    Moves s (s.endSegment l r st) := by
  rw [State.endSegment_eq]
  refine .trans (Move.ended s l r st h).moves (.trans ?_ (Move.start _ l).moves)
  exact .ite (fun _ => (Minor.laneFault _ l).moves) fun _ => .refl

theorem Moves.endIfDue (s : State) (l : Fin 4) : Moves s (s.endIfDue l) := by
  unfold State.endIfDue
  split
  · split
    · exact .endSegment s l _ _ ‹_›
    · exact .refl
  · exact .refl

theorem Moves.phaseEnd (s : State) (l : Fin 4) : Moves s (s.phaseEnd l) := by
  unfold State.phaseEnd
  split
  · next r hr =>
    refine .ite (fun _ => ?_) fun _ => .refl
    split
    · exact .endSegment s l _ _ hr
    · exact (Move.phase s l r (s.nextPhase r) _ _ hr rfl).moves
  · exact .refl

theorem Moves.segmentTimeout (s : State) (l : Fin 4) : Moves s (s.segmentTimeout l) := by
  unfold State.segmentTimeout
  split
  · exact .ite (fun _ => .endIfDue s l) fun _ => .refl
  · exact .refl

theorem Moves.currentStop (s : State) (l : Fin 4) : Moves s (s.currentStop l) := by
  unfold State.currentStop
  split
  · exact .ite (fun _ => .endIfDue s l) fun _ => .refl
  · exact .refl

theorem Moves.inputStop (s : State) (i l : Fin 4) : Moves s (s.inputStop i l) := by
  unfold State.inputStop
  split
  · exact .ite (fun _ => .endIfDue s l) fun _ => .refl
  · exact .refl

theorem Moves.holdExpiry (s : State) (l : Fin 4) : Moves s (s.holdExpiry l) := by
  unfold State.holdExpiry
  refine .ite (fun _ => ?_) fun _ => .refl
  split
  · exact (Move.holdOver s l ‹_›).moves.trans (Move.start _ l).moves
  · exact (Move.gatedHoldOver s l).moves
  · exact .refl

theorem Moves.tripDomain (s : State) (d : Fin 3) (c : Fin 6) (cause : TripCause) (offset : Nat) :
    Moves s (s.tripDomain d c cause offset) := by
  have h : ((s.updDomain d Domain.trip).domain d).members = (s.domain d).members := by simp [Domain.trip]
  unfold State.tripDomain
  dsimp only
  rw [h]
  exact (Move.trip s d c offset).moves.trans ((Minor.recordEvent _ _ _).trans (.tripFreeze _)).moves

theorem Moves.channelTrip (s : State) (c : Fin 6) (cause : TripCause) (offset : Nat := 0) :
    Moves s (s.channelTrip c cause offset) := by
  unfold State.channelTrip
  split
  · exact .refl
  · exact .ite (fun _ => .tripDomain s _ c cause offset) fun _ => .refl

theorem Moves.overcurrentTrip (s : State) (c : Fin 6) : Moves s (s.overcurrentTrip c) :=
  .ite (fun _ => .after (.channelTrip _ c _) ⟨rfl, rfl, rfl, rfl, rfl, rfl, rfl, rfl, rfl, rfl, rfl⟩) fun _ => .refl

theorem Moves.rearmLanes (s : State) : Moves s s.rearmLanes :=
  .foldl (fun s l => .ite (fun h => (Move.released s l h.1).moves.trans (Move.start _ l).moves) fun _ => .refl) allLanes s

theorem Moves.setPermit (s : State) (p : PermitMonitor) : Moves s (s.setPermit p) := by
  unfold State.setPermit
  dsimp only
  by_cases hs : s.permitOn = true <;> by_cases ht : ({ s with permit := p } : State).permitOn = true
  · simp only [hs, ht, Bool.not_true, Bool.and_false, Bool.false_and, Bool.false_eq_true, if_false]
    exact (Move.permitKept s p fun _ => ht).moves
  · simp only [hs, ht, Bool.not_false, Bool.and_self, if_true]
    exact (Move.permitLoss s p hs (by simpa using ht)).moves.trans (Minor.recordEvent _ _ _).moves
  · simp only [hs, ht, Bool.not_true, Bool.not_false, Bool.and_self, if_true, Bool.false_eq_true, if_false]
    refine (Move.permitKept s p fun _ => ht).moves.trans (.after ?_ (Minor.recordEvent _ drivePermitSource ⟨0, 0, 0⟩))
    exact .foldl (fun s l => .ite (fun _ => (Move.start s l).moves) fun _ => .refl) allLanes _
  · simp only [hs, ht, Bool.not_false, Bool.and_true, Bool.and_false, Bool.false_eq_true, if_false]
    exact (Move.permitKept s p fun h => absurd h hs).moves

theorem Moves.enableChange (s : State) : Moves s s.enableChange := .ite (fun _ => .setPermit s _) fun _ => .refl

theorem Moves.supplyChange (s : State) : Moves s s.supplyChange := .ite (fun _ => .setPermit s _) fun _ => .refl

theorem Moves.senseChange (s : State) (i : Fin 4) : Moves s (s.senseChange i) :=
  .ite (fun _ => (Moves.foldl (f := fun s l => s.inputStop i l) (fun s l => .inputStop s i l) allLanes s).trans
    (Minor.updSenseInput _ i _).moves) fun _ => .refl

/-! ### Time -/

theorem Moves.setCause (s : State) (b : BitVec 3) : Moves s (s.setCause b) :=
  Minor.moves ⟨rfl, rfl, rfl, rfl, rfl, rfl, rfl, rfl, rfl, rfl, rfl⟩

theorem Moves.delayExpiry (s : State) (q : Fin 2) : Moves s (s.delayExpiry q) :=
  .ite (fun _ => (Move.cq s q _ id).moves.trans (.ite (fun _ => .setCause _ _) fun _ => .refl)) fun _ => .refl

theorem Moves.takeDue (s : State) (e : DueEvent) : Moves s (s.takeDue e) := by
  cases e with
  | currentStop l => exact .currentStop s l
  | overcurrentTrip c => exact .overcurrentTrip s c
  | enableChange => exact .enableChange s
  | supplyChange => exact .supplyChange s
  | senseChange i => exact .senseChange s i
  | segmentTimeout l => exact .segmentTimeout s l
  | phaseEnd l => exact .phaseEnd s l
  | holdExpiry l => exact .holdExpiry s l
  | gateTimeout g => exact (Move.gateTimeout s g).moves
  | captureInstant n => exact .captureInstant s n
  | delayExpiry q => exact .delayExpiry s q

theorem Moves.takeAll (s : State) (es : List DueEvent) : Moves s (s.takeAll es) := .foldl Moves.takeDue es s

theorem Minor.tripsDue (s : State) (cs : List (Fin 6)) : Minor s { s with tripsDue := cs } :=
  ⟨rfl, rfl, rfl, rfl, rfl, rfl, rfl, rfl, rfl, rfl, rfl⟩

theorem Moves.tickStep (s : State) (p : PinSample) (o : TickOrder) : Moves s (s.tickStep p o) := by
  have hadvance : Moves s (s.takeAll dueOrder).advance := (Moves.takeAll s dueOrder).trans (Move.advance _).moves
  have hobserve := hadvance.trans (Move.observe _ p).moves
  have hdue := hobserve.trans (Minor.tripsDue _ ((s.takeAll dueOrder).tripping (samplesOf p))).moves
  exact (hdue.trans (.takeAll _ o.first)).trans (.takeAll _ (samplesTaken o))

/-! ### Accesses and the link -/

theorem Moves.fetchTurn (s : State) : Moves s s.fetchTurn := by
  unfold State.fetchTurn
  split
  · exact .ite (fun _ => Minor.moves ⟨rfl, rfl, rfl, rfl, rfl, rfl, rfl, rfl, rfl, rfl, rfl⟩) fun _ => .refl
  · split
    · exact .ite (fun _ => Minor.moves ⟨rfl, rfl, rfl, rfl, rfl, rfl, rfl, rfl, rfl, rfl, rfl⟩) fun _ => .refl
    · exact .ite (fun _ => Minor.moves ⟨rfl, rfl, rfl, rfl, rfl, rfl, rfl, rfl, rfl, rfl, rfl⟩) fun _ => .refl
    · exact .ite (fun _ => (Move.write s _ _).moves.trans (Minor.moves ⟨rfl, rfl, rfl, rfl, rfl, rfl, rfl, rfl, rfl, rfl, rfl⟩))
        fun _ => .refl
    · exact .refl

theorem Moves.iterateTurns (waiting : List XmAgent) : ∀ (n : Nat) (s : State), Moves s (s.iterateTurns waiting n)
  | 0, _ => .refl
  | n + 1, s => .ite (fun _ => (Moves.fetchTurn s).trans (Moves.iterateTurns waiting n _)) fun _ => .refl

theorem Moves.fetchTurns (s : State) (n : Nat) : Moves s (s.fetchTurns n) := .iterateTurns _ _ s

theorem Moves.withAccess (s : State) (a : XmAgent) (x : Access) (f : State → State) (hf : ∀ u, Moves u (f u)) :
    Moves s (s.withAccess a x f) := .ite (fun _ => (Moves.fetchTurns s _).trans (hf _)) fun _ => .refl

theorem Minor.settleFrom (s : State) (access : Option (List XmAgent)) (es : List LinkEntry) : Minor s (s.settleFrom access es) := by
  rw [State.settleFrom_frame]
  exact ⟨rfl, rfl, rfl, rfl, rfl, rfl, rfl, rfl, rfl, rfl, rfl⟩

theorem Moves.discardFrame (s : State) (n : Nat) (extra : Fin 8) : Moves s (s.discardFrame n extra) := by
  have h := Minor.settleFrom { s with miso := List.replicate n 0, misoBits := List.replicate extra.val false } none
    (s.linkQueue ++ [.discard])
  exact Minor.moves (s := s) (.after h ⟨rfl, rfl, rfl, rfl, rfl, rfl, rfl, rfl, rfl, rfl, rfl⟩)

theorem Moves.takeFrame (s : State) (ends : Bool) (f : State → State) (hf : ∀ u, Moves u (f u)) : Moves s (s.takeFrame ends f) :=
  .ite (fun _ => Minor.moves ⟨rfl, rfl, rfl, rfl, rfl, rfl, rfl, rfl, rfl, rfl, rfl⟩) fun _ => hf s

theorem Moves.serveReads (s : State) (x : Access) : Moves s (s.serveReads x) :=
  (Moves.fetchTurns s _).trans (Minor.settleFrom _ _ _).moves

theorem Moves.readOn (s : State) (o : OpenRead) (ends : Bool) (x : Access) : Moves s (s.readOn o ends x) := by
  unfold State.readOn
  refine .trans (Minor.moves ?_) (.serveReads _ x)
  exact .ite (fun _ => ⟨rfl, rfl, rfl, rfl, rfl, rfl, rfl, rfl, rfl, rfl, rfl⟩)
    fun _ => ⟨rfl, rfl, rfl, rfl, rfl, rfl, rfl, rfl, rfl, rfl, rfl⟩

theorem Moves.readFrame (s : State) (body : List Byte) (extra : Fin 8) (ends : Bool) (x : Access) :
    Moves s (s.readFrame body extra ends x) := by
  refine .takeFrame s ends _ fun u => ?_
  unfold State.takeRead
  dsimp only
  split
  · refine .ite (fun _ => .ite (fun _ => .discardFrame u _ _) fun _ => .ite (fun _ => .serveReads u x) fun _ => .refl)
      fun _ => .readOn u _ _ _
  · exact .readOn u _ _ _

theorem Moves.wholeFrame (s : State) (f : State → State) (hf : ∀ u, Moves u (f u)) : Moves s (s.wholeFrame f) :=
  .takeFrame s true _ fun u => .ite (fun _ => hf u) fun _ => .refl

theorem Moves.writeFrame (s : State) (body : List Byte) (extra : Fin 8) : Moves s (s.writeFrame body extra) := by
  refine .wholeFrame s _ fun u => ?_
  unfold State.takeWrite
  refine .ite (fun _ => .discardFrame u _ _) fun _ => ?_
  split
  · exact .discardFrame u _ _
  · exact Minor.moves ⟨rfl, rfl, rfl, rfl, rfl, rfl, rfl, rfl, rfl, rfl, rfl⟩

theorem Moves.unknownFrame (s : State) (code : Byte) (body : List Byte) (extra : Fin 8) :
    Moves s (s.unknownFrame code body extra) :=
  .ite (fun _ => .readFrame s _ _ _ _) fun _ => .ite (fun _ => .writeFrame s _ _) fun _ =>
    .wholeFrame s _ fun u => .discardFrame u _ _

theorem Moves.takeChunk (s : State) (x : Access) : Moves s (s.takeChunk x) := by
  unfold State.takeChunk
  split
  · refine .withAccess s _ x _ fun u => ?_
    unfold State.writeChunk
    split
    · next a data _ _ => exact (Move.write u a data).moves.trans (Minor.moves (.after (.settleFrom _ none _) ⟨rfl, rfl, rfl, rfl, rfl, rfl, rfl, rfl, rfl, rfl, rfl⟩))
    · exact .refl
  · exact .refl

/-! ### Registers -/

theorem Moves.takeRegister (s : State) (r : WritableRegister) (takes : BitVec 32 → Bool) (f : State → BitVec 32 → State)
    (hf : ∀ v, Moves s (f s v)) : Moves s (s.takeRegister r takes f) := by
  unfold State.takeRegister
  split
  · exact .ite (fun _ => (hf _).trans (Minor.settleFrom _ _ _).moves) fun _ => .refl
  · exact .refl

theorem Minor.settleStop (s : State) : Minor s s.settleStop :=
  .ite (fun _ => ⟨rfl, rfl, rfl, rfl, rfl, rfl, rfl, rfl, rfl, rfl, rfl⟩) fun _ => .refl s

theorem Minor.run (s : State) (b : Bool) : Minor s (s.run b) := by
  unfold State.run
  split
  case h_4 => exact Minor.after (.settleStop _) ⟨rfl, rfl, rfl, rfl, rfl, rfl, rfl, rfl, rfl, rfl, rfl⟩
  all_goals exact ⟨rfl, rfl, rfl, rfl, rfl, rfl, rfl, rfl, rfl, rfl, rfl⟩

theorem Minor.controlWrite (s : State) (v : BitVec 32) : Minor s (s.controlWrite v) := by
  unfold State.controlWrite
  refine Minor.after (.run _ _) ?_
  split <;> exact ⟨rfl, rfl, rfl, rfl, rfl, rfl, rfl, rfl, rfl, rfl, rfl⟩

theorem Minor.abandonRead (s : State) (q : Fin 4) : Minor s (s.abandonRead q) := by
  unfold State.abandonRead
  split
  · exact .ite (fun _ => ⟨rfl, rfl, rfl, rfl, rfl, rfl, rfl, rfl, rfl, rfl, rfl⟩) fun _ => .refl s
  · exact .refl s

/-- A POST TAIL that is not refused names a position of its ring (R95). -/
theorem State.postTail_lt {s : State} {v : BitVec 32} {q : Fin 4} (h : ¬s.postRefused v = true) (hq : asFin 4 (postQueue v) = some q)
    (ha : postAction v = 0) : postValue v < (s.sq q).size := by
  by_contra hlt
  apply h
  simp [State.postRefused, hq, ha, Nat.not_lt.mp hlt]

theorem Moves.post (s : State) (v : BitVec 32) : Moves s (s.post v) := by
  unfold State.post
  refine .ite (fun _ => Minor.moves ⟨rfl, rfl, rfl, rfl, rfl, rfl, rfl, rfl, rfl, rfl, rfl⟩) fun hr => ?_
  split
  · next q hq ha =>
    have hlt := State.postTail_lt hr hq ha
    exact (Move.sq s q _ fun h k => ⟨(h k).1, hlt⟩).moves.trans (.ite (fun _ => (Minor.abandonRead _ q).moves) fun _ => .refl)
  · exact (Move.sq s _ _ id).moves
  · exact (Move.sq s _ _ fun _ k => ⟨Nat.pos_of_ne_zero k, Nat.pos_of_ne_zero k⟩).moves.trans (Minor.abandonRead _ _).moves
  · exact .refl

theorem Moves.releaseCq (s : State) (q : Fin 2) (p : Nat) : Moves s (s.releaseCq q p) := by
  refine .ite (fun _ => Minor.moves ⟨rfl, rfl, rfl, rfl, rfl, rfl, rfl, rfl, rfl, rfl, rfl⟩) fun h => ?_
  have hp : p < (s.cq q).size := by
    simp only [Cq.releaseBad, Bool.or_eq_true, decide_eq_true_eq, not_or, not_le] at h
    exact h.1.2
  exact (Move.cq s q _ fun k hs => ⟨(k hs).1, hp⟩).moves

theorem Moves.releaseCapture (s : State) (n : Fin 2) (p : Nat) : Moves s (s.releaseCapture n p) :=
  .ite (fun _ => Minor.moves ⟨rfl, rfl, rfl, rfl, rfl, rfl, rfl, rfl, rfl, rfl, rfl⟩) fun _ => (Minor.updStream s n _).moves

theorem Moves.release (s : State) (v : BitVec 32) : Moves s (s.release v) := by
  unfold State.release
  split
  · exact .releaseCq s _ _
  · exact .releaseCq s _ _
  · exact .releaseCapture s _ _
  · exact .releaseCapture s _ _
  · exact Minor.moves ⟨rfl, rfl, rfl, rfl, rfl, rfl, rfl, rfl, rfl, rfl, rfl⟩

/-! ### Resets -/

theorem Moves.held (s : State) (h : ResetHold) : Moves s (s.held h) :=
  Move.moves (.reset rfl rfl rfl rfl rfl rfl rfl rfl rfl (.inl rfl))

theorem Moves.softly (s : State) : Moves s s.softly :=
  Move.moves (.reset rfl rfl rfl rfl rfl rfl rfl rfl rfl (.inl rfl))

theorem Moves.softReset (s : State) (p : PinSample) : Moves s (s.softReset p) :=
  ((Moves.takeAll s filterEvents).trans (Moves.softly _)).trans (Move.observe _ p).moves

theorem Moves.leave (s : State) (p : PinSample) (csnLow : Bool) : Moves s (s.leave p csnLow) := by
  unfold State.leave State.firstSamples
  have hobserve := fun u => (Move.observe u p).moves
  refine Moves.trans (Move.moves ?_) (hobserve _)
  rw [if_pos rfl]
  refine .reset rfl rfl rfl rfl rfl rfl rfl rfl rfl ?_
  show (if s.hold.por then [] else s.xm) = s.xm ∨ (if s.hold.por then [] else s.xm) = []
  split <;> simp

theorem Moves.endReset (s : State) (h : ResetHold) (p : PinSample) (csnLow : Bool) : Moves s (s.endReset h p csnLow) :=
  have hh : Moves s { s with hold := h } := Minor.moves ⟨rfl, rfl, rfl, rfl, rfl, rfl, rfl, rfl, rfl, rfl, rfl⟩
  .ite (fun _ => hh) fun _ => hh.trans (.leave _ p csnLow)

/-! ### The fetch engine -/

theorem Moves.consume (s : State) (q : Fin 4) : Moves s (s.consume q) :=
  (Move.sq s q _ fun h k => ⟨Nat.mod_lt _ (Nat.pos_of_ne_zero k), (h k).2⟩).moves

theorem Minor.fetchIdle (s : State) : Minor s s.fetchIdle :=
  Minor.after (.settleStop _) ⟨rfl, rfl, rfl, rfl, rfl, rfl, rfl, rfl, rfl, rfl, rfl⟩

theorem Moves.offer (s : State) (c : Completion) : Moves s (s.offer c) :=
  .ite (fun h => (Move.listed s c h).moves.trans (Minor.fetchIdle _).moves)
    fun _ => Minor.moves ⟨rfl, rfl, rfl, rfl, rfl, rfl, rfl, rfl, rfl, rfl, rfl⟩

theorem Moves.refuse (s : State) (q : Fin 4) (r : List Byte) (st : Status) (lane : Option (Fin 4)) (detail : Nat) :
    Moves s (s.refuse q r st lane detail) := (Moves.consume s q).trans (.offer _ _)

theorem Moves.block (s : State) (q l : Fin 4) (k : LaneKind) : Moves s (s.block q l k) :=
  (Move.sq s q _ id).moves.trans (Minor.fetchIdle _).moves

theorem Moves.faultSq (s : State) (q : Fin 4) (d : EventDetail) : Moves s (s.faultSq q d) :=
  (Move.sq s q _ id).moves.trans ((Minor.recordEvent _ _ _).trans (.fetchIdle _)).moves

theorem Moves.checkRecord (s : State) (q : Fin 4) (r : List Byte) : Moves s (s.checkRecord q r) :=
  .ite (fun _ => .faultSq s q _) fun _ => .ite (fun _ => .faultSq s q _) fun _ =>
    .ite (fun _ => Minor.moves ⟨rfl, rfl, rfl, rfl, rfl, rfl, rfl, rfl, rfl, rfl, rfl⟩) fun _ =>
      .ite (fun _ => .refuse s q r _ _ _) fun _ => .refuse s q r _ _ _

theorem Moves.finishRead (s : State) (waiting : List XmAgent) : Moves s (s.finishRead waiting) := by
  unfold State.finishRead
  split
  · refine .trans (.iterateTurns waiting 4 s) ?_
    dsimp only
    split
    · exact .ite (fun _ => .refl) fun _ => .checkRecord _ _ _
    · exact .refl
  · exact .refl

theorem Moves.startSuccess (s : State) (b : List Byte) : Moves s (s.startSuccess b) :=
  (Move.configured s b).moves.trans (Minor.moves ⟨rfl, rfl, rfl, rfl, rfl, rfl, rfl, rfl, rfl, rfl, rfl⟩)

theorem Moves.finishConfig (s : State) (waiting : List XmAgent) : Moves s (s.finishConfig waiting) :=
  .ite (fun _ => (Moves.iterateTurns waiting 5 s).trans (.ite (fun _ => .refl) fun _ =>
    .ite (fun _ => .startSuccess _ _) fun _ => Minor.moves ⟨rfl, rfl, rfl, rfl, rfl, rfl, rfl, rfl, rfl, rfl, rfl⟩)) fun _ => .refl

theorem Moves.arbitrate (s : State) : Moves s s.arbitrate := by
  refine .ite (fun _ => ?_) fun _ => .refl
  split
  · exact Minor.moves ⟨rfl, rfl, rfl, rfl, rfl, rfl, rfl, rfl, rfl, rfl, rfl⟩
  · split
    · exact Minor.moves ⟨rfl, rfl, rfl, rfl, rfl, rfl, rfl, rfl, rfl, rfl, rfl⟩
    · exact .refl

/-! ### Command records -/

/-- A record is handled only when the fetch engine holds one of its kind. -/
theorem Moves.withRecord (s : State) (k : Byte) (f : Fin 4 → List Byte → State)
    (hf : ∀ q r, recordKind r = k → Moves s (f q r)) : Moves s (s.withRecord k f) := by
  unfold State.withRecord State.heldRecord
  split
  · next h =>
    split at h
    · split at h
      · cases h; exact hf _ _ ‹_›
      · cases h
    · cases h
  · exact .refl

/-- The kind of a completion for a record of another kind than 0xE0 is the record's. -/
theorem originOf_kind {s : State} {q : Fin 4} {r : List Byte} {k : Byte} (h : recordKind r = k) (hk : k ≠ 0xE0) :
    (s.originOf q r).kind = k := by
  simp only [State.originOf, completionKind, h, if_neg hk]

/-- A delivered segment joins the queue, or is completed at once (R25, R47). -/
theorem Moves.deliverSegment (s : State) (l : Fin 4) (g : Segment) (hb : (s.lane l).state ≠ .unbound)
    (hr : (s.lane l).readyFor .segment = true) (hk : g.origin.kind ≠ kindHalt) : Moves s (s.deliverSegment l g) :=
  .ite (fun _ => (Move.queued s l g hb hr hk).moves.trans (Move.start _ l).moves)
    fun _ => (Move.disabledAtOnce s l (neverStarted g.origin .disabled (some l) 0) hr hk).moves.trans (Minor.laneFault _ l).moves

/-- A delivered HALT flushes its lane (R41). -/
theorem Moves.takeHalt (s : State) (l : Fin 4) (o : Origin) (offset : Nat) (hb : (s.lane l).state ≠ .unbound)
    (hr : (s.lane l).readyFor .halt = true) (hk : o.kind = kindHalt) : Moves s (s.takeHalt l o offset) :=
  ((Move.halted s l o offset _ hb hr hk).moves.trans (Move.start _ l).moves).trans (Move.notice _ l).moves

theorem Moves.handleSegment (s : State) (q : Fin 4) (r : List Byte) (hk : recordKind r = kindSegment) :
    Moves s (s.handleSegment q r) := by
  unfold State.handleSegment
  split
  · exact .refuse s q r _ _ _
  · next l _ =>
    by_cases hr : (s.lane l).readyFor .segment = true
    · rw [if_neg (by simp [hr])]
      refine .ite (fun _ => .refuse s q r _ _ _) fun hb => ?_
      split
      · exact .refuse s q r _ _ _
      · refine .trans (.trans (.consume s q) ?_) (Minor.fetchIdle _).moves
        have ho : (s.originOf q r).kind ≠ kindHalt := by rw [originOf_kind hk (by decide)]; decide
        exact .deliverSegment (s.consume q) l (segmentOf r (s.originOf q r)) hb hr ho
    · rw [if_pos (by simp [hr])]
      exact .block s q l _

theorem Moves.handleHalt (s : State) (q : Fin 4) (r : List Byte) (offset : Nat) (hk : recordKind r = kindHalt) :
    Moves s (s.handleHalt q r offset) := by
  unfold State.handleHalt
  split
  · exact .refuse s q r _ _ _
  · next l _ =>
    by_cases hr : (s.lane l).readyFor .halt = true
    · rw [if_neg (by simp [hr])]
      refine .ite (fun _ => .refuse s q r _ _ _) fun hb => ?_
      refine .trans (.trans (.consume s q) ?_) (Minor.fetchIdle _).moves
      exact .takeHalt (s.consume q) l (s.originOf q r) offset hb hr (originOf_kind hk (by decide))
    · rw [if_pos (by simp [hr])]
      exact .block s q l _

theorem Moves.handleBind (s : State) (q : Fin 4) (r : List Byte) : Moves s (s.handleBind q r) := by
  unfold State.handleBind
  split
  · exact .refuse s q r _ _ _
  · next l _ =>
    refine .ite (fun _ => .refuse s q r _ _ _) fun _ => .ite (fun _ => .refuse s q r _ _ _) fun hu =>
      .ite (fun _ => .refuse s q r _ _ _) fun _ => ?_
    split
    · exact .refuse s q r _ _ _
    · next h =>
      refine (Move.bound s l _ _ (not_not.mp hu) fun c hc => ?_).moves.trans (.refuse _ q r _ _ _)
      have := List.find?_eq_none.mp h c (by fin_cases c <;> decide)
      simpa [hc] using this

theorem Moves.handleUnbind (s : State) (q : Fin 4) (r : List Byte) (offset : Nat) : Moves s (s.handleUnbind q r offset) := by
  unfold State.handleUnbind
  split
  · exact .refuse s q r _ _ _
  · exact .ite (fun _ => .refuse s q r _ _ _) fun _ => .ite (fun _ => .refuse s q r _ _ _) fun hw =>
      (Move.unbound s _ offset (by simpa using hw)).moves.trans (.refuse _ q r _ _ _)

theorem Moves.handleSetLimits (s : State) (q : Fin 4) (r : List Byte) (offset : Nat) :
    Moves s (s.handleSetLimits q r offset) := by
  unfold State.handleSetLimits
  refine .ite (fun _ => .refuse s q r _ _ _) fun _ => ?_
  split
  · exact .refuse s q r _ _ _
  · split
    · exact .refuse s q r _ _ _
    · exact (Move.limits s r _ offset).moves.trans (.refuse _ q r _ _ _)

theorem mem_allChannels (c : Fin 6) : c ∈ allChannels := by fin_cases c <;> decide

theorem Moves.handleSetDomains (s : State) (q : Fin 4) (r : List Byte) : Moves s (s.handleSetDomains q r) := by
  unfold State.handleSetDomains
  split
  · exact .refuse s q r _ _ _
  · next hd =>
    split
    · exact .refuse s q r _ _ _
    · split
      · exact .refuse s q r _ _ _
      · next ho =>
        split
        · exact .refuse s q r _ _ _
        · refine (Move.domainsSet s r (fun c => ?_) fun c => ?_).moves.trans ((Moves.rearmLanes _).trans (.refuse _ q r _ _ _))
          · simpa using List.find?_eq_none.mp hd c (mem_allChannels c)
          · simpa using List.find?_eq_none.mp ho c (mem_allChannels c)

theorem Moves.handleRearm (s : State) (q : Fin 4) (r : List Byte) : Moves s (s.handleRearm q r) := by
  unfold State.handleRearm
  split
  · exact .refuse s q r _ _ _
  · split
    · exact .refuse s q r _ _ _
    · exact .refuse s q r _ _ _
    · exact (Move.domainRearmed s _).moves.trans ((Moves.rearmLanes _).trans (.refuse _ q r _ _ _))

theorem Moves.handleLoadPattern (s : State) (q : Fin 4) (r : List Byte) : Moves s (s.handleLoadPattern q r) := by
  unfold State.handleLoadPattern
  split
  · exact .refuse s q r _ _ _
  · exact .ite (fun _ => .refuse s q r _ _ _) fun _ => .ite (fun _ => .refuse s q r _ _ _) fun _ =>
      .ite (fun _ => .refuse s q r _ _ _) fun _ =>
        (Moves.consume s q).trans (Minor.moves ⟨rfl, rfl, rfl, rfl, rfl, rfl, rfl, rfl, rfl, rfl, rfl⟩)

theorem Moves.finishCopy (s : State) (waiting : List XmAgent) : Moves s (s.finishCopy waiting) := by
  unfold State.finishCopy
  split
  · refine .trans (.iterateTurns waiting maxTurns s) ?_
    dsimp only
    split
    · split
      · exact (Move.slotLoaded _ _ _).moves.trans (.offer _ _)
      · exact .offer _ _
      · exact .refl
    · exact .refl
  · exact .refl

theorem Moves.handleSetGate (s : State) (q : Fin 4) (r : List Byte) : Moves s (s.handleSetGate q r) := by
  unfold State.handleSetGate
  split
  · exact .refuse s q r _ _ _
  · refine .ite (fun _ => .refuse s q r _ _ _) fun _ => ?_
    split
    · exact .refuse s q r _ _ _
    · exact (Move.gateSet s _ _ _).moves.trans (.refuse _ q r _ _ _)

theorem Moves.handleCaptureStart (s : State) (q : Fin 4) (r : List Byte) : Moves s (s.handleCaptureStart q r) := by
  unfold State.handleCaptureStart
  split
  · exact .refuse s q r _ _ _
  · dsimp only
    refine .ite (fun _ => .refuse s q r _ _ _) fun _ => ?_
    split
    · exact .refuse s q r _ _ _
    · refine .ite (fun _ => .refuse s q r _ _ _) fun _ => .ite (fun _ => .refuse s q r _ _ _) fun _ =>
        .ite (fun _ => .refuse s q r _ _ _) fun _ => ?_
      split
      · exact .refuse s q r _ _ _
      · exact .ite (fun _ => .refuse s q r _ _ _) fun _ => .ite (fun _ => .refuse s q r _ _ _) fun _ =>
          (Minor.updStream s _ _).moves.trans (.refuse _ q r _ _ _)

theorem Minor.stopStream (s : State) (n : Fin 2) : Minor s (s.stopStream n) := by
  unfold State.stopStream
  dsimp only
  split
  · exact .refl s
  · exact .refl s
  · exact .updStream s n _
  · exact .ite (fun _ => .freezeStream s n) fun _ => .updStream s n _

theorem Moves.handleCaptureStop (s : State) (q : Fin 4) (r : List Byte) : Moves s (s.handleCaptureStop q r) := by
  unfold State.handleCaptureStop
  split
  · exact .refuse s q r _ _ _
  · next n _ =>
    have hfirst : Moves s (s.firstRecord n) := .ite (fun _ => .captureInstant s n) fun _ => .refl
    exact hfirst.trans <| ((Minor.stopStream _ _).moves.trans (.consume _ q)).trans (.offer _ _)

theorem Moves.handleSnapshot (s : State) (q : Fin 4) (r : List Byte) : Moves s (s.handleSnapshot q r) :=
  .ite (fun _ => .refuse s q r _ _ _) fun _ => .ite (fun _ => .refuse s q r _ _ _) fun _ =>
    .ite (fun _ => .refuse s q r _ _ _) fun _ =>
      (Moves.consume s q).trans (Minor.moves ⟨rfl, rfl, rfl, rfl, rfl, rfl, rfl, rfl, rfl, rfl, rfl⟩)

theorem Moves.finishSnapshot (s : State) (waiting : List XmAgent) : Moves s (s.finishSnapshot waiting) := by
  unfold State.finishSnapshot
  split
  · refine .trans (.iterateTurns waiting 8 s) ?_
    dsimp only
    split
    · exact .ite (fun _ => .refl) fun _ => .offer _ _
    · exact .refl
  · exact .refl

/-! ### The posting engine -/

theorem Moves.acceptHeld (s : State) : Moves s s.acceptHeld := by
  unfold State.acceptHeld
  split
  · exact .ite (fun _ => .offer s _) fun _ => .refl
  · exact .refl

theorem Moves.acceptOutbox (s : State) : Moves s s.acceptOutbox := by
  unfold State.acceptOutbox
  split
  · next l h =>
    have hr : s.listHasRoom = true := by
      unfold State.outboxTurn at h
      split at h
      · next hc => exact (Bool.and_eq_true _ _ ▸ hc).1
      · cases h
    unfold State.takeOutbox
    split
    · exact .refl
    · exact ((Move.outboxTaken s l _ _ ‹_› hr).moves.trans (Move.notice _ l).moves).trans (Move.start _ l).moves
  · exact .refl

theorem Minor.postingTurn (s : State) (q : Fin 2) : Minor s { s with rotation := .posting, cqTurn := q } :=
  ⟨rfl, rfl, rfl, rfl, rfl, rfl, rfl, rfl, rfl, rfl, rfl⟩

theorem Moves.writeCq (s : State) (q : Fin 2) (record : List Byte) : Moves s (s.writeCq q record) := by
  unfold State.writeCq
  refine (Move.write s ((s.cq q).base + 16 * (s.cq q).tail) record).moves.trans (.after ?_ (Minor.postingTurn _ q))
  refine (Move.cq _ q Cq.advance fun h k => ⟨Nat.mod_lt _ (Nat.pos_of_ne_zero k), (h k).2⟩).moves.trans ?_
  exact .ite (fun _ => .setCause _ _) fun _ => .refl

theorem Moves.writeEvent (s : State) (q : Fin 2) (e : Fin 12) : Moves s (s.writeEvent q e) := by
  unfold State.writeEvent
  split
  · exact .refl
  · exact (Moves.writeCq s q _).trans (Minor.moves ⟨rfl, rfl, rfl, rfl, rfl, rfl, rfl, rfl, rfl, rfl, rfl⟩)

theorem Moves.writeCompletion (s : State) (q : Fin 2) (c : Completion) : Moves s (s.writeCompletion q c) :=
  (Moves.writeCq s q _).trans (Move.posted _ _).moves

theorem Moves.postCompletion (s : State) (x : Access) : Moves s (s.postCompletion x) := by
  unfold State.postCompletion
  split
  · exact .withAccess s _ x _ fun u => .writeCompletion u _ _
  · exact .refl

theorem Moves.postEvent (s : State) (x : Access) : Moves s (s.postEvent x) := by
  unfold State.postEvent
  split
  · exact .withAccess s _ x _ fun u => .writeEvent u _ _
  · exact .refl

/-! ### Every command -/

/-- A row that acts answers what its block makes of the state, or the state itself while a reset lasts. -/
theorem State.act_moves (s : State) {f : State → State} (h : Moves s (f s)) : ∃ t, s.act f = .next t ∧ Moves s t :=
  ⟨_, rfl, .ite (fun _ => .refl) fun _ => h⟩

/-- Every command answers a next state, which moves reach. -/
theorem exec_moves (c : Instr) (s : State) : ∃ t, exec c s = .next t ∧ Moves s t := by
  cases c with
  | tick p o => exact s.act_moves (.tickStep s p o)
  | shortDetect c offset => exact s.act_moves (.ite (fun _ => .channelTrip s c _ offset) fun _ => .refl)
  | enableFilterChange => exact s.act_moves (.enableChange s)
  | supplyFilterChange => exact s.act_moves (.supplyChange s)
  | senseInputChange i => exact s.act_moves (.senseChange s i)
  | phaseEnd l => exact s.act_moves (.phaseEnd s l)
  | segmentTimeout l => exact s.act_moves (.segmentTimeout s l)
  | holdExpiry l => exact s.act_moves (.holdExpiry s l)
  | gateTimeout g => exact s.act_moves (Move.gateTimeout s g).moves
  | coalescingDelayExpiry q => exact s.act_moves (.delayExpiry s q)
  | captureSampleInstant n x =>
    exact s.act_moves (.ite (fun _ => .withAccess s _ x _ fun u => .captureInstant u n) fun _ => .refl)
  | readFrame body extra x ends => exact s.act_moves (.readFrame s body extra ends x)
  | writeFrame body extra => exact s.act_moves (.writeFrame s body extra)
  | writeChunk x => exact s.act_moves (.takeChunk s x)
  | registerWrite reg data trailer => exact s.act_moves (.writeFrame s _ 0)
  | runStart => exact s.act_moves (.takeRegister s _ _ _ fun v => (Minor.controlWrite s v).moves)
  | runStop => exact s.act_moves (.takeRegister s _ _ _ fun v => (Minor.controlWrite s v).moves)
  | clearErrors => exact s.act_moves (.takeRegister s _ _ _ fun v => (Minor.controlWrite s v).moves)
  | irqEnable => exact s.act_moves (.takeRegister s _ _ _ fun v => (Minor.controlWrite s v).moves)
  | softReset p turns => exact s.act_moves (.takeRegister s _ _ _ fun _ => (Moves.fetchTurns s turns).trans (.softReset _ p))
  | postTail => exact s.act_moves (.takeRegister s _ _ _ (.post s))
  | postResume => exact s.act_moves (.takeRegister s _ _ _ (.post s))
  | postReset => exact s.act_moves (.takeRegister s _ _ _ (.post s))
  | releaseCq => exact s.act_moves (.takeRegister s _ _ _ (.release s))
  | releaseCap => exact s.act_moves (.takeRegister s _ _ _ (.release s))
  | causeClear =>
    exact s.act_moves (.takeRegister s _ _ _ fun _ => Minor.moves ⟨rfl, rfl, rfl, rfl, rfl, rfl, rfl, rfl, rfl, rfl, rfl⟩)
  | powerOnResetBegin => exact ⟨_, rfl, .held s _⟩
  | powerOnResetEnd p csnLow => exact ⟨_, rfl, .ite (fun _ => .endReset s _ p csnLow) fun _ => .refl⟩
  | pinResetBegin turns => exact ⟨_, rfl, .ite (fun _ => .refl) fun _ => (Moves.fetchTurns s turns).trans (.held _ _)⟩
  | pinResetEnd p csnLow => exact ⟨_, rfl, .ite (fun _ => .endReset s _ p csnLow) fun _ => .refl⟩
  | startDrained =>
    exact s.act_moves (.ite (fun _ => Minor.moves ⟨rfl, rfl, rfl, rfl, rfl, rfl, rfl, rfl, rfl, rfl, rfl⟩) fun _ => .refl)
  | configReadComplete waiting => exact s.act_moves (.finishConfig s waiting)
  | sqArbitration => exact s.act_moves (.arbitrate s)
  | recordRead waiting => exact s.act_moves (.finishRead s waiting)
  | nop => exact s.act_moves (.withRecord s _ _ fun q r _ => .refuse s q r _ _ _)
  | segment => exact s.act_moves (.withRecord s _ _ (.handleSegment s))
  | halt offset => exact s.act_moves (.withRecord s _ _ fun q r => .handleHalt s q r offset)
  | bind => exact s.act_moves (.withRecord s _ _ fun q r _ => .handleBind s q r)
  | unbind offset => exact s.act_moves (.withRecord s _ _ fun q r _ => .handleUnbind s q r offset)
  | setLimits offset => exact s.act_moves (.withRecord s _ _ fun q r _ => .handleSetLimits s q r offset)
  | setDomains => exact s.act_moves (.withRecord s _ _ fun q r _ => .handleSetDomains s q r)
  | rearm => exact s.act_moves (.withRecord s _ _ fun q r _ => .handleRearm s q r)
  | loadPattern => exact s.act_moves (.withRecord s _ _ fun q r _ => .handleLoadPattern s q r)
  | patternCopyComplete waiting => exact s.act_moves (.finishCopy s waiting)
  | setGate => exact s.act_moves (.withRecord s _ _ fun q r _ => .handleSetGate s q r)
  | captureStart => exact s.act_moves (.withRecord s _ _ fun q r _ => .handleCaptureStart s q r)
  | captureStop => exact s.act_moves (.withRecord s _ _ fun q r _ => .handleCaptureStop s q r)
  | snapshot => exact s.act_moves (.withRecord s _ _ fun q r _ => .handleSnapshot s q r)
  | snapshotWriteComplete waiting => exact s.act_moves (.finishSnapshot s waiting)
  | waitPostAccept => exact s.act_moves (.acceptHeld s)
  | outboxAccept => exact s.act_moves (.acceptOutbox s)
  | completionWrite x => exact s.act_moves (.postCompletion s x)
  | eventWrite x => exact s.act_moves (.postEvent s x)
  | unknownCodeFrame code body extra => exact s.act_moves (.unknownFrame s code body extra)

/-- A law that every move keeps, whatever commands wait, is kept by every step. -/
theorem step_keeps {P : State → Prop} (hp : ∀ (s : State) (cs : List Instr), P s → P { s with pending := cs })
    (hm : ∀ {s t : State}, Move s t → P s → P t) {s t : State} (h : P s) (e : step s = .next t) : P t := by
  have moves_keep : ∀ {s t : State}, Moves s t → P s → P t := fun hst hs => by
    induction hst with
    | refl => exact hs
    | tail _ m ih => exact hm m ih
  unfold step at e
  split at e
  · cases e; exact h
  · next c rest _ =>
    obtain ⟨u, hu, hmoves⟩ := exec_moves c { s with pending := rest }
    cases hu.symm.trans e
    exact moves_keep hmoves (hp s rest h)

end Sys2Proof.Machine
end

section
/-! PROOFS. The laws about exchange memory, ownership, forced-off channels, domains, rings and the pending list (O51 to O53, O57,
O58): each is kept by every move, so by every step; and the rows that say what a step is (O1, O2, O3) and what holds after reset
(O59). -/

namespace Sys2Proof.Machine

-- One declaration after another: so the whole text compiles within the memory of the check.
set_option Elab.async false

/-! ### What moves of the lanes leave unchanged -/

theorem LaneStep.xm {s t : State} (h : LaneStep s t) : t.xm = s.xm := by
  obtain ⟨_, _, _, _, _, _, _, rfl⟩ := h.work; rfl

theorem LaneStep.pending {s t : State} (h : LaneStep s t) : t.pending = s.pending := by
  obtain ⟨_, _, _, _, _, _, _, rfl⟩ := h.work; rfl

theorem LaneStep.pendingList {s t : State} (h : LaneStep s t) : t.pendingList = s.pendingList := by
  obtain ⟨_, _, _, _, _, _, _, rfl⟩ := h.work; rfl

theorem LaneStep.cq {s t : State} (h : LaneStep s t) (q : Fin 2) : t.cq q = s.cq q := by
  obtain ⟨_, _, _, _, _, _, _, rfl⟩ := h.work; rfl

theorem LaneStep.ended (s : State) (l : Fin 4) (r : Running) (st : Status) : LaneStep s (s.ended l r st) := by
  have hoff : LaneStep s (if r.seg.endAction = .coast then s.laneOff l else s) :=
    .ite (fun _ => .laneOff s l) fun _ => .refl s
  unfold State.ended
  refine ((hoff.trans (.releaseSlot _ r.seg)).trans
    (.addOutbox _ l [s.ranCompletion l r st (endDetail r.seg st)])).trans (.updLane _ l _ rfl ?_)
  cases h : r.seg.endAction <;> simp [EndAction.nextState]

theorem LaneStep.halted (s : State) (l : Fin 4) (o : Origin) (offset n : Nat) :
    LaneStep s ((s.flushLane l .aborted offset).addOutbox l [neverStarted o .done (some l) n]) :=
  (LaneStep.flushLane s l _ offset).trans (.addOutbox _ l _)

theorem LaneStep.disableLanes (s : State) : LaneStep s (allLanes.foldl (fun s l => s.disableLane l) s) :=
  .foldl LaneStep.disableLane allLanes s

theorem LaneStep.phase (s : State) (l : Fin 4) (n : Running) (p : Phase) (period : Nat) :
    LaneStep s ((s.updLane l fun ln => { ln with state := .running n }).applyPhase l p period) :=
  (LaneStep.updLane s l _ rfl fun h => by cases h).trans (.applyPhase _ l p period)

theorem LaneStep.holdOver (s : State) (l : Fin 4) : LaneStep s ((s.laneOff l).updLane l fun ln =>
    { ln with state := .idle, holdTimer := none, expiryCount := satSucc 255 ln.expiryCount }) :=
  (LaneStep.laneOff s l).trans (.updLane _ l _ rfl fun h => by cases h)

theorem LaneStep.gatedHoldOver (s : State) (l : Fin 4) : LaneStep s ((s.laneOff l).updLane l fun ln =>
    { ln with resume := .idle, holdTimer := none, expiryCount := satSucc 255 ln.expiryCount }) :=
  (LaneStep.laneOff s l).trans (.updLane _ l _ rfl fun h => h)

theorem LaneStep.queued (s : State) (l : Fin 4) (g : Segment) :
    LaneStep s ((s.holdSlot g).updLane l fun ln => { ln with queue := ln.queue ++ [g] }) :=
  (LaneStep.holdSlot s g).trans (.updLane _ l _ rfl fun h => h)

theorem LaneStep.released (s : State) (l : Fin 4) : LaneStep s (s.updLane l fun ln => { ln with state := .idle }) :=
  .updLane s l _ rfl fun h => by cases h

/-! ### Exchange memory (O51) -/

theorem Move.keeps_memoryOk {s t : State} (m : Move s t) (h : s.MemoryOk) : t.MemoryOk := by
  have lane : ∀ {u v : State}, LaneStep u v → u.MemoryOk → v.MemoryOk := fun k hu => by
    unfold State.MemoryOk; rw [k.xm]; exact hu
  cases m with
  | minor k => unfold State.MemoryOk; rw [k.xm]; exact h
  | start l => exact lane (.startTest s l) h
  | ended l r st => exact lane (.ended s l r st) h
  | phase l r n p period => exact lane (.phase s l n p period) h
  | holdOver l => exact lane (.holdOver s l) h
  | gatedHoldOver l => exact lane (.gatedHoldOver s l) h
  | gateTimeout g => exact lane (.gateTimeout s g) h
  | halted l o offset n => exact lane (.halted s l o offset n) h
  | permitLoss p => exact lane (.disableLanes _) h
  | queued l g => exact lane (.queued s l g) h
  | disabledAtOnce l c => exact lane (.addOutbox s l [c]) h
  | trip d c offset => exact lane (.tripLanes _ d c offset) h
  | released l => exact lane (.released s l) h
  | notice l => exact lane (.readinessNotice s l) h
  | write a bs => exact Memory.writeBytes_wf bs a h
  | reset _ _ _ _ _ _ _ _ _ hx =>
    unfold State.MemoryOk
    rcases hx with hx | hx <;> rw [hx]
    · exact h
    · rfl
  | _ => exact h

/-- Settles O51: no operation but a write of bytes touches exchange memory, and a write keeps the form. -/
theorem stepKeepsMemoryForm : Obligations.StepKeepsMemoryForm :=
  fun _ _ => step_keeps (fun _ _ h => h) Move.keeps_memoryOk

/-! ### Ownership (O52) -/

theorem State.channel_of_reset {t : State} (h : t.channels = State.reset.channels) (c : Fin 6) :
    t.channel c = Channel.afterReset := by simp [State.channel, h, State.reset]

theorem State.lane_of_reset {t : State} (h : t.lanes = State.reset.lanes) (l : Fin 4) : t.lane l = Lane.afterReset := by
  simp [State.lane, h, State.reset]

theorem LaneState.advance_eq_unbound {x : LaneState} : x.advance = .unbound ↔ x = .unbound := by
  cases x <;> simp [LaneState.advance]

theorem LaneState.sample_eq_unbound {x : LaneState} {v : Vector Int 6} {set : ChannelSet} :
    x.sample v set = .unbound ↔ x = .unbound := by
  cases x <;> simp [LaneState.sample]

theorem LaneStep.keeps_ownershipOk {s t : State} (k : LaneStep s t) (h : s.OwnershipOk) : t.OwnershipOk :=
  ⟨fun c l => by rw [k.owner, k.owned]; exact h.1 c l, fun l hu => by rw [k.owned]; exact h.2 l (k.bound l hu)⟩

/-- A BIND gives the lane exactly the named channels, which no lane owned (R8, R17). -/
theorem State.bindLane_ownershipOk {s : State} {l : Fin 4} {set : ChannelSet} {limit : Nat} (h : s.OwnershipOk)
    (hu : (s.lane l).state = .unbound) (ho : ∀ c : Fin 6, set.getLsbD c.val = true → (s.channel c).owner = none) :
    (s.bindLane l set limit).OwnershipOk := by
  have hnone : ∀ c : Fin 6, (s.channel c).owner ≠ some l := fun c hc => by
    have := (h.1 c l).mp hc
    simp [h.2 l hu] at this
  constructor
  · intro c k
    rw [State.bindLane_channel]
    by_cases hk : k = l
    · subst hk
      rw [State.bindLane_lane_self]
      by_cases hc : set.getLsbD c.val = true <;> simp [hc, hnone c]
    · rw [State.bindLane_lane_ne _ _ _ _ hk, ← h.1 c k]
      by_cases hc : set.getLsbD c.val = true
      · simp [hc, ho c hc, Ne.symm hk]
      · simp only [hc, Bool.false_eq_true, if_false]
  · intro k
    by_cases hk : k = l
    · subst hk
      rw [State.bindLane_lane_self]
      dsimp only
      split <;> simp
    · rw [State.bindLane_lane_ne _ _ _ _ hk]
      exact h.2 k

theorem State.unbindLane_channel (s : State) (l : Fin 4) (offset : Nat) (c : Fin 6) :
    (s.unbindLane l offset).channel c =
      if (s.channel c).owner = some l then { (s.channel c).turnOff s.tick offset with owner := none } else s.channel c := by
  simp only [State.unbindLane, State.updLane_channel, State.mapChannels_channel, State.laneOff]
  by_cases h : (s.channel c).owner = some l <;> simp [h]

theorem State.unbindLane_lane (s : State) (l : Fin 4) (offset : Nat) (k : Fin 4) :
    (s.unbindLane l offset).lane k =
      if k = l then { s.lane l with state := .unbound, owned := 0, holdTimer := none } else s.lane k := by
  simp only [State.unbindLane, State.updLane_lane, State.mapChannels_lane, State.laneOff]

theorem State.unbindLane_ownershipOk {s : State} {l : Fin 4} {offset : Nat} (h : s.OwnershipOk) :
    (s.unbindLane l offset).OwnershipOk := by
  constructor
  · intro c k
    rw [State.unbindLane_channel, State.unbindLane_lane]
    by_cases hk : k = l <;> by_cases hc : (s.channel c).owner = some l
    · simp [hk, hc]
    · simp [hk, hc]
    · rw [if_pos hc, if_neg hk, ← h.1 c k, hc]
      simpa using Ne.symm hk
    · rw [if_neg hc, if_neg hk]
      exact h.1 c k
  · intro k
    rw [State.unbindLane_lane]
    split
    · exact fun _ => rfl
    · exact h.2 k

theorem Move.keeps_ownershipOk {s t : State} (m : Move s t) (h : s.OwnershipOk) : t.OwnershipOk := by
  cases m with
  | minor k =>
    unfold State.OwnershipOk State.channel State.lane at *
    rw [k.channels, k.lanes]; exact h
  | start l => exact (LaneStep.startTest s l).keeps_ownershipOk h
  | ended l r st => exact (LaneStep.ended s l r st).keeps_ownershipOk h
  | phase l r n p period => exact (LaneStep.phase s l n p period).keeps_ownershipOk h
  | holdOver l => exact (LaneStep.holdOver s l).keeps_ownershipOk h
  | gatedHoldOver l => exact (LaneStep.gatedHoldOver s l).keeps_ownershipOk h
  | gateTimeout g => exact (LaneStep.gateTimeout s g).keeps_ownershipOk h
  | halted l o offset n => exact (LaneStep.halted s l o offset n).keeps_ownershipOk h
  | permitLoss p =>
    have hp : State.OwnershipOk { s with permit := p } := h
    exact ((LaneStep.setOff _ 0x3F).trans (.disableLanes _)).keeps_ownershipOk hp
  | queued l g => exact (LaneStep.queued s l g).keeps_ownershipOk h
  | disabledAtOnce l c => exact (LaneStep.addOutbox s l [c]).keeps_ownershipOk h
  | trip d c offset =>
    have hd : (s.updDomain d Domain.trip).OwnershipOk := h
    exact ((LaneStep.setOff _ _ offset).trans (.tripLanes _ d c offset)).keeps_ownershipOk hd
  | released l => exact (LaneStep.released s l).keeps_ownershipOk h
  | bound l set limit hu ho => exact State.bindLane_ownershipOk h hu ho
  | unbound l offset => exact State.unbindLane_ownershipOk h
  | outboxTaken l c rest =>
    have hl : ({ s with lanePointer := l }.addPending c).OwnershipOk := h
    exact (LaneStep.updLane _ l (fun ln => { ln with outbox := rest }) rfl fun k => k).keeps_ownershipOk hl
  | limits r set offset =>
    refine (LaneStep.mapChannels s _ (fun c => ?_) fun c _ k => ?_).keeps_ownershipOk h
    · split <;> rfl
    · split <;> exact k
  | gateSet g set timeout => exact (LaneStep.updGate s g _).keeps_ownershipOk h
  | slotLoaded n ps => exact (LaneStep.updSlot s n _).keeps_ownershipOk h
  | notice l => exact (LaneStep.readinessNotice s l).keeps_ownershipOk h
  | advance =>
    refine ⟨fun c l => ?_, fun l => ?_⟩
    · rw [State.advance_channel, State.advance_lane, Channel.rebase_owner]; exact h.1 c l
    · rw [State.advance_lane]
      exact fun hu => h.2 l (LaneState.advance_eq_unbound.mp hu)
  | observe p =>
    refine ⟨fun c l => ?_, fun l => ?_⟩
    · rw [State.observe_channel, State.observe_lane, Channel.sample_owner]; exact h.1 c l
    · rw [State.observe_lane]
      exact fun hu => h.2 l (LaneState.sample_eq_unbound.mp hu)
  | reset _ hc hl =>
    refine ⟨fun c l => ?_, fun l _ => ?_⟩
    · simp [State.channel_of_reset hc, State.lane_of_reset hl, Channel.afterReset, Lane.afterReset]
    · simp [State.lane_of_reset hl, Lane.afterReset]
  | _ => exact h

/-- Settles O52: only BIND and UNBIND change an owner, and each changes the owned set with it. -/
theorem stepKeepsOwnership : Obligations.StepKeepsOwnership :=
  fun _ _ => step_keeps (fun _ _ h => h) Move.keeps_ownershipOk

/-! ### Forced-off channels (O53) -/

theorem State.inTrippedDomain_iff {s : State} {c : Fin 6} :
    s.inTrippedDomain c = true ↔ ∃ d : Fin 3, (s.domain d).members.getLsbD c.val = true ∧ (s.domain d).state ≠ .armed := by
  simp only [State.inTrippedDomain, List.any_eq_true, Bool.and_eq_true, bne_iff_ne]
  exact ⟨fun ⟨d, _, h⟩ => ⟨d, h⟩, fun ⟨d, h⟩ => ⟨d, by fin_cases d <;> decide, h⟩⟩

/-- The three forced-off conditions of a channel (R10). -/
theorem State.forcedOff_iff {s : State} {c : Fin 6} :
    s.forcedOff c = true ↔ (s.channel c).owner = none ∨
      (∃ d : Fin 3, (s.domain d).members.getLsbD c.val = true ∧ (s.domain d).state ≠ .armed) ∨ s.permitOn = false := by
  simp only [State.forcedOff, Bool.or_eq_true, Option.isNone_iff_eq_none, State.inTrippedDomain_iff, Bool.not_eq_true', or_assoc]

theorem LaneStep.keeps_forcedOffOk {s t : State} (k : LaneStep s t) (h : s.ForcedOffOk) : t.ForcedOffOk := fun c hc => by
  rw [k.forcedOff] at hc
  exact k.off c hc (h c hc)

theorem State.setOff_channel (s : State) (set : ChannelSet) (offset : Nat) (c : Fin 6) :
    (s.setOff set offset).channel c = if set.getLsbD c.val then (s.channel c).turnOff s.tick offset else s.channel c := by
  simp only [State.setOff, State.mapChannels_channel]

/-- Every channel is in the set of all channels. -/
theorem allSet_getLsbD (c : Fin 6) : (0x3F : ChannelSet).getLsbD c.val = true := by revert c; decide

/-- A tripped domain's channels are OFF, so no channel comes under a forced-off condition that drives (R10, R77). -/
theorem State.tripped_forcedOffOk {s : State} (h : s.ForcedOffOk) (d : Fin 3) (offset : Nat) :
    ((s.updDomain d Domain.trip).setOff (s.domain d).members offset).ForcedOffOk := by
  intro c hc
  rw [State.setOff_channel]
  by_cases hm : (s.domain d).members.getLsbD c.val = true
  · rw [if_pos hm]; simp
  · rw [if_neg hm]
    refine h c (State.forcedOff_iff.mpr ?_)
    rw [(LaneStep.setOff _ _ offset).forcedOff, State.forcedOff_iff] at hc
    rcases hc with ho | ⟨e, he, hs⟩ | hp
    · exact .inl ho
    · by_cases hed : e = d
      · subst hed
        rw [State.updDomain_domain_self] at he
        exact absurd he hm
      · rw [State.updDomain_domain_ne _ _ _ _ hed] at he hs
        exact .inr (.inl ⟨e, he, hs⟩)
    · exact .inr (.inr hp)

theorem Move.keeps_forcedOffOk {s t : State} (m : Move s t) (h : s.ForcedOffOk) : t.ForcedOffOk := by
  cases m with
  | minor k =>
    unfold State.ForcedOffOk State.forcedOff State.inTrippedDomain State.permitOn State.channel State.domain at *
    rw [k.channels, k.domains, k.permit]; exact h
  | start l => exact (LaneStep.startTest s l).keeps_forcedOffOk h
  | ended l r st => exact (LaneStep.ended s l r st).keeps_forcedOffOk h
  | phase l r n p period => exact (LaneStep.phase s l n p period).keeps_forcedOffOk h
  | holdOver l => exact (LaneStep.holdOver s l).keeps_forcedOffOk h
  | gatedHoldOver l => exact (LaneStep.gatedHoldOver s l).keeps_forcedOffOk h
  | gateTimeout g => exact (LaneStep.gateTimeout s g).keeps_forcedOffOk h
  | halted l o offset n => exact (LaneStep.halted s l o offset n).keeps_forcedOffOk h
  | permitLoss p =>
    refine (LaneStep.disableLanes _).keeps_forcedOffOk fun c _ => ?_
    rw [State.setOff_channel, allSet_getLsbD, if_pos rfl, Channel.turnOff_code]
  | permitKept p hp =>
    refine fun c hc => h c (State.forcedOff_iff.mpr ?_)
    rcases State.forcedOff_iff.mp hc with ho | hd | hoff
    · exact .inl ho
    · exact .inr (.inl hd)
    · exact .inr (.inr (Bool.eq_false_iff.mpr fun hs => Bool.eq_false_iff.mp hoff (hp hs)))
  | queued l g => exact (LaneStep.queued s l g).keeps_forcedOffOk h
  | disabledAtOnce l c => exact (LaneStep.addOutbox s l [c]).keeps_forcedOffOk h
  | trip d c offset => exact (LaneStep.tripLanes _ d c offset).keeps_forcedOffOk (State.tripped_forcedOffOk h d offset)
  | released l => exact (LaneStep.released s l).keeps_forcedOffOk h
  | domainsSet r hd ho => exact fun c _ => ho c
  | domainRearmed d =>
    refine fun c hc => h c (State.forcedOff_iff.mpr ?_)
    rcases State.forcedOff_iff.mp hc with ho | ⟨e, he, hs⟩ | hp
    · exact .inl ho
    · by_cases hed : e = d
      · subst hed; simp at hs
      · rw [State.updDomain_domain_ne _ _ _ _ hed] at he hs
        exact .inr (.inl ⟨e, he, hs⟩)
    · exact .inr (.inr hp)
  | bound l set limit hu ho =>
    intro c hc
    rw [State.bindLane_channel]
    refine h c (State.forcedOff_iff.mpr ?_)
    rcases State.forcedOff_iff.mp hc with hn | hd | hp
    · rw [State.bindLane_channel] at hn
      by_cases hm : set.getLsbD c.val = true
      · exact .inl (ho c hm)
      · simp only [hm] at hn; exact .inl hn
    · exact .inr (.inl hd)
    · exact .inr (.inr hp)
  | unbound l offset hw =>
    intro c hc
    rw [State.unbindLane_channel]
    by_cases hl : (s.channel c).owner = some l
    · rw [if_pos hl]; exact Channel.turnOff_code ..
    · rw [if_neg hl]
      refine h c (State.forcedOff_iff.mpr ?_)
      rw [State.forcedOff_iff, State.unbindLane_channel, if_neg hl] at hc
      exact hc
  | outboxTaken l c rest =>
    have hl : ({ s with lanePointer := l }.addPending c).ForcedOffOk := h
    exact (LaneStep.updLane _ l (fun ln => { ln with outbox := rest }) rfl fun k => k).keeps_forcedOffOk hl
  | limits r set offset =>
    refine (LaneStep.mapChannels s _ (fun c => ?_) fun c _ k => ?_).keeps_forcedOffOk h
    · split <;> rfl
    · split <;> exact k
  | gateSet g set timeout => exact (LaneStep.updGate s g _).keeps_forcedOffOk h
  | slotLoaded n ps => exact (LaneStep.updSlot s n _).keeps_forcedOffOk h
  | notice l => exact (LaneStep.readinessNotice s l).keeps_forcedOffOk h
  | advance =>
    intro c hc
    rw [State.advance_channel, Channel.rebase_code]
    rw [State.forcedOff_iff, State.advance_channel, Channel.rebase_owner] at hc
    exact h c (State.forcedOff_iff.mpr hc)
  | observe p =>
    intro c hc
    rw [State.observe_channel, Channel.sample_code]
    rw [State.forcedOff_iff, State.observe_channel, Channel.sample_owner] at hc
    exact h c (State.forcedOff_iff.mpr hc)
  | reset _ hc => exact fun c _ => by simp [State.channel_of_reset hc, Channel.afterReset]
  | _ => exact h

/-- Settles O53: what brings a channel under a forced-off condition turns it OFF, and no phase drives a forced-off channel. -/
theorem stepKeepsForcedOff : Obligations.StepKeepsForcedOff :=
  fun _ _ => step_keeps (fun _ _ h => h) Move.keeps_forcedOffOk

/-! ### Domains (O57) -/

theorem oneChannel_getLsbD (c k : Fin 6) : (1#6 <<< c.val).getLsbD k.val = decide (c = k) := by revert c k; decide

theorem mem_assigned {f : Fin 6 → Bool} {k : Fin 6} : ∀ (cs : List (Fin 6)) (set : ChannelSet),
    (cs.foldl (fun set c => if f c then set ||| (1#6 <<< c.val) else set) set).getLsbD k.val = true ↔
      set.getLsbD k.val = true ∨ (k ∈ cs ∧ f k = true)
  | [], _ => by simp
  | c :: cs, set => by
    rw [List.foldl_cons, mem_assigned cs]
    by_cases hf : f c = true
    · rw [if_pos hf, BitVec.getLsbD_or, oneChannel_getLsbD, Bool.or_eq_true, decide_eq_true_eq, List.mem_cons]
      constructor
      · rintro ((h | rfl) | h)
        · exact .inl h
        · exact .inr ⟨.inl rfl, hf⟩
        · exact .inr ⟨.inr h.1, h.2⟩
      · rintro (h | ⟨rfl | h, hk⟩)
        · exact .inl (.inl h)
        · exact .inl (.inr rfl)
        · exact .inr ⟨h, hk⟩
    · rw [if_neg hf, List.mem_cons]
      refine or_congr Iff.rfl (and_congr_left fun hk => ?_)
      exact ⟨.inr, fun h => h.resolve_left fun e => hf (e ▸ hk)⟩

/-- A SET_DOMAINS record assigns a channel to the domain that its byte names (R82). -/
theorem domainMembers_iff {r : List Byte} {d : Fin 3} {c : Fin 6} :
    (domainMembers r d).getLsbD c.val = true ↔ byteAt r (4 + c.val) = d.val := by
  have := mem_assigned (f := fun c => decide (byteAt r (4 + c.val) = d.val)) (k := c) allChannels 0
  simpa [domainMembers, mem_allChannels] using this

theorem State.domainsOk_of_members {s t : State} (hm : ∀ d, (t.domain d).members = (s.domain d).members) (h : s.DomainsOk) :
    t.DomainsOk := fun c => by
  obtain ⟨d, hd⟩ := h c
  exact ⟨d, fun e => by rw [hm]; exact hd e⟩

theorem LaneStep.keeps_domainsOk {s t : State} (k : LaneStep s t) (h : s.DomainsOk) : t.DomainsOk :=
  State.domainsOk_of_members (fun d => by rw [k.domain]) h

/-- A change of one domain that keeps its members keeps the partition. -/
theorem State.updDomain_domainsOk {s : State} {d : Fin 3} {f : Domain → Domain} (hf : (f (s.domain d)).members = (s.domain d).members)
    (h : s.DomainsOk) : (s.updDomain d f).DomainsOk :=
  State.domainsOk_of_members (fun e => by rw [State.updDomain_domain]; split <;> simp_all) h

theorem Move.keeps_domainsOk {s t : State} (m : Move s t) (h : s.DomainsOk) : t.DomainsOk := by
  cases m with
  | minor k => exact State.domainsOk_of_members (fun d => by simp [State.domain, k.domains]) h
  | start l => exact (LaneStep.startTest s l).keeps_domainsOk h
  | ended l r st => exact (LaneStep.ended s l r st).keeps_domainsOk h
  | phase l r n p period => exact (LaneStep.phase s l n p period).keeps_domainsOk h
  | holdOver l => exact (LaneStep.holdOver s l).keeps_domainsOk h
  | gatedHoldOver l => exact (LaneStep.gatedHoldOver s l).keeps_domainsOk h
  | gateTimeout g => exact (LaneStep.gateTimeout s g).keeps_domainsOk h
  | halted l o offset n => exact (LaneStep.halted s l o offset n).keeps_domainsOk h
  | permitLoss p => exact (LaneStep.disableLanes _).keeps_domainsOk h
  | queued l g => exact (LaneStep.queued s l g).keeps_domainsOk h
  | disabledAtOnce l c => exact (LaneStep.addOutbox s l [c]).keeps_domainsOk h
  | trip d c offset =>
    have ht : (s.updDomain d Domain.trip).DomainsOk := State.updDomain_domainsOk rfl h
    exact (LaneStep.tripLanes _ d c offset).keeps_domainsOk ht
  | domainsSet r hd =>
    intro c
    refine ⟨⟨byteAt r (4 + c.val), by have := hd c; omega⟩, fun d => ?_⟩
    rw [State.mapDomains_domain, domainMembers_iff, Fin.ext_iff, eq_comm]
  | domainRearmed d => exact State.updDomain_domainsOk rfl h
  | reset _ _ _ _ _ hd =>
    have hreset : ∀ c : Fin 6, ∃ d : Fin 3, ∀ e : Fin 3, (State.reset.domain e).members.getLsbD c.val = true ↔ e = d := by
      decide
    exact State.domainsOk_of_members (fun d => by simp [State.domain, hd]) hreset
  | _ => exact h

/-- Settles O57: only SET_DOMAINS changes members, and it assigns each channel to the one domain that its byte names. -/
theorem stepKeepsDomains : Obligations.StepKeepsDomains :=
  fun _ _ => step_keeps (fun _ _ h => h) Move.keeps_domainsOk

/-! ### Rings and the pending list (O58) -/

/-- Every SQ is the same but for its state. -/
def SqsAlike (s t : State) : Prop := ∀ q, t.sq q = { s.sq q with state := (t.sq q).state }

theorem SqsAlike.of_sqs {s t : State} (h : t.sqs = s.sqs) : SqsAlike s t := fun q => by simp [State.sq, h]

theorem SqsAlike.refl (s : State) : SqsAlike s s := .of_sqs rfl

theorem SqsAlike.trans {s t u : State} (h : SqsAlike s t) (k : SqsAlike t u) : SqsAlike s u := fun q =>
  (k q).trans (congrArg (fun x : Sq => { x with state := (u.sq q).state }) (h q))

/-- The later change named first, so that it tells what stands between them. -/
theorem SqsAlike.after {s t u : State} (k : SqsAlike t u) (h : t.sqs = s.sqs) : SqsAlike s u := (SqsAlike.of_sqs h).trans k

theorem SqsAlike.ite {s t u : State} {p : Prop} [Decidable p] (h : p → SqsAlike s t) (k : ¬p → SqsAlike s u) :
    SqsAlike s (if p then t else u) := by
  split
  · exact h ‹_›
  · exact k ‹_›

theorem SqsAlike.foldl {α : Type} {f : State → α → State} (hf : ∀ s a, SqsAlike s (f s a)) :
    ∀ (as : List α) (s : State), SqsAlike s (as.foldl f s)
  | [], s => .refl s
  | a :: as, s => (hf s a).trans (SqsAlike.foldl hf as (f s a))

theorem Minor.sqsAlike {s t : State} (h : Minor s t) : SqsAlike s t := .of_sqs h.sqs

theorem Sq.unblock_alike (q : Sq) (l : Fin 4) (ready : LaneKind → Bool) :
    q.unblock l ready = { q with state := (q.unblock l ready).state } := by
  unfold Sq.unblock
  split
  · split <;> rfl
  · rfl

theorem SqsAlike.readinessNotice (s : State) (l : Fin 4) : SqsAlike s (s.readinessNotice l) := fun q => by
  simp only [State.readinessNotice, State.mapSqs_sq]
  exact Sq.unblock_alike _ _ _

theorem State.releaseSlot_sqs (s : State) (g : Segment) : (s.releaseSlot g).sqs = s.sqs := by
  unfold State.releaseSlot; split <;> rfl

theorem State.holdSlot_sqs (s : State) (g : Segment) : (s.holdSlot g).sqs = s.sqs := by
  unfold State.holdSlot; split <;> rfl

theorem State.releaseSlots_sqs : ∀ (gs : List Segment) (s : State), (s.releaseSlots gs).sqs = s.sqs
  | [], _ => rfl
  | g :: gs, s => (State.releaseSlots_sqs gs (s.releaseSlot g)).trans (State.releaseSlot_sqs s g)

theorem SqsAlike.startHead (s : State) (l : Fin 4) : SqsAlike s (s.startHead l) := by
  unfold State.startHead
  split
  · exact .refl s
  · exact .after (.readinessNotice _ l) (Minor.laneEntered _ l).sqs

theorem SqsAlike.startSet (s : State) (set : LaneSet) : SqsAlike s (s.startSet set) :=
  .foldl (fun s l => .ite (fun _ => .startHead s l) fun _ => .refl s) allLanes s

theorem SqsAlike.arrive (s : State) (l g : Fin 4) : SqsAlike s (s.arrive l g) :=
  .ite (fun _ => .refl s) fun _ => .ite (fun _ => .after (.startSet _ _) rfl) fun _ => .of_sqs rfl

theorem SqsAlike.startTest (s : State) (l : Fin 4) : SqsAlike s (s.startTest l) := by
  unfold State.startTest
  split
  · split
    · exact .refl s
    · split
      · exact .startHead s l
      · exact .after (.arrive _ l _) rfl
  · exact .refl s

theorem SqsAlike.gateTimeoutLane (s : State) (g l : Fin 4) : SqsAlike s (s.gateTimeoutLane g l) := by
  unfold State.gateTimeoutLane
  split
  · exact .refl s
  · exact (SqsAlike.after (.startTest _ l) (by rw [State.updLane_sqs, State.releaseSlot_sqs])).trans (.readinessNotice _ l)

/-- The lanes of a set take the expiry of a gate's wait timer, in the order of their numbers (R65). -/
def State.timeoutLanes (s : State) (g : Fin 4) (set : LaneSet) : State :=
  allLanes.foldl (fun s l => if set.getLsbD l.val then s.gateTimeoutLane g l else s) s

theorem State.gateTimeout_eq (s : State) (g : Fin 4) :
    s.gateTimeout g =
      if (s.gate g).waitTimer = some 0 then
        (s.updGate g fun x => { x with arrivals := 0, waitTimer := none }).timeoutLanes g (s.gate g).arrivals
      else s := rfl

theorem SqsAlike.timeoutLanes (s : State) (g : Fin 4) (set : LaneSet) : SqsAlike s (s.timeoutLanes g set) :=
  .foldl (fun s l => .ite (fun _ => .gateTimeoutLane s g l) fun _ => .refl s) allLanes s

theorem SqsAlike.gateTimeout (s : State) (g : Fin 4) : SqsAlike s (s.gateTimeout g) := by
  rw [State.gateTimeout_eq]
  exact .ite (fun _ => .after (.timeoutLanes _ g _) rfl) fun _ => .refl s

theorem State.flushLane_sqs (s : State) (l : Fin 4) (st : Status) (offset : Nat) : (s.flushLane l st offset).sqs = s.sqs :=
  State.releaseSlots_sqs _ _

theorem SqsAlike.disableLane (s : State) (l : Fin 4) : SqsAlike s (s.disableLane l) := by
  refine .ite (fun _ => .refl s) fun _ => .trans ?_ (.readinessNotice _ l)
  have hf : SqsAlike s (s.flushLane l .disabled) := .of_sqs (State.flushLane_sqs s l _ 0)
  exact .ite (fun _ => hf.trans (Minor.laneFault _ l).sqsAlike) fun _ => hf

theorem SqsAlike.laneTrip (s : State) (l : Fin 4) (c : Fin 6) (offset : Nat) : SqsAlike s (s.laneTrip l c offset) := by
  unfold State.laneTrip
  split
  · exact .refl s
  · exact .refl s
  · exact .of_sqs rfl
  · exact .of_sqs rfl
  · exact .of_sqs rfl
  · exact .of_sqs ((Minor.laneFault _ l).sqs.trans (State.releaseSlot_sqs _ _))

theorem SqsAlike.tripLanes (s : State) (d : Fin 3) (c : Fin 6) (offset : Nat) : SqsAlike s (s.tripLanes d c offset) :=
  .foldl (fun s l => .ite (fun _ => .laneTrip s l c offset) fun _ => .refl s) allLanes s

/-- Ring positions lie inside their rings, and the pending list holds at most 8 entries. -/
def State.ListsOk (s : State) : Prop := s.RingsOk ∧ s.PendingOk

/-- What leaves the rings' positions and the pending list alone keeps their bounds. -/
theorem State.ListsOk.of_alike {s t : State} (h : s.ListsOk) (hs : SqsAlike s t) (hc : ∀ q, t.cq q = s.cq q)
    (hl : t.pendingList = s.pendingList) : t.ListsOk := by
  refine ⟨⟨fun q => ?_, fun q => ?_⟩, ?_⟩
  · rw [hs q]; exact h.1.1 q
  · rw [hc q]; exact h.1.2 q
  · unfold State.PendingOk; rw [hl]; exact h.2

theorem LaneStep.keeps_listsOk {s t : State} (k : LaneStep s t) (hs : SqsAlike s t) (h : s.ListsOk) : t.ListsOk :=
  h.of_alike hs k.cq k.pendingList

theorem State.updSq_listsOk {s : State} {q : Fin 4} {f : Sq → Sq} (hf : (s.sq q).PosOk → (f (s.sq q)).PosOk) (h : s.ListsOk) :
    (s.updSq q f).ListsOk := by
  refine ⟨⟨fun p => ?_, h.1.2⟩, h.2⟩
  rw [State.updSq_sq]
  split
  · exact hf (h.1.1 q)
  · exact h.1.1 p

theorem State.updCq_listsOk {s : State} {q : Fin 2} {f : Cq → Cq} (hf : (s.cq q).PosOk → (f (s.cq q)).PosOk) (h : s.ListsOk) :
    (s.updCq q f).ListsOk := by
  refine ⟨⟨h.1.1, fun p => ?_⟩, h.2⟩
  rw [State.updCq_cq]
  split
  · exact hf (h.1.2 q)
  · exact h.1.2 p

theorem State.addPending_pendingOk {s : State} {c : Completion} (hr : s.listHasRoom = true) : (s.addPending c).PendingOk := by
  have : s.pendingList.length < 8 := of_decide_eq_true hr
  simp only [State.PendingOk, State.addPending, List.length_append, List.length_singleton]
  omega

theorem Move.keeps_listsOk {s t : State} (m : Move s t) (h : s.ListsOk) : t.ListsOk := by
  cases m with
  | minor k => exact h.of_alike k.sqsAlike (fun q => by simp [State.cq, k.cqs]) k.pendingList
  | start l => exact (LaneStep.startTest s l).keeps_listsOk (.startTest s l) h
  | ended l r st =>
    refine (LaneStep.ended s l r st).keeps_listsOk (.of_sqs ?_) h
    show (State.releaseSlot _ _).sqs = _
    rw [State.releaseSlot_sqs]; split <;> rfl
  | phase l r n p period => exact (LaneStep.phase s l n p period).keeps_listsOk (.of_sqs rfl) h
  | holdOver l => exact (LaneStep.holdOver s l).keeps_listsOk (.of_sqs rfl) h
  | gatedHoldOver l => exact (LaneStep.gatedHoldOver s l).keeps_listsOk (.of_sqs rfl) h
  | gateTimeout g => exact (LaneStep.gateTimeout s g).keeps_listsOk (.gateTimeout s g) h
  | halted l o offset n => exact (LaneStep.halted s l o offset n).keeps_listsOk (.of_sqs (State.flushLane_sqs s l .aborted offset)) h
  | permitLoss p => exact (LaneStep.disableLanes _).keeps_listsOk (.foldl SqsAlike.disableLane allLanes _) h
  | queued l g => exact (LaneStep.queued s l g).keeps_listsOk (.of_sqs (State.holdSlot_sqs s g)) h
  | disabledAtOnce l c => exact (LaneStep.addOutbox s l [c]).keeps_listsOk (.of_sqs rfl) h
  | trip d c offset => exact (LaneStep.tripLanes _ d c offset).keeps_listsOk (.tripLanes _ d c offset) h
  | notice l => exact (LaneStep.readinessNotice s l).keeps_listsOk (.readinessNotice s l) h
  | outboxTaken l c rest ho hr => exact ⟨h.1, State.addPending_pendingOk hr⟩
  | advance => exact ⟨⟨h.1.1, fun q => by rw [State.advance_cq]; exact h.1.2 q⟩, h.2⟩
  | sq q f hf => exact State.updSq_listsOk hf h
  | cq q f hf => exact State.updCq_listsOk hf h
  | configured b =>
    refine ⟨⟨fun q => ?_, fun q => ?_⟩, h.2⟩
    · simp only [State.mapCqs_sq, State.mapSqs_sq, sqFromConfig]
      exact fun hs => ⟨Nat.pos_of_ne_zero hs, Nat.pos_of_ne_zero hs⟩
    · simp only [State.mapCqs_cq, cqFromConfig]
      exact fun hs => ⟨Nat.pos_of_ne_zero hs, Nat.pos_of_ne_zero hs⟩
  | listed c hr => exact ⟨h.1, State.addPending_pendingOk hr⟩
  | posted f => exact ⟨h.1, (List.length_eraseP_le).trans h.2⟩
  | reset _ _ _ _ _ _ hq hcq hpl =>
    refine ⟨⟨fun q => ?_, fun q => ?_⟩, ?_⟩
    · simp [State.sq, hq, State.reset, Sq.afterReset]
    · simp [State.cq, hcq, State.reset, Cq.afterReset]
    · simp [State.PendingOk, hpl]
  | _ => exact h

/-- Settles O58: a position moves only modulo its ring's size or to a value checked against it, and the list takes a completion
only while it has room. -/
theorem stepKeepsRingsAndList : Obligations.StepKeepsRingsAndList :=
  fun _ _ hr hp => step_keeps (P := State.ListsOk) (fun _ _ h => h) Move.keeps_listsOk ⟨hr, hp⟩

/-! ### The step (O1, O2, O3) -/

/-- Settles O1: `step` takes the command at the front of the queue by definition. -/
theorem stepTakesFrontCommand : Obligations.StepTakesFrontCommand :=
  ⟨fun _ _ _ => rfl, fun s h => by simp [step, h]⟩

theorem Move.keeps_pending {s t : State} (m : Move s t) : t.pending = s.pending := by
  cases m with
  | minor k => exact k.pending
  | start l => exact (LaneStep.startTest s l).pending
  | ended l r st => exact (LaneStep.ended s l r st).pending
  | gateTimeout g => exact (LaneStep.gateTimeout s g).pending
  | halted l o offset n => exact (LaneStep.halted s l o offset n).pending
  | permitLoss p => exact (LaneStep.disableLanes _).pending
  | queued l g => exact (LaneStep.queued s l g).pending
  | trip d c offset => exact (LaneStep.tripLanes _ d c offset).pending
  | reset hp => exact hp
  | _ => rfl

theorem Moves.pending {s t : State} (h : Moves s t) : t.pending = s.pending := by
  induction h with
  | refl => rfl
  | tail _ m ih => exact m.keeps_pending.trans ih

/-- Settles O2: no move touches the queue of commands, and every command answers a state that moves reach. -/
theorem everyCommandKeepsQueue : Obligations.EveryCommandKeepsQueue := fun c s => by
  obtain ⟨t, ht, hm⟩ := exec_moves c s
  exact ⟨t, ht, hm.pending⟩

/-- A row that acts does nothing while a reset lasts (R171). -/
theorem State.act_held {s : State} (h : s.inReset = true) (f : State → State) : s.act f = .next s := by
  simp [State.act, State.unlessReset, h]

/-- Settles O3: every row but those of the power-on and pin reset is an act, and a held part does not act. -/
theorem heldPartIgnoresCommands : Obligations.HeldPartIgnoresCommands := fun c s h hr => by
  cases c with
  | powerOnResetBegin => cases hr
  | powerOnResetEnd => cases hr
  | pinResetBegin => cases hr
  | pinResetEnd => cases hr
  | _ => exact State.act_held h _

/-! ### After reset (O59) -/

/-- Settles O59: each law, evaluated on the state after reset. -/
theorem resetMeetsEveryLaw : Obligations.ResetMeetsEveryLaw := by
  have hl : ∀ l, State.reset.lane l = Lane.afterReset := State.lane_of_reset rfl
  have hc : ∀ c, State.reset.channel c = Channel.afterReset := State.channel_of_reset rfl
  have hg : ∀ g, State.reset.gate g = Gate.afterReset := fun g => by simp [State.gate, State.reset]
  have ha : ∀ g l : Fin 4, (State.reset.gate g).arrivals.getLsbD l.val = true → (State.reset.lane l).gatedOn g = true :=
    fun g l h => by simp [hg, Gate.afterReset] at h
  refine ⟨rfl, Nat.zero_le 8, ⟨fun c l => ?_, fun l _ => by rw [hl]; rfl⟩, fun c _ => by rw [hc]; rfl, ⟨fun l h => ?_, ha⟩,
    fun l => ?_, ⟨fun n => ?_, ha⟩, ?_, ⟨fun q h => ?_, fun q h => ?_⟩, rfl⟩
  · simp [hc, hl, Channel.afterReset, Lane.afterReset]
  · rw [hl] at h; cases h
  · rw [hl]; exact ⟨by decide, by decide, by decide, fun g hg => by cases hg⟩
  · simp [State.slot, State.reset, Slot.afterReset, State.usesOf, State.lane, Lane.afterReset, Lane.segments, allLanes]
  · unfold State.DomainsOk; decide
  · simp [State.sq, State.reset, Sq.afterReset] at h
  · simp [State.cq, State.reset, Cq.afterReset] at h

end Sys2Proof.Machine
end


section
/-! PROOFS. The register writes that accepted frames hand on, and the rows of the engine, the arbiter and the posting engine that
act on one field each: O18, O24 to O28, O30, O32 and O48. -/

namespace Sys2Proof.Machine

-- One declaration after another: so the whole text compiles within the memory of the check.
set_option Elab.async false

/-! ### Bits -/

theorem cqCause_getLsbD (q : Fin 2) (b : Fin 3) : (cqCause q).getLsbD b.val = (b.val == q.val) := by
  revert q b; decide

theorem causeBits_getLsbD (v : BitVec 32) (b : Fin 3) : (causeBits v).getLsbD b.val = v.getLsbD b.val := by
  simp [causeBits]

theorem controlEnables_getLsbD (v : BitVec 32) (b : Fin 3) : (controlEnables v).getLsbD b.val = v.getLsbD (4 + b.val) := by
  simp [controlEnables]

/-- IRQN is asserted exactly while an enabled CAUSE bit is set (R136). -/
theorem State.irqnAsserted_iff (s : State) :
    s.irqnAsserted = true ↔ ∃ b : Fin 3, s.cause.getLsbD b.val = true ∧ s.enables.getLsbD b.val = true := by
  unfold State.irqnAsserted
  generalize s.cause = c
  generalize s.enables = e
  revert c e
  decide

/-! ### The coalescing delay (R133) -/

theorem State.delayExpiry_eq {s : State} {q : Fin 2} (h : (s.cq q).delayTimer = some 0) :
    s.delayExpiry q =
      { s.updCq q fun x => { x with unsignalled := 0, delayTimer := none } with
        cause := if 0 < (s.cq q).unsignalled then s.cause ||| cqCause q else s.cause } := by
  unfold State.delayExpiry
  rw [if_pos h]
  by_cases hu : 0 < (s.cq q).unsignalled
  · simp only [hu, decide_true, if_true]; rfl
  · simp only [hu, decide_false, if_false]; rfl

/-- Settles O18: the expiry by its equation, and the bit it sets. -/
theorem delayExpirySetsCause : Obligations.DelayExpirySetsCause := by
  intro s q ha h
  refine ⟨_, State.act_awake ha _, ?_⟩
  rw [State.delayExpiry_eq h]
  let f : Cq → Cq := fun x => { x with unsignalled := 0, delayTimer := none }
  refine ⟨State.updCq_cq_self s q f, fun k hk => State.updCq_cq_ne s q f k hk, fun b => ?_, rfl⟩
  dsimp only
  split
  case isTrue hu => rw [BitVec.getLsbD_or, cqCause_getLsbD]; simp [hu]
  case isFalse hu => simp [hu]

/-! ### CAUSE (R135, R136) -/

/-- Settles O27: the write clears its bits, and IRQN follows from the bits that are left. -/
theorem causeWriteClearsBits : Obligations.CauseWriteClearsBits := by
  intro s v h
  refine ⟨_, State.act_awake h.1 _, ?_⟩
  rw [State.takeRegister_handed h _ _ rfl rfl rfl]
  refine ⟨fun b => ?_, State.irqnAsserted_iff _, rfl⟩
  have hb : (~~~causeBits v).getLsbD b.val = !v.getLsbD b.val := by
    rw [BitVec.getLsbD_not, causeBits_getLsbD]; simp [b.isLt]
  simp only [State.clearCause, BitVec.getLsbD_and, hb]

/-! ### CONTROL (R112, R117, R169) -/

/-- The engine state after RUN is written (R112, R117). -/
theorem State.run_engine (s : State) (run : Bool) :
    (s.run run).engine =
      (match s.engine, run with
      | .stopped, true => .starting
      | .configError, true => .starting
      | .starting, false => .stopped
      | .running, false => if s.fetch = .idle then .stopped else .stopping
      | e, _ => e) := by
  unfold State.run State.settleStop
  cases he : s.engine <;> cases run <;> simp [he]
  split <;> rfl

/-- A CONTROL write: the errors it clears, the enables, and what RUN does. -/
theorem State.controlWrite_eq (s : State) (v : BitVec 32) :
    s.controlWrite v =
      { s with
        postError := s.postError && !v.getLsbD 2, releaseError := s.releaseError && !v.getLsbD 2
        linkErrors := if v.getLsbD 2 then 0 else s.linkErrors, enables := controlEnables v
        engine := (s.run (v.getLsbD 0)).engine, configRead := (s.run (v.getLsbD 0)).configRead } := by
  unfold State.controlWrite controlClearErrors controlRun State.run State.settleStop
  cases hc : v.getLsbD 2 <;> cases hr : v.getLsbD 0 <;> cases he : s.engine <;> simp [he] <;> split <;> rfl

theorem exec_controlRow {s : State} {v : BitVec 32} {c : Instr} (h : s.Handed .control v) (hs : v.getLsbD 1 = false)
    (hc : (c = .runStart ∧ v.getLsbD 0 = true) ∨ (c = .runStop ∧ v.getLsbD 0 = false) ∨ (c = .clearErrors ∧ v.getLsbD 2 = true) ∨
      c = .irqEnable) :
    exec c s = .next { s.controlWrite v with linkQueue := s.linkQueue.tail } := by
  have taken (takes : BitVec 32 → Bool) (ht : takes v = true) :
      s.act (fun s => s.takeRegister .control takes State.controlWrite) =
        .next { s.controlWrite v with linkQueue := s.linkQueue.tail } := by
    rw [State.act_awake h.1, State.takeRegister_handed h takes _ ht] <;> rw [State.controlWrite_eq]
  rcases hc with ⟨rfl, h0⟩ | ⟨rfl, h0⟩ | ⟨rfl, h2⟩ | rfl
  · exact taken _ (by simp only [controlRow, controlSoftReset, hs, controlRun, h0]; rfl)
  · exact taken _ (by simp only [controlRow, controlSoftReset, hs, controlRun, h0]; rfl)
  · exact taken _ (by simp only [controlRow, controlSoftReset, hs, controlClearErrors, h2]; rfl)
  · exact taken _ (by simp only [controlRow, controlSoftReset, hs]; rfl)

/-- Settles O24: every row that takes the write answers the same state, read field by field. -/
theorem controlWriteIsTakenWhole : Obligations.ControlWriteIsTakenWhole := by
  intro s v c h hs hc
  refine ⟨_, exec_controlRow h hs hc, ?_⟩
  rw [State.controlWrite_eq]
  refine ⟨controlEnables_getLsbD v, rfl, rfl, rfl, State.run_engine s _, ?_, rfl⟩
  rw [State.irqnAsserted_iff]
  simp only [controlEnables_getLsbD]

/-! ### POST (R95 to R99) -/

theorem postAction_lt (v : BitVec 32) : postAction v < 4 := (v.extractLsb' 12 2).isLt

/-- A POST write is ignored exactly in the cases of R95 to R98. -/
theorem State.postRefused_iff {s : State} {v : BitVec 32} :
    s.postRefused v = true ↔
      s.engine ≠ .running ∨ 3 < postQueue v ∨ ∃ q : Fin 4, postQueue v = q.val ∧ ((s.sq q).state = .absent ∨
        (postAction v = 0 ∧ (s.sq q).size ≤ postValue v) ∨ (postAction v = 1 ∧ (s.sq q).state ≠ .faulted) ∨
        postAction v = 3) := by
  have ha := postAction_lt v
  unfold State.postRefused
  by_cases hn : postQueue v < 4
  · have hq : asFin 4 (postQueue v) = some ⟨postQueue v, hn⟩ := asFin_val _ rfl
    have huniq : ∀ (P : Fin 4 → Prop), (∃ q : Fin 4, postQueue v = q.val ∧ P q) ↔ P ⟨postQueue v, hn⟩ := fun P =>
      ⟨fun ⟨q, hv, hp⟩ => by rwa [show (⟨postQueue v, hn⟩ : Fin 4) = q from Fin.ext hv], fun hp => ⟨_, rfl, hp⟩⟩
    rw [hq, huniq]
    generalize (⟨postQueue v, hn⟩ : Fin 4) = q
    have h3 : ¬3 < postQueue v := by omega
    interval_cases postAction v <;> simp [h3]
  · rw [asFin_none (Nat.not_lt.mp hn)]
    simp [show 3 < postQueue v by omega]

/-- A row that takes a POST write of its action, or of the code that names none, hands it to the fetch engine. -/
theorem exec_postRow {s : State} {v : BitVec 32} {c : Instr} (h : s.Handed .post v)
    (hc : c = .postTail ∧ postAction v = 0 ∨ c = .postResume ∧ postAction v = 1 ∨ c = .postReset ∧ postAction v = 2 ∨
      (c = .postTail ∨ c = .postResume ∨ c = .postReset) ∧ postAction v = 3)
    (hq : (s.post v).linkQueue = s.linkQueue) (hr : (s.post v).openRead = s.openRead) :
    exec c s = .next { s.post v with linkQueue := s.linkQueue.tail } := by
  have taken (takes : BitVec 32 → Bool) (ht : takes v = true) :
      s.act (fun s => s.takeRegister .post takes State.post) = .next { s.post v with linkQueue := s.linkQueue.tail } := by
    rw [State.act_awake h.1, State.takeRegister_handed h takes _ ht hq hr]
  rcases hc with ⟨rfl, ha⟩ | ⟨rfl, ha⟩ | ⟨rfl, ha⟩ | ⟨rfl | rfl | rfl, ha⟩ <;> exact taken _ (by simp [postRow, ha])

theorem State.post_ignored {s : State} {v : BitVec 32} (h : s.postRefused v = true) :
    s.post v = { s with postError := true } := by
  unfold State.post
  rw [if_pos h]

theorem State.abandonRead_updSq (s : State) (q : Fin 4) (f : Sq → Sq) :
    (s.updSq q f).abandonRead q = { s.updSq q f with fetch := (s.abandonRead q).fetch } := by
  simp only [State.abandonRead, State.updSq_fetch]
  split
  · split <;> rfl
  · rfl

theorem State.abandonRead_reading {s : State} {q : Fin 4} (h : ∃ got k, s.fetch = .reading q got k) :
    (s.abandonRead q).fetch = .idle := by
  obtain ⟨got, k, h⟩ := h
  simp [State.abandonRead, h]

theorem State.abandonRead_other {s : State} {q : Fin 4} (h : ∀ got k, s.fetch ≠ .reading q got k) :
    (s.abandonRead q).fetch = s.fetch := by
  unfold State.abandonRead
  split
  · rename_i q' got k hf
    rw [if_neg]
    rintro rfl
    exact h got k hf
  · rfl

section
variable {s : State} {v : BitVec 32} {q : Fin 4} (hn : postQueue v = q.val) (he : s.engine = .running)
include hn he

theorem State.post_tail (hs : (s.sq q).state ≠ .absent) (ha : postAction v = 0) (hx : postValue v < (s.sq q).size) :
    s.post v =
      { s.updSq q fun x => x.postTail (postValue v) with
        fetch := if ((s.sq q).postTail (postValue v)).state = .empty then (s.abandonRead q).fetch else s.fetch } := by
  have hsq : ((s.updSq q fun x => x.postTail (postValue v)).sq q) = (s.sq q).postTail (postValue v) :=
    State.updSq_sq_self s q _
  have hkeep : s.postRefused v = false := by
    unfold State.postRefused
    simp [asFin_val q hn, he, hs, ha, Nat.not_le.mpr hx]
  unfold State.post
  simp only [hkeep, Bool.false_eq_true, if_false, asFin_val q hn, ha, hsq, State.abandonRead_updSq]
  split <;> rfl

theorem State.post_reset (hs : (s.sq q).state ≠ .absent) (ha : postAction v = 2) :
    s.post v = { s.updSq q Sq.postReset with fetch := (s.abandonRead q).fetch } := by
  have hkeep : s.postRefused v = false := by
    unfold State.postRefused
    simp [asFin_val q hn, he, hs, ha]
  unfold State.post
  simp only [hkeep, asFin_val q hn, ha, State.abandonRead_updSq]
  rfl

theorem State.post_resume (hs : (s.sq q).state = .faulted) (ha : postAction v = 1) : s.post v = s.updSq q Sq.postResume := by
  unfold State.post State.postRefused
  simp [asFin_val q hn, he, hs, ha]

end

theorem Sq.postTail_eq (q : Sq) (v : Nat) :
    q.postTail v =
      { q with
        tail := v
        state := if q.state = .empty ∨ q.state = .ready then (if v = q.head then .empty else .ready) else q.state } := by
  unfold Sq.postTail
  cases h : q.state <;> simp

/-- Settles O25: the three actions by their equations, and the writes that are ignored. -/
theorem postActsOnItsQueue : Obligations.PostActsOnItsQueue := by
  intro s v h n x action
  refine ⟨fun q hn ha he hs hx => ?tail, fun q hn ha he hs => ?resume, fun q hn ha he hs => ?reset, fun c hc hbad => ?ignored⟩
  case tail =>
    have hpost := State.post_tail hn he hs ha hx
    refine ⟨_, exec_postRow h (.inl ⟨rfl, ha⟩) (by rw [hpost]; rfl) (by rw [hpost]; rfl), ?_⟩
    rw [hpost, ← Sq.postTail_eq]
    have hsq : (s.updSq q fun y => y.postTail x).sq q = (s.sq q).postTail x := State.updSq_sq_self s q _
    refine ⟨hsq, fun p hp => State.updSq_sq_ne s q (fun y => y.postTail x) p hp, fun hr => ?_, fun hempty hr => ?_,
      fun hne => ?_, rfl⟩
    · dsimp only
      split
      · exact State.abandonRead_other hr
      · rfl
    · exact (if_pos (hsq ▸ hempty)).trans (State.abandonRead_reading hr)
    · exact if_neg (hsq ▸ hne)
  case resume =>
    have hpost := State.post_resume hn he hs ha
    refine ⟨_, exec_postRow h (.inr (.inl ⟨rfl, ha⟩)) (by rw [hpost]; rfl) (by rw [hpost]; rfl), ?_⟩
    rw [hpost]
    exact ⟨State.updSq_sq_self s q _, fun p hp => State.updSq_sq_ne s q _ p hp, rfl⟩
  case reset =>
    have hpost := State.post_reset hn he hs ha
    refine ⟨_, exec_postRow h (.inr (.inr (.inl ⟨rfl, ha⟩))) (by rw [hpost]; rfl) (by rw [hpost]; rfl), ?_⟩
    rw [hpost]
    exact ⟨State.updSq_sq_self s q Sq.postReset, fun p hp => State.updSq_sq_ne s q Sq.postReset p hp,
      State.abandonRead_other, State.abandonRead_reading, rfl⟩
  case ignored =>
    have hrefused : s.postRefused v = true := by
      rw [State.postRefused_iff]
      rcases hbad with he | hn | ha | ⟨q, hn, hq⟩
      · exact .inl he
      · exact .inr (.inl hn)
      · rcases Nat.lt_or_ge 3 n with h3 | h3
        · exact .inr (.inl h3)
        · exact .inr (.inr ⟨⟨n, by omega⟩, rfl, .inr (.inr (.inr ha))⟩)
      · refine .inr (.inr ⟨q, hn, ?_⟩)
        rcases hq with hq | hq | hq
        · exact .inl hq
        · exact .inr (.inl hq)
        · exact .inr (.inr (.inl hq))
    have hpost := State.post_ignored hrefused
    rw [exec_postRow h hc (by rw [hpost]) (by rw [hpost]), hpost]

/-! ### RELEASE (R122, R152, R170) -/

theorem releaseTarget_lt (v : BitVec 32) : releaseTarget v < 8 := (v.extractLsb' 16 3).isLt

/-- A row that takes a RELEASE of its targets, or of a code that names none, hands it on. -/
theorem exec_releaseRow {s : State} {v : BitVec 32} {c : Instr} (h : s.Handed .release v)
    (hc : c = .releaseCq ∧ (releaseTarget v < 2 ∨ 3 < releaseTarget v) ∨ c = .releaseCap ∧ 1 < releaseTarget v)
    (hq : (s.release v).linkQueue = s.linkQueue) (hr : (s.release v).openRead = s.openRead) :
    exec c s = .next { s.release v with linkQueue := s.linkQueue.tail } := by
  have taken (takes : BitVec 32 → Bool) (ht : takes v = true) :
      s.act (fun s => s.takeRegister .release takes State.release) =
        .next { s.release v with linkQueue := s.linkQueue.tail } := by
    rw [State.act_awake h.1, State.takeRegister_handed h takes _ ht hq hr]
  have hlt := releaseTarget_lt v
  rcases hc with ⟨rfl, ht⟩ | ⟨rfl, ht⟩ <;> refine taken _ ?_ <;> simp only [releaseRow] <;>
    interval_cases releaseTarget v <;> first | rfl | omega

theorem Cq.releaseBad_iff (q : Cq) (p : Nat) :
    q.releaseBad p = false ↔
      q.size ≠ 0 ∧ p < q.size ∧ (p + q.size - q.hostHead) % q.size ≤ (q.tail + q.size - q.hostHead) % q.size := by
  simp [Cq.releaseBad, Cq.hasGeometry, inForwardRange, and_assoc]

theorem State.releaseCq_eq (s : State) (q : Fin 2) (p : Nat) :
    s.releaseCq q p =
      if (s.cq q).size ≠ 0 ∧ p < (s.cq q).size ∧
          (p + (s.cq q).size - (s.cq q).hostHead) % (s.cq q).size ≤
            ((s.cq q).tail + (s.cq q).size - (s.cq q).hostHead) % (s.cq q).size
      then { s with cqs := s.cqs.set q { s.cq q with hostHead := p } }
      else { s with releaseError := true } := by
  unfold State.releaseCq
  simp only [← Cq.releaseBad_iff]
  cases (s.cq q).releaseBad p <;> rfl

theorem CaptureStream.releaseBad_iff (c : CaptureStream) (p : Nat) :
    c.releaseBad p = false ↔
      c.state ≠ .off ∧ c.mode = .stream ∧ c.base ≤ p ∧ p < c.base + c.size ∧ p % 16 = 0 ∧
        ((p - c.base) / 16 + c.size / 16 - (c.readPos - c.base) / 16) % (c.size / 16) ≤
          ((c.writePos - c.base) / 16 + c.size / 16 - (c.readPos - c.base) / 16) % (c.size / 16) := by
  have hm : ¬c.mode = .history ↔ c.mode = .stream := by cases c.mode <;> simp
  simp [CaptureStream.releaseBad, inForwardRange, and_assoc, hm]

theorem State.releaseCapture_eq (s : State) (n : Fin 2) (p : Nat) :
    s.releaseCapture n p =
      if (s.stream n).state ≠ .off ∧ (s.stream n).mode = .stream ∧ (s.stream n).base ≤ p ∧
          p < (s.stream n).base + (s.stream n).size ∧ p % 16 = 0 ∧
          ((p - (s.stream n).base) / 16 + (s.stream n).size / 16 - ((s.stream n).readPos - (s.stream n).base) / 16) %
              ((s.stream n).size / 16) ≤
            (((s.stream n).writePos - (s.stream n).base) / 16 + (s.stream n).size / 16 -
              ((s.stream n).readPos - (s.stream n).base) / 16) % ((s.stream n).size / 16)
      then { s with streams := s.streams.set n { s.stream n with readPos := p } }
      else { s with releaseError := true } := by
  unfold State.releaseCapture
  simp only [← CaptureStream.releaseBad_iff]
  cases (s.stream n).releaseBad p <;> rfl

theorem State.release_cq {s : State} {v : BitVec 32} {q : Fin 2} (h : releaseTarget v = q.val) :
    s.release v = s.releaseCq q (releasePosition v) := by
  unfold State.release
  rw [h]
  fin_cases q <;> rfl

theorem State.release_capture {s : State} {v : BitVec 32} {n : Fin 2} (h : releaseTarget v = 2 + n.val) :
    s.release v = s.releaseCapture n (releasePosition v) := by
  unfold State.release
  rw [h]
  fin_cases n <;> rfl

theorem State.release_noTarget {s : State} {v : BitVec 32} (h : 3 < releaseTarget v) :
    s.release v = { s with releaseError := true } := by
  unfold State.release
  split <;> first | omega | rfl

/-- Settles O26: each target's owner by its equation. -/
theorem releaseMovesOrSetsError : Obligations.ReleaseMovesOrSetsError := by
  intro s v h target p
  refine ⟨fun q hq => ?cq, fun n hn => ?capture, fun h3 => ?none⟩
  case cq =>
    have hrel := (State.release_cq (s := s) hq).trans (State.releaseCq_eq s q p)
    rw [exec_releaseRow h (.inl ⟨rfl, .inl (by have := q.isLt; change target < 2; omega)⟩), hrel]
    · split <;> rfl
    · rw [hrel]; split <;> rfl
    · rw [hrel]; split <;> rfl
  case capture =>
    have hrel := (State.release_capture (s := s) hn).trans (State.releaseCapture_eq s n p)
    dsimp only
    rw [exec_releaseRow h (.inr ⟨rfl, by change 1 < target; omega⟩), hrel]
    · split <;> rfl
    · rw [hrel]; split <;> rfl
    · rw [hrel]; split <;> rfl
  case none =>
    have hrel := State.release_noTarget (s := s) h3
    have h1 : 1 < releaseTarget v := by change 3 < releaseTarget v at h3; omega
    constructor
    · rw [exec_releaseRow h (.inl ⟨rfl, .inr h3⟩) (by rw [hrel]) (by rw [hrel]), hrel]
    · rw [exec_releaseRow h (.inr ⟨rfl, h1⟩) (by rw [hrel]) (by rw [hrel]), hrel]

/-! ### The drain of START (R113, R126) -/

theorem Lane.isRunning_iff (l : Lane) : l.isRunning = true ↔ ∃ r, l.state = .running r := by
  unfold Lane.isRunning
  cases h : l.state <;> simp

/-- The drain conditions of START by the rule's words. -/
theorem State.drained_iff (s : State) :
    s.drained = true ↔
      (∀ l : Fin 4, (∀ r, (s.lane l).state ≠ .running r) ∧ (s.lane l).state ≠ .gated ∧ (s.lane l).queue = [] ∧
        (s.lane l).outbox = []) ∧ s.pendingList = [] ∧ s.fetch = .idle := by
  have hrun : ∀ l : Fin 4, (s.lane l).isRunning = false ↔ ∀ r, (s.lane l).state ≠ .running r := fun l => by
    rw [← Bool.not_eq_true, Lane.isRunning_iff, not_exists]
  simp [State.drained, mem_allLanes, hrun, and_assoc]

theorem State.nextPost_held {s : State} (h : s.postingHeld = true) : s.nextPost = none := by
  unfold State.nextPost
  rw [if_pos h]

/-- With nothing to write the rows that write do nothing. -/
theorem exec_post_none {s : State} (h : s.nextPost = none) (x : Access) :
    exec (.completionWrite x) s = .next s ∧ exec (.eventWrite x) s = .next s := by
  constructor <;>
  · change s.act _ = _
    unfold State.act State.unlessReset
    split
    · rfl
    · simp [State.postCompletion, State.postEvent, h]

/-- Settles O28: the row by the drain conditions, and the posting engine held from then on. -/
theorem startWaitsForDrain : Obligations.StartWaitsForDrain := by
  refine ⟨fun s ha he hc => ⟨fun hl hp hf => ?drained, fun hno => ?waits⟩, fun s x he hc => ?held⟩
  case drained =>
    have hd : s.drained = true := s.drained_iff.mpr ⟨hl, hp, hf⟩
    refine ⟨_, State.act_awake ha _, ?_⟩
    rw [State.startDrained, if_pos ⟨he, hc, hd⟩]
    exact ⟨rfl, State.nextPost_held (by simp [State.postingHeld, he])⟩
  case waits =>
    have hd : ¬(s.engine = .starting ∧ s.configRead = none ∧ s.drained = true) := by
      rintro ⟨-, -, hd⟩
      obtain ⟨hl, hp, hf⟩ := s.drained_iff.mp hd
      rcases hno with ⟨l, hw⟩ | hw | hw
      · obtain ⟨hr, hg, hq, ho⟩ := hl l
        rcases hw with ⟨r, hw⟩ | hw | hw | hw
        · exact hr r hw
        · exact hg hw
        · exact hw hq
        · exact hw ho
      · exact hw hp
      · exact hw hf
    exact (State.act_awake ha _).trans (by rw [State.startDrained, if_neg hd])
  case held =>
    have hn : s.nextPost = none := State.nextPost_held (by simp [State.postingHeld, he, hc])
    exact ⟨hn, exec_post_none hn x⟩

/-! ### The arbiter (R108, R109) -/

/-- The first member of a list that rises by a key, of those that have a property. -/
theorem find_first_by {α : Type} (key : α → Nat) {xs : List α} {f : α → Bool} (hs : xs.Pairwise fun a b => key a < key b)
    {c : α} (hc : c ∈ xs) (hf : f c = true) (hl : ∀ k, key k < key c → f k = false) : xs.find? f = some c := by
  induction xs with
  | nil => simp at hc
  | cons x xs ih =>
    obtain ⟨hx, hs⟩ := List.pairwise_cons.mp hs
    rcases List.mem_cons.mp hc with rfl | hm
    · simp [hf]
    · simp [hl x (hx c hm), ih hs hm]

/-- The first number after p in rotating order that has a property. -/
theorem rotateFrom_some {p q : Fin 4} {f : Fin 4 → Bool} (hq : f q = true)
    (hl : ∀ k : Fin 4, (k - (p + 1)).val < (q - (p + 1)).val → f k = false) : rotateFrom p f = some q := by
  have hrise : ∀ p : Fin 4, [p + 1, p + 2, p + 3, p].Pairwise fun a b => (a - (p + 1)).val < (b - (p + 1)).val := by decide
  have hmem : ∀ p q : Fin 4, q ∈ [p + 1, p + 2, p + 3, p] := by decide
  exact find_first_by (fun k => (k - (p + 1)).val) (hrise p) (hmem p q) hq hl

theorem rotateFrom_none {p : Fin 4} {f : Fin 4 → Bool} (h : ∀ k, f k = false) : rotateFrom p f = none := by
  simp [rotateFrom, h]

/-- An SQ that the arbiter may choose for a class (R94, R108). -/
theorem eligible_iff {q : Sq} {c : SqClass} : (q.eligible && q.cls == c) = true ↔ q.state = .ready ∧ q.cls = c := by
  simp [Sq.eligible]

theorem not_eligible_iff {q : Sq} {c : SqClass} : (q.eligible && q.cls == c) = false ↔ ¬(q.state = .ready ∧ q.cls = c) := by
  rw [← eligible_iff, Bool.not_eq_true]

/-- Settles O30: the choice by rotation, URGENT first. -/
theorem arbiterServesUrgentFirst : Obligations.ArbiterServesUrgentFirst := by
  intro s ha he hf urgent normal
  have hrun : exec .sqArbitration s = .next s.arbitrate := State.act_awake ha _
  have hnone : (∀ q, ¬urgent q) → s.urgentChoice = none := fun h => rotateFrom_none fun q => not_eligible_iff.mpr (h q)
  rw [hrun]
  refine ⟨fun q hq hl => ?urgent, fun hu hn hc => ?burst, fun q hu hq hb hl => ?newBurst, fun h => ?idle⟩
  case urgent =>
    have hchoice : s.urgentChoice = some q :=
      rotateFrom_some (eligible_iff.mpr hq) fun p hp => not_eligible_iff.mpr (hl p hp)
    simp [State.arbitrate, he, hf, hchoice]
  case burst =>
    have hchoice : s.normalChoice = some (s.normalPointer, s.burstCredit - 1) := by
      simp only [State.normalChoice]
      rw [if_pos ⟨hc, eligible_iff.mpr hn⟩]
    simp [State.arbitrate, he, hf, hnone hu, hchoice]
  case newBurst =>
    have hrotate : rotateFrom s.normalPointer (fun q => (s.sq q).eligible && (s.sq q).cls == .normal) = some q :=
      rotateFrom_some (eligible_iff.mpr hq) fun p hp => not_eligible_iff.mpr (hl p hp)
    have hchoice : s.normalChoice = some (q, (s.sq q).weight - 1) := by
      simp only [State.normalChoice]
      rw [if_neg, hrotate]
      · rfl
      · rintro ⟨hc, hn⟩
        rcases hb with hb | hb
        · exact hb (eligible_iff.mp hn)
        · omega
    simp [State.arbitrate, he, hf, hnone hu, hchoice]
  case idle =>
    have hn : ∀ q c, ((s.sq q).eligible && (s.sq q).cls == c) = false := fun q c => not_eligible_iff.mpr fun hq => h q hq.1
    have hchoice : s.normalChoice = none := by simp [State.normalChoice, hn, rotateFrom_none]
    simp [State.arbitrate, hnone fun q hq => h q hq.1, hchoice]

/-! ### Completions that are handed over at once (R102, R107) -/

/-- Settles O32: a NOP is completed DONE. -/
theorem nopCompletesDone : Obligations.NopCompletesDone := fun _ _ _ h =>
  ⟨_, State.act_withRecord h fun s q r => s.refuse q r .done none 0, State.refuse_completes .., State.refuse_only ..⟩

/-- Settles O48: with room the list accepts the held completion, without room nothing happens. -/
theorem waitPostIsAccepted : Obligations.WaitPostIsAccepted := by
  intro s c ha hf
  have hrun : exec .waitPostAccept s = .next s.acceptHeld := State.act_awake ha _
  have hroom : s.listHasRoom = decide (s.pendingList.length < 8) := rfl
  rw [hrun, State.acceptHeld, hf, hroom]
  refine ⟨fun h => ?_, fun h => ?_⟩
  · simp [h, State.offer_eq]
  · simp [Nat.not_lt.mpr h]

end Sys2Proof.Machine
end


section
/-! PROOFS. Command records by their tables: SEGMENT and HALT before delivery (R23, R40), UNBIND (R18), SET_LIMITS (R75), SET_GATE
(R59) and SNAPSHOT (R137): an equation for each outcome of a kind's handling, and the statements O34, O37, O38, O43 and O46 assembled
from them. -/

namespace Sys2Proof.Machine

-- One declaration after another: so the whole text compiles within the memory of the check.
set_option Elab.async false

/-! ### What a fetch-side answer leaves unchanged, after an effect on other blocks -/

theorem OnlyFetchSide.after_channels {s u t : State} (h : OnlyFetchSide u t) (hu : u = { s with channels := u.channels }) :
    t = { s with
      sqs := t.sqs, fetch := t.fetch, pendingList := t.pendingList, engine := t.engine, channels := t.channels } := by
  have hc : t.channels = u.channels := by rw [h]
  rw [hc]
  exact h.trans (congrArg (fun x : State =>
    { x with sqs := t.sqs, fetch := t.fetch, pendingList := t.pendingList, engine := t.engine }) hu)

theorem OnlyFetchSide.after_gates {s u t : State} (h : OnlyFetchSide u t) (hu : u = { s with gates := u.gates }) :
    t = { s with
      sqs := t.sqs, fetch := t.fetch, pendingList := t.pendingList, engine := t.engine, gates := t.gates } := by
  have hc : t.gates = u.gates := by rw [h]
  rw [hc]
  exact h.trans (congrArg (fun x : State =>
    { x with sqs := t.sqs, fetch := t.fetch, pendingList := t.pendingList, engine := t.engine }) hu)

theorem OnlyFetchSide.gate {s t : State} (h : OnlyFetchSide s t) (g : Fin 4) : t.gate g = s.gate g := by
  rw [h]; rfl

/-! ### SEGMENT and HALT before delivery (R23, R40, R110) -/

/-- An SQ becomes BLOCKED: nothing is consumed, and the fetch engine is IDLE (R110). -/
theorem State.block_answers {s t : State} {q l : Fin 4} {k : LaneKind} (e : t = s.block q l k) :
    BackToIdle s t ∧ t.sq q = { s.sq q with state := .blocked l k } ∧ (∀ p : Fin 4, p ≠ q → t.sq p = s.sq p) ∧
      OnlyFetchSide s t := by
  subst e
  unfold State.block
  rw [State.fetchIdle_eq]
  let f : Sq → Sq := fun x => { x with state := .blocked l k }
  exact ⟨⟨rfl, rfl, rfl⟩, State.updSq_sq_self s q f, fun p hp => State.updSq_sq_ne s q f p hp, rfl⟩

section
variable {s : State} {q : Fin 4} {r : List Byte}

theorem State.handleSegment_noLane (h : 3 < byteAt r 4) : s.handleSegment q r = s.refuse q r .badArgument none 0 := by
  simp only [State.handleSegment, asFin_none h]

theorem State.handleHalt_noLane (h : 3 < byteAt r 4) (offset : Nat) :
    s.handleHalt q r offset = s.refuse q r .badArgument none 0 := by
  simp only [State.handleHalt, asFin_none h]

variable {l : Fin 4} (hl : byteAt r 4 = l.val)
include hl

theorem State.handleSegment_blocked (h : (s.lane l).readyFor .segment = false) : s.handleSegment q r = s.block q l .segment := by
  simp [State.handleSegment, asFin_val l hl, h]

theorem State.handleHalt_blocked (h : (s.lane l).readyFor .halt = false) (offset : Nat) :
    s.handleHalt q r offset = s.block q l .halt := by
  simp [State.handleHalt, asFin_val l hl, h]

theorem State.handleSegment_notBound (h : (s.lane l).readyFor .segment = true) (hu : (s.lane l).state = .unbound) :
    s.handleSegment q r = s.refuse q r .notBound (some l) 0 := by
  simp [State.handleSegment, asFin_val l hl, h, hu]

theorem State.handleHalt_notBound (h : (s.lane l).readyFor .halt = true) (hu : (s.lane l).state = .unbound) (offset : Nat) :
    s.handleHalt q r offset = s.refuse q r .notBound (some l) 0 := by
  simp [State.handleHalt, asFin_val l hl, h, hu]

theorem State.handleSegment_bad (h : (s.lane l).readyFor .segment = true) (hu : (s.lane l).state ≠ .unbound) {n : Nat}
    (hn : s.segmentCheck l r = some n) : s.handleSegment q r = s.refuse q r .badSegment (some l) n := by
  simp [State.handleSegment, asFin_val l hl, h, hu, hn]

theorem State.handleSegment_delivered (h : (s.lane l).readyFor .segment = true) (hu : (s.lane l).state ≠ .unbound)
    (hn : s.segmentCheck l r = none) :
    s.handleSegment q r = ((s.consume q).deliverSegment l (segmentOf r (identity s q r))).fetchIdle := by
  simp [State.handleSegment, asFin_val l hl, h, hu, hn, State.originOf_eq]

theorem State.handleHalt_delivered (h : (s.lane l).readyFor .halt = true) (hu : (s.lane l).state ≠ .unbound) (offset : Nat) :
    s.handleHalt q r offset = ((s.consume q).takeHalt l (identity s q r) offset).fetchIdle := by
  simp [State.handleHalt, asFin_val l hl, h, hu, State.originOf_eq]

end

theorem exec_segment {s : State} {q : Fin 4} {r : List Byte} (h : s.Holds 0x02 q r) :
    exec .segment s = .next (s.handleSegment q r) := State.act_withRecord h State.handleSegment

theorem exec_halt {s : State} {q : Fin 4} {r : List Byte} (h : s.Holds 0x03 q r) (offset : Nat) :
    exec (.halt offset) s = .next (s.handleHalt q r offset) :=
  State.act_withRecord h fun s q r => s.handleHalt q r offset

/-- Settles O34: the refusals of both kinds, in the order in which their handling asks. -/
theorem laneCommandsAreRefusedInOrder : Obligations.LaneCommandsAreRefusedInOrder := by
  intro s q r c kind offset hc
  rcases hc with ⟨rfl, rfl, h⟩ | ⟨rfl, rfl, h⟩
  · rw [exec_segment h]
    refine ⟨fun h3 => ⟨_, rfl, refuse_answers (State.handleSegment_noLane h3)⟩, fun l hl =>
      ⟨fun hr => ⟨_, rfl, State.block_answers (State.handleSegment_blocked hl hr)⟩,
        fun hr hu => ⟨_, rfl, refuse_answers (State.handleSegment_notBound hl hr hu)⟩,
        fun _ hr hu n hn hlow => ⟨_, rfl, refuse_answers (State.handleSegment_bad hl hr hu ?_)⟩⟩⟩
    exact State.segmentCheck_some hn hlow
  · rw [exec_halt h]
    exact ⟨fun h3 => ⟨_, rfl, refuse_answers (State.handleHalt_noLane h3 offset)⟩, fun l hl =>
      ⟨fun hr => ⟨_, rfl, State.block_answers (State.handleHalt_blocked hl hr offset)⟩,
        fun hr hu => ⟨_, rfl, refuse_answers (State.handleHalt_notBound hl hr hu offset)⟩, fun hk => by cases hk⟩⟩

/-! ### UNBIND (R18) -/

theorem Lane.hasWork_iff (l : Lane) :
    l.hasWork = true ↔ (∃ r, l.state = .running r) ∨ l.state = .gated ∨ l.queue ≠ [] ∨ l.outbox ≠ [] := by
  simp [Lane.hasWork, Lane.isRunning_iff, or_assoc]

section
variable {s : State} {q : Fin 4} {r : List Byte} {offset : Nat}

theorem State.handleUnbind_noLane (h : 3 < byteAt r 4) : s.handleUnbind q r offset = s.refuse q r .badArgument none 0 := by
  simp only [State.handleUnbind, asFin_none h]

variable {l : Fin 4} (hl : byteAt r 4 = l.val)
include hl

theorem State.handleUnbind_notBound (h : (s.lane l).state = .unbound) :
    s.handleUnbind q r offset = s.refuse q r .notBound (some l) 0 := by
  simp [State.handleUnbind, asFin_val l hl, h]

theorem State.handleUnbind_busy (h : (s.lane l).state ≠ .unbound) (hw : (s.lane l).hasWork = true) :
    s.handleUnbind q r offset = s.refuse q r .busy (some l) 0 := by
  simp [State.handleUnbind, asFin_val l hl, h, hw]

theorem State.handleUnbind_accepted (h : (s.lane l).state ≠ .unbound) (hw : (s.lane l).hasWork = false) :
    s.handleUnbind q r offset = (s.unbindLane l offset).refuse q r .done (some l) 0 := by
  simp [State.handleUnbind, asFin_val l hl, h, hw]

end

/-- Settles O37: each outcome of R18's table by its equation, and what an accepted UNBIND writes. -/
theorem unbindFollowsItsTable : Obligations.UnbindFollowsItsTable := by
  intro s q r offset h
  refine ⟨_, State.act_withRecord h fun s q r => s.handleUnbind q r offset,
    fun h3 => refuse_answers (State.handleUnbind_noLane h3), fun l hl => ⟨fun hu => ?notBound, fun hu hb => ?busy,
      fun hu hb => ?accepted⟩⟩
  case notBound => exact refuse_answers (State.handleUnbind_notBound hl hu)
  case busy => exact refuse_answers (State.handleUnbind_busy hl hu ((s.lane l).hasWork_iff.mpr hb))
  case accepted =>
    rw [State.handleUnbind_accepted hl hu (Bool.not_eq_true _ ▸ mt (s.lane l).hasWork_iff.mp hb)]
    have only := (s.unbindLane l offset).refuse_only q r .done (some l) 0
    refine ⟨(State.refuse_completes ..).after rfl rfl rfl, ?_, fun k hk => ?_, fun c hc => ?_, fun c hc => ?_,
      only.after_channels_lanes rfl⟩
    · rw [only.lane, State.unbindLane_lane, if_pos rfl]
    · rw [only.lane, State.unbindLane_lane, if_neg hk]
    · rw [only.channel, State.unbindLane_channel, if_pos hc]
      exact ⟨Channel.turnOff_code .., rfl⟩
    · rw [only.channel, State.unbindLane_channel, if_neg hc]

/-! ### SET_LIMITS (R75) -/

theorem thresholdBad_iff (t : Nat) : thresholdBad t = true ↔ t < 100 ∨ 4000 < t ∨ t % 50 ≠ 0 := by
  simp [thresholdBad, or_assoc]

theorem bbmBad_iff (b : Nat) : bbmBad b = true ↔ b < 1 ∨ 16 < b := by
  simp [bbmBad]

/-- The lowest channel of a set with a property, by the rules' words. -/
theorem lowestChannel_eq {set : ChannelSet} {f : Fin 6 → Bool} {P : Fin 6 → Prop}
    (hP : ∀ c, P c ↔ set.getLsbD c.val = true ∧ f c = true) {c : Fin 6} (hc : P c) (hl : ∀ k, k < c → ¬P k) :
    lowestChannel set f = some c :=
  lowestChannel_some c ((hP c).mp hc).1 ((hP c).mp hc).2 fun k hk hm =>
    Bool.not_eq_true _ ▸ fun hf => hl k hk ((hP k).mpr ⟨hm, hf⟩)

theorem lowestChannel_eq_none {set : ChannelSet} {f : Fin 6 → Bool} {P : Fin 6 → Prop}
    (hP : ∀ c, P c ↔ set.getLsbD c.val = true ∧ f c = true) (h : ∀ c, ¬P c) : lowestChannel set f = none :=
  lowestChannel_none fun k hm => Bool.not_eq_true _ ▸ fun hf => h k ((hP k).mpr ⟨hm, hf⟩)

section
variable {s : State} {q : Fin 4} {r : List Byte} {offset : Nat}

theorem State.handleSetLimits_badSet (h : byteAt r 4 = 0 ∨ 64 ≤ byteAt r 4) :
    s.handleSetLimits q r offset = s.refuse q r .badArgument none 0 := by
  simp only [State.handleSetLimits, if_pos h]

variable (h : ¬(byteAt r 4 = 0 ∨ 64 ≤ byteAt r 4))
include h

theorem State.handleSetLimits_badThreshold {c : Fin 6}
    (hc : lowestChannel (BitVec.ofNat 6 (byteAt r 4)) (fun c => thresholdBad (limitThreshold r c)) = some c) :
    s.handleSetLimits q r offset = s.refuse q r .badArgument none (0x10 + c.val) := by
  simp only [State.handleSetLimits, if_neg h, hc]

variable (ht : lowestChannel (BitVec.ofNat 6 (byteAt r 4)) (fun c => thresholdBad (limitThreshold r c)) = none)
include ht

theorem State.handleSetLimits_badBbm {c : Fin 6}
    (hc : lowestChannel (BitVec.ofNat 6 (byteAt r 4)) (fun c => bbmBad (limitBbm r c)) = some c) :
    s.handleSetLimits q r offset = s.refuse q r .badArgument none (0x20 + c.val) := by
  simp only [State.handleSetLimits, if_neg h, ht, hc]

theorem State.handleSetLimits_accepted
    (hb : lowestChannel (BitVec.ofNat 6 (byteAt r 4)) (fun c => bbmBad (limitBbm r c)) = none) :
    s.handleSetLimits q r offset = (s.setLimits r (BitVec.ofNat 6 (byteAt r 4)) offset).refuse q r .done none 0 := by
  simp only [State.handleSetLimits, if_neg h, ht, hb]

end

/-- The new values of a channel, and the record of earlier intervals (R7, R75). -/
theorem State.setLimits_channel (s : State) (r : List Byte) (set : ChannelSet) (offset : Nat) (c : Fin 6) :
    (s.setLimits r set offset).channel c =
      { s.channel c with
        threshold := if set.getLsbD c.val then field16 r (20 + 2 * c.val) else (s.channel c).threshold
        bbm := if set.getLsbD c.val then byteAt r (32 + c.val) else (s.channel c).bbm
        bbmChanges :=
          if set.getLsbD c.val = true ∧ (s.channel c).code = .pwmC then
            { moment := max ((s.channel c).elapsedNs s.tick + offset) (s.channel c).applied
              before := (s.channel c).bbm } :: (s.channel c).bbmChanges
          else (s.channel c).bbmChanges } := by
  rw [State.setLimits, State.mapChannels_channel]
  cases hc : set.getLsbD c.val
  · simp
  · simp only [if_true, true_and]
    rfl

/-- Settles O38: the outcomes of R75's table, and what an accepted SET_LIMITS writes. -/
theorem setLimitsFollowsItsTable : Obligations.SetLimitsFollowsItsTable := by
  intro s q r offset h
  refine ⟨_, State.act_withRecord h fun s q r => s.handleSetLimits q r offset, ?_⟩
  intro set badThreshold badBbm
  have hT : ∀ c, badThreshold c ↔ set.getLsbD c.val = true ∧ thresholdBad (limitThreshold r c) = true := fun c => by
    rw [thresholdBad_iff]; rfl
  have hB : ∀ c, badBbm c ↔ set.getLsbD c.val = true ∧ bbmBad (limitBbm r c) = true := fun c => by rw [bbmBad_iff]; rfl
  refine ⟨fun hs => refuse_answers (State.handleSetLimits_badSet hs), fun h0 h64 => ?_⟩
  have hset : ¬(byteAt r 4 = 0 ∨ 64 ≤ byteAt r 4) := by omega
  refine ⟨fun c hc hl => ?threshold, fun ht c hc hl => ?bbm, fun ht hb => ?accepted⟩
  case threshold => exact refuse_answers (State.handleSetLimits_badThreshold hset (lowestChannel_eq hT hc hl))
  case bbm =>
    exact refuse_answers (State.handleSetLimits_badBbm hset (lowestChannel_eq_none hT ht) (lowestChannel_eq hB hc hl))
  case accepted =>
    rw [State.handleSetLimits_accepted hset (lowestChannel_eq_none hT ht) (lowestChannel_eq_none hB hb)]
    have only := (s.setLimits r set offset).refuse_only q r .done none 0
    refine ⟨(State.refuse_completes ..).after rfl rfl rfl, fun c => ?_, only.after_channels rfl⟩
    rw [only.channel, State.setLimits_channel]

/-! ### SET_GATE (R59) -/

theorem gateField_none {b : Nat} (h : b = 0 ∨ 4 < b) : gateField b = none := by
  unfold gateField
  split
  · rfl
  · exact asFin_none (by omega)

theorem gateField_val {b : Nat} (g : Fin 4) (h : b = g.val + 1) : gateField b = some g := by
  unfold gateField
  rw [if_neg (by omega)]
  exact asFin_val g (by omega)

section
variable {s : State} {q : Fin 4} {r : List Byte}

theorem State.handleSetGate_noGate (h : byteAt r 4 = 0 ∨ 4 < byteAt r 4) :
    s.handleSetGate q r = s.refuse q r .badArgument none 1 := by
  simp only [State.handleSetGate, gateField_none h]

variable {g : Fin 4} (hg : byteAt r 4 = g.val + 1)
include hg

theorem State.handleSetGate_badSet (h : 16 ≤ byteAt r 5) : s.handleSetGate q r = s.refuse q r .badArgument none 2 := by
  simp only [State.handleSetGate, gateField_val g hg, if_pos h]

variable (h : ¬16 ≤ byteAt r 5)
include h

theorem State.handleSetGate_busy {l : Fin 4}
    (hl : allLanes.find? (fun l =>
      ((s.gate g).members ||| BitVec.ofNat 4 (byteAt r 5)).getLsbD l.val && (s.lane l).gatedOn g) = some l) :
    s.handleSetGate q r = s.refuse q r .busy none l.val := by
  simp only [State.handleSetGate, gateField_val g hg, if_neg h, hl]

theorem State.handleSetGate_accepted
    (hl : allLanes.find? (fun l =>
      ((s.gate g).members ||| BitVec.ofNat 4 (byteAt r 5)).getLsbD l.val && (s.lane l).gatedOn g) = none) :
    s.handleSetGate q r =
      (s.updGate g fun x => { x with members := BitVec.ofNat 4 (byteAt r 5), timeout := field16 r 6 }).refuse q r .done none 0 := by
  simp only [State.handleSetGate, gateField_val g hg, if_neg h, hl]

end

/-- Settles O43: the outcomes of R59's table. -/
theorem setGateFollowsItsTable : Obligations.SetGateFollowsItsTable := by
  intro s q r h
  refine ⟨_, State.act_withRecord h State.handleSetGate, fun hn => refuse_answers (State.handleSetGate_noGate hn), fun g hg => ?_⟩
  intro set busy
  have hbusy : ∀ l, (((s.gate g).members ||| set).getLsbD l.val && (s.lane l).gatedOn g) = true ↔ busy l := fun l => by
    rw [Bool.and_eq_true, BitVec.getLsbD_or, Bool.or_eq_true]
  refine ⟨fun h16 => refuse_answers (State.handleSetGate_badSet hg h16), fun h16 => ⟨fun l hl hlow => ?busy, fun hn => ?accepted⟩⟩
  case busy =>
    have hfind := find_lowest_lane l ((hbusy l).mpr hl) fun k hk => Bool.not_eq_true _ ▸ mt (hbusy k).mp (hlow k hk)
    exact refuse_answers (State.handleSetGate_busy hg (Nat.not_le.mpr h16) hfind)
  case accepted =>
    have hfind : allLanes.find? (fun l => ((s.gate g).members ||| set).getLsbD l.val && (s.lane l).gatedOn g) = none :=
      List.find?_eq_none.mpr fun l _ => mt (hbusy l).mp (hn l)
    rw [State.handleSetGate_accepted hg (Nat.not_le.mpr h16) hfind]
    let f : Gate → Gate := fun x => { x with members := set, timeout := field16 r 6 }
    have only := (s.updGate g f).refuse_only q r .done none 0
    refine ⟨(State.refuse_completes ..).after rfl rfl rfl, ?_, fun k hk => ?_, only.after_gates rfl⟩
    · exact (only.gate g).trans (State.updGate_gate_self s g f)
    · exact (only.gate k).trans (State.updGate_gate_ne s g f k hk)

/-! ### The snapshot picture (section 10.7) -/

/-- The pieces of a list made of pieces of one length. -/
theorem piece_of_flatMap {α β : Type} {f : α → List β} {n : Nat} (hf : ∀ a, (f a).length = n) (rest : List β) :
    ∀ (xs : List α) (i : Nat) (h : i < xs.length), ((xs.flatMap f ++ rest).drop (n * i)).take n = f xs[i]
  | x :: xs, 0, _ => by
    rw [List.flatMap_cons, List.append_assoc, Nat.mul_zero, List.drop_zero, ← hf x, List.take_left, List.getElem_cons_zero]
  | x :: xs, i + 1, h => by
    rw [List.flatMap_cons, List.append_assoc, Nat.mul_succ, Nat.add_comm, ← List.drop_drop]
    rw [List.drop_left' (hf x), List.getElem_cons_succ]
    exact piece_of_flatMap hf rest xs i (Nat.lt_of_succ_lt_succ h)

@[simp] theorem enc8_length (n : Nat) : (enc8 n).length = 1 := rfl
@[simp] theorem enc16_length (n : Nat) : (enc16 n).length = 2 := rfl
@[simp] theorem enc32_length (n : Nat) : (enc32 n).length = 4 := rfl
@[simp] theorem encCurrent_length (i : Int) : (encCurrent i).length = 2 := rfl
@[simp] theorem laneBytes_length (l : Lane) : (laneBytes l).length = 12 := rfl
@[simp] theorem channelBytes_length (c : Channel) (i : Int) : (channelBytes c i).length = 7 := rfl
@[simp] theorem domainBytes_length (d : Domain) : (domainBytes d).length = 4 := rfl
@[simp] theorem slotByte_length (n : Slot) : (slotByte n).length = 1 := rfl

/-- The eight bytes before the lane records. -/
def State.pictureHead (s : State) : List Byte := enc32 s.tick.toNat ++ enc8 (bit s.permitOn) ++ enc8 s.permitCause ++ enc16 0

theorem State.picture_eq (s : State) :
    s.picture =
      s.pictureHead ++ ((allLanes.flatMap fun l => laneBytes (s.lane l)) ++
        ((allChannels.flatMap fun c => channelBytes (s.channel c) s.lastSample[c]) ++
          ((allDomains.flatMap fun d => domainBytes (s.domain d)) ++ (enc16 0 ++ s.slots.toList.flatMap slotByte)))) := by
  simp only [State.picture, State.pictureHead, List.append_assoc]

theorem State.picture_length (s : State) : s.picture.length = 128 := by
  rw [State.picture_eq]
  simp [State.pictureHead, allLanes, allChannels, allDomains, List.length_flatMap]

theorem State.picture_lane (s : State) (l : Fin 4) : (s.picture.drop (8 + 12 * l.val)).take 12 = laneBytes (s.lane l) := by
  have hhead : s.pictureHead.length = 8 := rfl
  rw [State.picture_eq, ← List.drop_drop, List.drop_left' hhead,
    piece_of_flatMap (fun l => laneBytes_length (s.lane l)) _ allLanes l.val l.isLt]
  fin_cases l <;> rfl

theorem State.picture_channel (s : State) (c : Fin 6) :
    (s.picture.drop (0x38 + 7 * c.val)).take 7 = channelBytes (s.channel c) s.lastSample[c] := by
  have hhead : (s.pictureHead ++ allLanes.flatMap fun l => laneBytes (s.lane l)).length = 0x38 := rfl
  rw [State.picture_eq, ← List.append_assoc, ← List.drop_drop, List.drop_left' hhead,
    piece_of_flatMap (fun c => channelBytes_length (s.channel c) s.lastSample[c]) _ allChannels c.val c.isLt]
  fin_cases c <;> rfl

theorem State.picture_domain (s : State) (d : Fin 3) :
    (s.picture.drop (0x62 + 4 * d.val)).take 4 = domainBytes (s.domain d) := by
  have hhead : (s.pictureHead ++ (allLanes.flatMap fun l => laneBytes (s.lane l)) ++
      allChannels.flatMap fun c => channelBytes (s.channel c) s.lastSample[c]).length = 0x62 := rfl
  rw [State.picture_eq, ← List.append_assoc, ← List.append_assoc, ← List.drop_drop, List.drop_left' hhead,
    piece_of_flatMap (fun d => domainBytes_length (s.domain d)) _ allDomains d.val d.isLt]
  fin_cases d <;> rfl

theorem State.picture_slot (s : State) (n : Fin 16) : (s.picture.drop (0x70 + n.val)).take 1 = slotByte (s.slot n) := by
  have hpiece := piece_of_flatMap slotByte_length [] s.slots.toList n.val (by simp)
  have hhead : (s.pictureHead ++ (allLanes.flatMap fun l => laneBytes (s.lane l)) ++
      (allChannels.flatMap fun c => channelBytes (s.channel c) s.lastSample[c]) ++
      (allDomains.flatMap fun d => domainBytes (s.domain d)) ++ enc16 0).length = 0x70 := rfl
  rw [List.append_nil, Nat.one_mul] at hpiece
  rw [State.picture_eq, ← List.append_assoc, ← List.append_assoc, ← List.append_assoc, ← List.append_assoc, ← List.drop_drop,
    List.drop_left' hhead, hpiece]
  rfl

/-! ### SNAPSHOT (R137) -/

section
variable {s : State} {q : Fin 4} {r : List Byte}

theorem State.handleSnapshot_misaligned (h : field16 r 4 % 16 ≠ 0) :
    s.handleSnapshot q r = s.refuse q r .badArgument none 1 := by
  simp only [State.handleSnapshot, if_pos h]

variable (ha : field16 r 4 % 16 = 0)
include ha

theorem State.handleSnapshot_outOfRange (h : 0x3F80 < field16 r 4) :
    s.handleSnapshot q r = s.refuse q r .badArgument none 2 := by
  have hx : Config.xmSize < field16 r 4 + 128 := by unfold Config.xmSize; omega
  simp only [State.handleSnapshot, if_neg (not_not.mpr ha), if_pos hx]

variable (hr : field16 r 4 ≤ 0x3F80)
include hr

theorem State.handleSnapshot_overlap (h : SharesByte s none (field16 r 4) 128) :
    s.handleSnapshot q r = s.refuse q r .badArgument none 3 := by
  have hx : ¬Config.xmSize < field16 r 4 + 128 := by unfold Config.xmSize; omega
  simp only [State.handleSnapshot, if_neg (not_not.mpr ha), if_neg hx, if_pos (State.overlaps_iff.mpr h)]

theorem State.handleSnapshot_accepted (h : ¬SharesByte s none (field16 r 4) 128) :
    s.handleSnapshot q r = { s.consume q with fetch := .snapshotting (field16 r 4) (identity s q r) s.picture 0 } := by
  have hx : ¬Config.xmSize < field16 r 4 + 128 := by unfold Config.xmSize; omega
  simp only [State.handleSnapshot, if_neg (not_not.mpr ha), if_neg hx, if_neg (mt State.overlaps_iff.mp h), State.originOf_eq]

end

/-- Settles O46: the refusals of R137, and the picture by its layout. -/
theorem snapshotTakesItsPicture : Obligations.SnapshotTakesItsPicture := by
  intro s q r h
  refine ⟨_, State.act_withRecord h State.handleSnapshot, fun ha => refuse_answers (State.handleSnapshot_misaligned ha),
    fun ha hr => refuse_answers (State.handleSnapshot_outOfRange ha hr),
    fun ha hr ho => refuse_answers (State.handleSnapshot_overlap ha hr ho), fun ha hr ho => ?accepted⟩
  obtain ⟨hc, ht⟩ := State.consume_fetching (State.handleSnapshot_accepted (q := q) ha hr ho)
  exact ⟨hc, s.picture, ht, s.picture_length, rfl, s.picture_lane, s.picture_channel, s.picture_domain, s.picture_slot⟩

end Sys2Proof.Machine
end


section
/-! PROOFS. The capture commands and sample instants: CAPTURE_START (R146, R147), CAPTURE_STOP (R156, R157) and the sample instant
(R148 to R153): O44, O45 and O19. -/

namespace Sys2Proof.Machine

-- One declaration after another: so the whole text compiles within the memory of the check.
set_option Elab.async false

/-! ### CAPTURE_START (R146, R147) -/

theorem OnlyFetchSide.after_streams {s u t : State} (h : OnlyFetchSide u t) (hu : u = { s with streams := u.streams }) :
    t = { s with
      sqs := t.sqs, fetch := t.fetch, pendingList := t.pendingList, engine := t.engine, streams := t.streams } := by
  have hc : t.streams = u.streams := by rw [h]
  rw [hc]
  exact h.trans (congrArg (fun x : State =>
    { x with sqs := t.sqs, fetch := t.fetch, pendingList := t.pendingList, engine := t.engine }) hu)

theorem OnlyFetchSide.stream {s t : State} (h : OnlyFetchSide s t) (n : Fin 2) : t.stream n = s.stream n := by
  rw [h]; rfl

theorem modeField_eq (b : Nat) : modeField b = if 1 < b then none else some (if b = 0 then .stream else .history) := by
  match b with
  | 0 => rfl
  | 1 => rfl
  | n + 2 => rw [if_pos (by omega)]; rfl

theorem triggerField_none {b l : Nat} : triggerField b l = none ↔ 1 < b ∨ (b = 1 ∧ 3 < l) := by
  match b with
  | 0 => simp [triggerField]
  | 1 => simp [triggerField, asFin]; omega
  | n + 2 => simp [triggerField]

theorem freezeField_none {b l : Nat} : freezeField b l = none ↔ 2 < b ∨ (b = 1 ∧ 3 < l) := by
  match b with
  | 0 => simp [freezeField]
  | 1 => simp [freezeField, asFin]; omega
  | 2 => simp [freezeField]
  | n + 3 => simp [freezeField]

section
variable {s : State} {q : Fin 4} {r : List Byte}

theorem State.handleCaptureStart_noStream (h : 1 < byteAt r 4) :
    s.handleCaptureStart q r = s.refuse q r .badArgument none 1 := by
  simp only [State.handleCaptureStart, asFin_none h]

variable {n : Fin 2} (hn : byteAt r 4 = n.val)
include hn

theorem State.handleCaptureStart_busy
    (h : (s.stream n).state = .armed ∨ (s.stream n).state = .running ∨ (s.stream n).state = .overrun) :
    s.handleCaptureStart q r = s.refuse q r .busy none (s.stream n).state.code := by
  simp only [State.handleCaptureStart, asFin_val n hn, if_pos h]

/-- The checks of R146 for a stream that is OFF or FROZEN, in their order. -/
theorem State.handleCaptureStart_free (h : (s.stream n).state = .off ∨ (s.stream n).state = .frozen) :
    s.handleCaptureStart q r =
      if 1 < byteAt r 5 then s.refuse q r .badArgument none 2
      else if field16 r 8 % 16 ≠ 0 then s.refuse q r .badArgument none 3
      else if field16 r 10 < 256 ∨ 8192 < field16 r 10 ∨ field16 r 10 % 16 ≠ 0 then s.refuse q r .badArgument none 4
      else if 16384 < field16 r 8 + field16 r 10 then s.refuse q r .badArgument none 5
      else
        match triggerField (byteAt r 12) (byteAt r 13) with
        | none => s.refuse q r .badArgument none 6
        | some t =>
          if byteAt r 5 = 1 ∧ freezeField (byteAt r 14) (byteAt r 15) = none then s.refuse q r .badArgument none 7
          else if s.overlaps (some n) (field16 r 8, field16 r 10) then s.refuse q r .badArgument none 8
          else
            (s.updStream n fun _ =>
              startedStream s.tick (if byteAt r 5 = 0 then .stream else .history) (field16 r 8) (field16 r 10) (byteAt r 6 + 1) t
                ((freezeField (byteAt r 14) (byteAt r 15)).getD .manual)).refuse q r .done none 0 := by
  have hb : ¬((s.stream n).state = .armed ∨ (s.stream n).state = .running ∨ (s.stream n).state = .overrun) := by
    rcases h with h | h <;> simp [h]
  simp only [State.handleCaptureStart, asFin_val n hn, if_neg hb, modeField_eq]
  by_cases hm : 1 < byteAt r 5
  · simp only [if_pos hm]
  · have hmode : ((if byteAt r 5 = 0 then CaptureMode.stream else .history) = .history) ↔ byteAt r 5 = 1 := by
      split <;> rename_i h0 <;> simp <;> omega
    simp only [if_neg hm, hmode, Config.xmSize] <;> rfl

end

/-- The record of a started stream, by the fields of its command (R147). -/
theorem startedStream_trigger_eq (now : Tick) (m : CaptureMode) (b z i : Nat) (f : FreezeCondition) :
    (startedStream now m b z i .immediate f).state = .running ∧ (startedStream now m b z i .immediate f).nextInstant = some (now + 1) ∧
      ∀ l, (startedStream now m b z i (.laneStart l) f).state = .armed ∧
        (startedStream now m b z i (.laneStart l) f).nextInstant = none := by
  simp [startedStream]

/-- Settles O44: the refusals in the order of R146, and the started stream. -/
theorem captureStartFollowsItsTable : Obligations.CaptureStartFollowsItsTable := by
  intro s q r h
  refine ⟨_, State.act_withRecord h State.handleCaptureStart, fun hn => refuse_answers (State.handleCaptureStart_noStream hn),
    fun n hn => ?_⟩
  intro st base size refused free badMode badSize badTrigger badFreeze overlap
  have hT : badTrigger ↔ triggerField (byteAt r 12) (byteAt r 13) = none := triggerField_none.symm
  have hF : badFreeze ↔ byteAt r 5 = 1 ∧ freezeField (byteAt r 14) (byteAt r 15) = none := by rw [freezeField_none]
  have hO : s.overlaps (some n) (base, size) = true ↔ overlap := State.overlaps_iff
  have heq : free → s.handleCaptureStart q r = _ := State.handleCaptureStart_free hn
  refine ⟨fun hb => ?armed, fun hb => ?running, fun hb => ?overrun, fun hf hm => ?mode, fun hf hm ha => ?base,
    fun hf hm ha hz => ?size, fun hf hm ha hz hr => ?range, fun hf hm ha hz hr ht => ?trigger,
    fun hf hm ha hz hr ht hc => ?freeze, fun hf hm ha hz hr ht hc ho => ?overlap, fun hf hm ha hz hr ht hc ho => ?accepted⟩
  case armed =>
    refine refuse_answers ((State.handleCaptureStart_busy hn (.inl hb)).trans ?_)
    rw [show (s.stream n).state = .armed from hb]; rfl
  case running =>
    refine refuse_answers ((State.handleCaptureStart_busy hn (.inr (.inl hb))).trans ?_)
    rw [show (s.stream n).state = .running from hb]; rfl
  case overrun =>
    refine refuse_answers ((State.handleCaptureStart_busy hn (.inr (.inr hb))).trans ?_)
    rw [show (s.stream n).state = .overrun from hb]; rfl
  case mode => exact refuse_answers ((heq hf).trans (if_pos hm))
  case base => exact refuse_answers ((heq hf).trans (by rw [if_neg hm, if_pos ha]))
  case size => exact refuse_answers ((heq hf).trans (by rw [if_neg hm, if_neg (not_not.mpr ha), if_pos hz]))
  case range =>
    exact refuse_answers ((heq hf).trans (by rw [if_neg hm, if_neg (not_not.mpr ha), if_neg hz, if_pos hr]))
  case trigger =>
    refine refuse_answers ((heq hf).trans ?_)
    rw [if_neg hm, if_neg (not_not.mpr ha), if_neg hz, if_neg (Nat.not_lt.mpr hr), hT.mp ht]
  all_goals obtain ⟨t, htr⟩ := Option.ne_none_iff_exists'.mp (mt hT.mpr ht)
  case freeze =>
    refine refuse_answers ((heq hf).trans ?_)
    rw [if_neg hm, if_neg (not_not.mpr ha), if_neg hz, if_neg (Nat.not_lt.mpr hr), htr]
    exact if_pos (hF.mp hc)
  case overlap =>
    refine refuse_answers ((heq hf).trans ?_)
    rw [if_neg hm, if_neg (not_not.mpr ha), if_neg hz, if_neg (Nat.not_lt.mpr hr), htr]
    exact (if_neg (mt hF.mpr hc)).trans (if_pos (hO.mpr ho))
  case accepted =>
    let started := startedStream s.tick (if byteAt r 5 = 0 then .stream else .history) base size (byteAt r 6 + 1) t
      ((freezeField (byteAt r 14) (byteAt r 15)).getD .manual)
    have hrun : s.handleCaptureStart q r = (s.updStream n fun _ => started).refuse q r .done none 0 := by
      rw [heq hf, if_neg hm, if_neg (not_not.mpr ha), if_neg hz, if_neg (Nat.not_lt.mpr hr), htr]
      exact (if_neg (mt hF.mpr hc)).trans (if_neg (mt hO.mp ho))
    have only := (s.updStream n fun _ => started).refuse_only q r .done none 0
    have hself : ((s.updStream n fun _ => started).refuse q r .done none 0).stream n = started :=
      (only.stream n).trans (State.updStream_stream_self s n _)
    rw [hrun, hself]
    obtain ⟨hi, hin, hl⟩ := startedStream_trigger_eq s.tick (if byteAt r 5 = 0 then .stream else .history) base size
      (byteAt r 6 + 1) ((freezeField (byteAt r 14) (byteAt r 15)).getD .manual)
    refine ⟨(State.refuse_completes ..).after rfl rfl rfl, rfl, rfl, rfl, rfl, rfl, rfl, rfl, rfl, rfl, fun h12 => ?_,
      fun l h12 h13 => ?_, fun _ h14 => ?_, fun l _ h14 h15 => ?_, fun _ h14 => ?_, fun k hk => ?_, only.after_streams rfl⟩
    · obtain rfl : Trigger.immediate = t := by simpa [triggerField, h12] using htr
      exact ⟨rfl, hi, hin⟩
    · obtain rfl : Trigger.laneStart l = t := by simpa [triggerField, h12, asFin_val l h13] using htr
      exact ⟨rfl, (hl l).1, (hl l).2⟩
    · simp [started, startedStream, freezeField, h14]
    · simp [started, startedStream, freezeField, h14, asFin_val l h15]
    · simp [started, startedStream, freezeField, h14]
    · exact (only.stream k).trans (State.updStream_stream_ne s n _ k hk)

/-! ### The sample instant (R148 to R153) -/

/-- A stream writes a record at a sample instant: in HISTORY mode always, else with room (R149, R150, R153). -/
abbrev CaptureStream.writes (c : CaptureStream) : Prop := c.mode = .history ∨ c.nextPos ≠ c.readPos

/-- The stream after one record has been written at its write position (R149). -/
def CaptureStream.wrote (c : CaptureStream) : CaptureStream :=
  { c with
    writePos := c.nextPos
    wrapCount := if c.writePos + 16 = c.base + c.size then satSucc 16777215 c.wrapCount else c.wrapCount }

/-- The event table after a record has been written: a STREAM ring that returns to its base hands CAPTURE_WRAP (R149, R157). -/
def State.wrapEvents (s : State) (n : Fin 2) : Vector (Option Occurrence) 12 :=
  let c := s.stream n
  if c.writePos + 16 = c.base + c.size ∧ c.mode = .stream then
    let w := c.wrote.wrapCount
    (s.recordEvent (captureWrapSource n) { first := w % 256, second := w / 256 % 256, third := w / 65536 }).events
  else s.events

theorem State.writeCapture_eq (s : State) (n : Fin 2) (record : List Byte) :
    s.writeCapture n record =
      { s.updStream n CaptureStream.wrote with
        xm := Memory.writeBytes s.xm (s.stream n).writePos record, rotation := .capture, events := s.wrapEvents n } := by
  have hnext (he : (s.stream n).writePos + 16 = (s.stream n).base + (s.stream n).size) :
      (s.stream n).nextPos = (s.stream n).base := if_pos he
  unfold State.writeCapture State.wrapEvents CaptureStream.wrote State.updStream State.recordEvent State.updEvent
  by_cases he : (s.stream n).writePos + 16 = (s.stream n).base + (s.stream n).size
  · by_cases hm : (s.stream n).mode = .stream
    · simp [State.stream] at *
      simp [he, hm, hnext]
    · simp [State.stream] at *
      simp [he, hm, hnext]
  · simp [State.stream] at *
    simp [he]

/-- What every sample instant does to its stream: the next sequence and the next instant (R148). -/
def CaptureStream.next (now : Tick) (c : CaptureStream) : CaptureStream :=
  { c with sequence := (c.sequence + 1) % 256, nextInstant := some (now + BitVec.ofNat 32 c.interval) }

/-- A stream after a sample that it drops (R150). -/
def CaptureStream.overran (now : Tick) (c : CaptureStream) : CaptureStream :=
  { c.next now with
    state := .overrun, dropCount := if c.state = .overrun then min 4294967295 (c.dropCount + 1) else 1 }

/-- A stream after the GAP record that ends its overrun (R151). -/
def CaptureStream.resumed (now : Tick) (c : CaptureStream) : CaptureStream :=
  { c.wrote.next now with dropCount := 0, state := .running }

theorem State.updStream_updStream (s : State) (n : Fin 2) (f g : CaptureStream → CaptureStream) :
    (s.updStream n f).updStream n g = s.updStream n (g ∘ f) := by
  simp [State.updStream]

section
variable {s : State} {n : Fin 2} (hd : s.instantDue n = true)
include hd

theorem State.instantDue_state : (s.stream n).state = .running ∨ (s.stream n).state = .overrun := by
  simp only [State.instantDue, Bool.and_eq_true, Bool.or_eq_true, beq_iff_eq] at hd
  exact hd.1

/-- A SAMPLE record (R148, R153). -/
theorem State.captureInstant_sample
    (h : (s.stream n).mode = .history ∨ (s.stream n).nextPos ≠ (s.stream n).readPos ∧ (s.stream n).state = .running) :
    s.captureInstant n =
      { s.updStream n fun c => c.wrote.next s.tick with
        xm := Memory.writeBytes s.xm (s.stream n).writePos (sampleBytes (s.stream n).sequence s.tick s.lastSample)
        rotation := .capture, events := s.wrapEvents n } := by
  have hrecord : s.captureRecord n = s.writeCapture n (sampleBytes (s.stream n).sequence s.tick s.lastSample) := by
    unfold State.captureRecord
    rcases h with h | ⟨hr, hs⟩
    · simp [h]
    · by_cases hm : (s.stream n).mode = .history
      · simp [hm]
      · simp [hm, CaptureStream.hasRoom, hr, hs]
  rw [State.captureInstant, if_pos hd, hrecord, State.writeCapture_eq]
  exact congrArg (fun u : State => { u with
    xm := Memory.writeBytes s.xm (s.stream n).writePos (sampleBytes (s.stream n).sequence s.tick s.lastSample)
    rotation := .capture, events := s.wrapEvents n }) (State.updStream_updStream s n CaptureStream.wrote (CaptureStream.next s.tick))

variable (hm : (s.stream n).mode = .stream)
include hm

/-- A GAP record, with which the stream leaves OVERRUN (R151). -/
theorem State.captureInstant_gap (hr : (s.stream n).nextPos ≠ (s.stream n).readPos) (hs : (s.stream n).state = .overrun) :
    s.captureInstant n =
      { s.updStream n (CaptureStream.resumed s.tick) with
        xm := Memory.writeBytes s.xm (s.stream n).writePos
          (gapBytes (s.stream n).sequence s.tick (satSucc 4294967295 (s.stream n).dropCount))
        rotation := .capture, events := s.wrapEvents n } := by
  have hrecord : s.captureRecord n =
      (s.writeCapture n (gapBytes (s.stream n).sequence s.tick (satSucc 4294967295 (s.stream n).dropCount))).updStream n
        fun c => { c with dropCount := 0, state := .running } := by
    unfold State.captureRecord
    simp [hm, CaptureStream.hasRoom, hr, hs]
  rw [State.captureInstant, if_pos hd, hrecord, State.writeCapture_eq, State.updStream_updStream]
  exact congrArg (fun u : State => { u with
    xm := Memory.writeBytes s.xm (s.stream n).writePos
      (gapBytes (s.stream n).sequence s.tick (satSucc 4294967295 (s.stream n).dropCount))
    rotation := .capture, events := s.wrapEvents n }) (State.updStream_updStream s n CaptureStream.wrote _)

variable (hr : (s.stream n).nextPos = (s.stream n).readPos)
include hr

/-- A sample that is dropped; the first one enters OVERRUN (R150, R157). -/
theorem State.captureInstant_drop :
    s.captureInstant n =
      { s.updStream n (CaptureStream.overran s.tick) with
        events :=
          if (s.stream n).state = .running then
            (s.recordEvent (captureStateSource n)
              { first := 1, second := (s.stream n).recordIndex % 256, third := (s.stream n).recordIndex / 256 }).events
          else s.events } := by
  rw [State.captureInstant, if_pos hd]
  unfold State.captureRecord
  rcases State.instantDue_state hd with hs | hs
  · simp only [hm, hs, CaptureStream.hasRoom, hr]
    simp [State.captureStateEvent, State.updStream, State.recordEvent, State.updEvent, State.stream, CaptureStream.next,
      CaptureStream.overran, CaptureStream.recordIndex] at *
    simp [hs]
  · simp only [hm, hs, CaptureStream.hasRoom, hr]
    simp [State.updStream, State.stream, CaptureStream.next, CaptureStream.overran, satSucc_eq] at *
    simp [hs]

end

theorem captureWrapSource_ne (n : Fin 2) : captureWrapSource n ≠ captureStateSource n := by revert n; decide

theorem State.recordEvent_event_self (s : State) (e : Fin 12) (d : EventDetail) :
    (s.recordEvent e d).event e = foldOccurrence s.tick d (s.event e) := State.updEvent_event_self ..

theorem State.recordEvent_event_ne (s : State) (e : Fin 12) (d : EventDetail) {k : Fin 12} (h : k ≠ e) :
    (s.recordEvent e d).event k = s.event k := State.updEvent_event_ne _ _ _ _ h

theorem State.wrapEvents_self (s : State) (n : Fin 2) :
    (s.wrapEvents n)[captureWrapSource n] =
      if (s.stream n).mode = .stream ∧ (s.stream n).writePos + 16 = (s.stream n).base + (s.stream n).size then
        foldOccurrence s.tick
          { first := (s.stream n).wrote.wrapCount % 256, second := (s.stream n).wrote.wrapCount / 256 % 256
            third := (s.stream n).wrote.wrapCount / 65536 } (s.event (captureWrapSource n))
      else s.event (captureWrapSource n) := by
  simp only [State.wrapEvents, and_comm (a := (s.stream n).mode = .stream)]
  split
  · exact s.recordEvent_event_self _ _
  · rfl

theorem State.wrapEvents_ne (s : State) (n : Fin 2) {e : Fin 12} (h : e ≠ captureWrapSource n) :
    (s.wrapEvents n)[e] = s.event e := by
  unfold State.wrapEvents
  dsimp only
  split
  · exact s.recordEvent_event_ne _ _ h
  · rfl

theorem sampleBytes_length (q : Nat) (now : Tick) (v : Vector Int 6) : (sampleBytes q now v).length = 16 := by
  simp [sampleBytes, List.length_flatMap]

theorem gapBytes_length (q : Nat) (now : Tick) (d : Nat) : (gapBytes q now d).length = 16 := rfl

theorem CaptureStream.wrote_eq (c : CaptureStream) :
    c.wrote =
      { c with
        writePos := if c.writePos + 16 = c.base + c.size then c.base else c.writePos + 16
        wrapCount := if c.writePos + 16 = c.base + c.size then min 16777215 (c.wrapCount + 1) else c.wrapCount } := by
  simp only [CaptureStream.wrote, CaptureStream.nextPos, satSucc_eq]

/-- What stands in memory after a record of 16 bytes has been written. -/
theorem Memory.record_written {m : Memory} {a : Nat} {record : List Byte} (hm : m.wf = true) (hl : record.length = 16)
    (ha : a + 16 ≤ Config.xmSize) :
    (∀ i (h : i < record.length), (m.writeBytes a record).read (a + i) = record[i]) ∧
      ∀ b, (b < a ∨ a + 16 ≤ b) → (m.writeBytes a record).read b = m.read b :=
  ⟨Memory.read_writeBytes_inside record a hm (by rw [hl]; exact ha),
    fun b hb => Memory.read_writeBytes_outside record a hm b (by rw [hl]; exact hb)⟩

/-- A sample instant that is due by the rules' words: a SAMPLE or GAP record is written, or the sample is dropped (R148 to R151,
R153). -/
structure SampleTaken (s t : State) (n : Fin 2) : Prop where
  other : ∀ m : Fin 2, m ≠ n → t.stream m = s.stream m
  outside : (s.stream n).writes → ∀ a, (a < (s.stream n).writePos ∨ (s.stream n).writePos + 16 ≤ a) →
    Memory.read t.xm a = Memory.read s.xm a
  sample : (s.stream n).writes → (s.stream n).mode = .history ∨ (s.stream n).state = .running →
    memoryHolds t (s.stream n).writePos (sampleBytes (s.stream n).sequence s.tick s.lastSample) ∧
      t.stream n = (s.stream n).wrote.next s.tick
  gap : (s.stream n).writes → (s.stream n).mode = .stream → (s.stream n).state = .overrun →
    memoryHolds t (s.stream n).writePos
        (gapBytes (s.stream n).sequence s.tick (min 4294967295 ((s.stream n).dropCount + 1))) ∧
      t.stream n = (s.stream n).resumed s.tick
  dropped : ¬(s.stream n).writes → t.xm = s.xm ∧ t.stream n = (s.stream n).overran s.tick
  wrap : t.event (captureWrapSource n) =
    if (s.stream n).writes then (s.wrapEvents n)[captureWrapSource n] else s.event (captureWrapSource n)
  entered : t.event (captureStateSource n) =
    if ¬(s.stream n).writes ∧ (s.stream n).state = .running then
      foldOccurrence s.tick
        { first := 1, second := (s.stream n).recordIndex % 256, third := (s.stream n).recordIndex / 256 }
        (s.event (captureStateSource n))
    else s.event (captureStateSource n)
  rest : ∀ e : Fin 12, e ≠ captureWrapSource n → e ≠ captureStateSource n → t.event e = s.event e
  frame : t = { s with xm := t.xm, rotation := t.rotation, streams := t.streams, events := t.events }

theorem CaptureMode.not_history_iff {m : CaptureMode} : m ≠ .history ↔ m = .stream := by cases m <;> simp

theorem State.captureInstant_taken {s : State} {n : Fin 2} (hd : s.instantDue n = true) (hm : s.MemoryOk)
    (hw : (s.stream n).writePos + 16 ≤ Config.xmSize) : SampleTaken s (s.captureInstant n) n := by
  have hstate := State.instantDue_state hd
  by_cases hroom : (s.stream n).writes
  case neg =>
    obtain ⟨hmode, hfull⟩ := not_or.mp hroom
    have hstream := CaptureMode.not_history_iff.mp hmode
    rw [State.captureInstant_drop hd hstream (not_not.mp hfull)]
    exact {
      other := fun m hm => State.updStream_stream_ne s n (CaptureStream.overran s.tick) m hm
      outside := fun h => absurd h hroom
      sample := fun h => absurd h hroom
      gap := fun h => absurd h hroom
      dropped := fun _ => ⟨rfl, State.updStream_stream_self s n (CaptureStream.overran s.tick)⟩
      wrap := by
        rw [if_neg hroom]
        by_cases hs : (s.stream n).state = .running
        · exact (congrArg (fun v : Vector (Option Occurrence) 12 => v[captureWrapSource n]) (if_pos hs)).trans
            (s.recordEvent_event_ne _ _ (captureWrapSource_ne n))
        · exact congrArg (fun v : Vector (Option Occurrence) 12 => v[captureWrapSource n]) (if_neg hs)
      entered := by
        by_cases hs : (s.stream n).state = .running
        · exact ((congrArg (fun v : Vector (Option Occurrence) 12 => v[captureStateSource n]) (if_pos hs)).trans
            (s.recordEvent_event_self _ _)).trans (if_pos ⟨hroom, hs⟩).symm
        · exact (congrArg (fun v : Vector (Option Occurrence) 12 => v[captureStateSource n]) (if_neg hs)).trans
            (if_neg fun h => hs h.2).symm
      rest := fun e _ he => by
        by_cases hs : (s.stream n).state = .running
        · exact (congrArg (fun v : Vector (Option Occurrence) 12 => v[e]) (if_pos hs)).trans (s.recordEvent_event_ne _ _ he)
        · exact congrArg (fun v : Vector (Option Occurrence) 12 => v[e]) (if_neg hs)
      frame := rfl }
  case pos =>
    have entered (P : Prop) [Decidable P] (h : P → ¬(s.stream n).writes) (a b : Option Occurrence) : (if P then a else b) = b :=
      if_neg fun hp => h hp hroom
    by_cases hs : (s.stream n).mode = .history ∨ (s.stream n).state = .running
    case pos =>
      have hsample : (s.stream n).mode = .history ∨
          (s.stream n).nextPos ≠ (s.stream n).readPos ∧ (s.stream n).state = .running := by tauto
      rw [State.captureInstant_sample hd hsample]
      obtain ⟨hin, hout⟩ := Memory.record_written hm (sampleBytes_length (s.stream n).sequence s.tick s.lastSample) hw
      let sampled : CaptureStream → CaptureStream := fun c => c.wrote.next s.tick
      exact {
        other := fun m hm => State.updStream_stream_ne s n sampled m hm
        outside := fun _ => hout
        sample := fun _ _ => ⟨hin, State.updStream_stream_self s n sampled⟩
        gap := fun _ hm ho => by rcases hs with hs | hs <;> simp_all
        dropped := fun h => absurd hroom h
        wrap := (if_pos hroom).symm
        entered := (s.wrapEvents_ne n (captureWrapSource_ne n).symm).trans (entered _ And.left _ _).symm
        rest := fun e he _ => s.wrapEvents_ne n he
        frame := rfl }
    case neg =>
      obtain ⟨hmode, hnotrun⟩ := not_or.mp hs
      have hstream := CaptureMode.not_history_iff.mp hmode
      rw [State.captureInstant_gap hd hstream (hroom.resolve_left hmode) (hstate.resolve_left hnotrun)]
      obtain ⟨hin, hout⟩ := Memory.record_written hm
        (gapBytes_length (s.stream n).sequence s.tick (satSucc 4294967295 (s.stream n).dropCount)) hw
      exact {
        other := fun m hm => State.updStream_stream_ne s n (CaptureStream.resumed s.tick) m hm
        outside := fun _ => hout
        sample := fun _ h => absurd h hs
        gap := fun _ _ _ => ⟨satSucc_eq 4294967295 (s.stream n).dropCount ▸ hin, State.updStream_stream_self s n (CaptureStream.resumed s.tick)⟩
        dropped := fun h => absurd hroom h
        wrap := (if_pos hroom).symm
        entered := (s.wrapEvents_ne n (captureWrapSource_ne n).symm).trans (entered _ And.left _ _).symm
        rest := fun e he _ => s.wrapEvents_ne n he
        frame := rfl }

/-- Settles O19: the instant is taken after the accesses of the fetch side, which leave the streams as they are. -/
theorem sampleInstantWritesOrDrops : Obligations.SampleInstantWritesOrDrops := by
  intro s n x ha hmem hd hw u
  have hexec (f : State) (h : s.withAccess .capture x (fun s => s.captureInstant n) = f) :
      exec (.captureSampleInstant n x) s = .next f := (State.act_awake ha _).trans (by rw [if_pos hd, h])
  have hframe : u = { s with xm := u.xm, rotation := u.rotation, configRead := u.configRead, fetch := u.fetch } :=
    s.fetchTurns_frame x.turns
  refine ⟨fun h => hexec _ (State.withAccess_later h _), fun h => ⟨_, hexec _ (State.withAccess_served h _), ?_⟩⟩
  have hud : u.instantDue n = true := by rw [hframe]; exact hd
  have hstream : u.stream n = s.stream n := by rw [hframe]; rfl
  have hevents : ∀ e, u.event e = s.event e := fun e => by rw [hframe]; rfl
  have htick : u.tick = s.tick := by rw [hframe]
  have hlast : u.lastSample = s.lastSample := by rw [hframe]
  obtain ⟨other, outside, sample, gap, dropped, wrap, entered, rest, frame⟩ :=
    State.captureInstant_taken hud (State.fetchTurns_memoryOk hmem _) (by rw [hstream]; exact hw)
  rw [hstream, htick, hlast] at sample
  rw [hstream, htick] at gap dropped
  rw [hstream] at outside
  rw [State.wrapEvents_self, hstream, htick, hevents] at wrap
  rw [hstream, htick, hevents] at entered
  rw [CaptureStream.wrote_eq] at sample wrap
  rw [CaptureStream.resumed, CaptureStream.wrote_eq] at gap
  refine ⟨fun m hm => (other m hm).trans (by rw [hframe]; rfl), outside, sample, gap, dropped, wrap.trans ?_, entered,
    fun e he he' => (rest e he he').trans (hevents e), frame⟩
  by_cases hr : (s.stream n).writes
  · rw [if_pos hr]
    exact if_congr ⟨fun ⟨hm, he⟩ => ⟨hm, hr, he⟩, fun ⟨hm, _, he⟩ => ⟨hm, he⟩⟩ rfl rfl
  · rw [if_neg hr]
    exact (if_neg fun h => hr h.2.1).symm

/-! ### CAPTURE_STOP (R156, R157) -/

theorem Consumed.congr {s s' t : State} {q : Fin 4} (h : Consumed s' t q) (hq : s'.sqs = s.sqs) : Consumed s t q := by
  have hs : ∀ p, s'.sq p = s.sq p := fun p => by simp [State.sq, hq]
  unfold Consumed at *
  simpa only [hs] using h

/-- A record that is consumed and completed after an effect on other blocks (R105). -/
theorem State.consume_offer {s v : State} (q : Fin 4) (c : Completion) (hq : v.sqs = s.sqs) (hl : v.pendingList = s.pendingList)
    (he : v.engine = s.engine) :
    Consumed s ((v.consume q).offer c) q ∧ HandedOver s ((v.consume q).offer c) c ∧
      OnlyFetchSide v ((v.consume q).offer c) :=
  ⟨((v.consume_consumed q).of_sqs (State.offer_sqs _ _)).congr hq,
    (State.offer_handedOver (v.consume q) c).congr hl.symm he.symm, by unfold OnlyFetchSide; rw [State.offer_frame]; rfl⟩

theorem State.updStream_same {s : State} {n : Fin 2} {f : CaptureStream → CaptureStream} (h : f (s.stream n) = s.stream n) :
    s.updStream n f = s := by
  have hset : s.streams.set n (f s.streams[n]) = s.streams := by
    rw [show f s.streams[n] = s.streams[n] from h]
    exact Vector.set_getElem_self n.isLt
  rw [State.updStream, hset]

/-- A stream that is no HISTORY stream in OVERRUN after a CAPTURE_STOP (R156). -/
def CaptureStream.stopped (c : CaptureStream) : CaptureStream :=
  match c.state, c.mode with
  | .off, _ => c
  | .frozen, _ => c
  | .running, .history => { c with state := .frozen, nextInstant := none }
  | _, _ => { c with state := .off, nextInstant := none }

/-- The event table after a CAPTURE_STOP: a stream that it freezes hands its CAPTURE_STATE occurrence (R156, R157). -/
def State.stopEvents (s : State) (n : Fin 2) : Vector (Option Occurrence) 12 :=
  if (s.stream n).state = .running ∧ (s.stream n).mode = .history then
    (s.recordEvent (captureStateSource n)
      { first := if (s.stream n).wrapCount = 0 then 2 else 3, second := (s.stream n).recordIndex % 256
        third := (s.stream n).recordIndex / 256 }).events
  else s.events

theorem State.freezeStream_eq (s : State) (n : Fin 2) :
    s.freezeStream n =
      { s.updStream n fun c => { c with state := .frozen, nextInstant := none } with
        events := (s.recordEvent (captureStateSource n)
          { first := if (s.stream n).wrapCount = 0 then 2 else 3, second := (s.stream n).recordIndex % 256
            third := (s.stream n).recordIndex / 256 }).events } := by
  unfold State.freezeStream State.captureStateEvent
  rw [State.updStream_stream_self]
  rfl

theorem State.stopStream_eq {s : State} {n : Fin 2} (h : ¬((s.stream n).mode = .history ∧ (s.stream n).state = .overrun)) :
    s.stopStream n = { s.updStream n CaptureStream.stopped with events := s.stopEvents n } := by
  have same (hc : (s.stream n).stopped = s.stream n) : s.updStream n CaptureStream.stopped = s := State.updStream_same hc
  have change {f : CaptureStream → CaptureStream} (hf : f (s.stream n) = (s.stream n).stopped) :
      s.updStream n f = s.updStream n CaptureStream.stopped :=
    congrArg (fun c : CaptureStream => { s with streams := s.streams.set n c }) hf
  unfold State.stopStream State.stopEvents
  cases hs : (s.stream n).state <;> cases hm : (s.stream n).mode
  case overrun.history => exact absurd ⟨hm, hs⟩ h
  case running.history =>
    simp [hs, hm, State.freezeStream_eq,
      change (f := fun c => { c with state := .frozen, nextInstant := none }) (by simp [CaptureStream.stopped, hs, hm])]
  case off.stream | off.history | frozen.stream | frozen.history =>
    simp [hs, same (by simp [CaptureStream.stopped, hs])]
  case armed.stream | armed.history | running.stream | overrun.stream =>
    simp [hs, hm, change (f := fun c => { c with state := .off, nextInstant := none }) (by simp [CaptureStream.stopped, hs, hm])]
    rfl

/-- A stream that its trigger lane has started at this tick writes its first record; any other is as it is (R156). -/
theorem State.firstRecord_eq (s : State) (n : Fin 2) :
    s.firstRecord n =
      if s.instantDue n = true ∧ (s.stream n).trigger ≠ .immediate ∧ (s.stream n).writePos = (s.stream n).base ∧
        (s.stream n).wrapCount = 0 then s.captureInstant n else s := by
  have hfresh : (s.stream n).fresh = true ↔
      (s.stream n).trigger ≠ .immediate ∧ (s.stream n).writePos = (s.stream n).base ∧ (s.stream n).wrapCount = 0 := by
    simp [CaptureStream.fresh, and_assoc]
  simp only [State.firstRecord, State.captureInstant, hfresh]
  by_cases hd : s.instantDue n = true
  · simp [hd]
  · simp [hd]

theorem State.handleCaptureStop_noStream {s : State} {q : Fin 4} {r : List Byte} (h : 1 < byteAt r 4) :
    s.handleCaptureStop q r = s.refuse q r .badArgument none 1 := by
  simp only [State.handleCaptureStop, asFin_none h]

theorem State.handleCaptureStop_eq {s : State} {q : Fin 4} {r : List Byte} {n : Fin 2} (h : byteAt r 4 = n.val) {u : State}
    (hu : s.firstRecord n = u) :
    s.handleCaptureStop q r = ((u.stopStream n).consume q).offer (stopCompletion (identity u q r) (u.stream n)) := by
  simp only [State.handleCaptureStop, asFin_val n h, hu, State.originOf_eq]

/-- The completion of a CAPTURE_STOP by the rules' words. -/
theorem stopCompletion_eq (o : Origin) (c : CaptureStream) :
    stopCompletion o c =
      { plainCompletion o .done none
          (match c.state with
          | .off => 0
          | .armed => 1
          | .running => 2
          | .overrun => 3
          | .frozen => 4) with
        repeats := min 255 c.wrapCount, elapsed := c.writePos } := rfl

/-- The event table after a CAPTURE_STOP by the rules' words. -/
theorem State.stopEvents_spec (s : State) (n : Fin 2) :
    let freezes := (s.stream n).state = .running ∧ (s.stream n).mode = .history
    (freezes → (s.stopEvents n)[captureStateSource n] =
        foldOccurrence s.tick
          { first := if (s.stream n).wrapCount = 0 then 2 else 3, second := (s.stream n).recordIndex % 256
            third := (s.stream n).recordIndex / 256 } (s.event (captureStateSource n)) ∧
        ∀ e : Fin 12, e ≠ captureStateSource n → (s.stopEvents n)[e] = s.event e) ∧
      (¬freezes → s.stopEvents n = s.events) := by
  intro freezes
  refine ⟨fun h => ?_, fun h => if_neg h⟩
  rw [State.stopEvents, if_pos h]
  exact ⟨s.recordEvent_event_self _ _, fun e he => s.recordEvent_event_ne _ _ he⟩

/-- What a CAPTURE_STOP of a stream leaves, once its first record has been written (R156). -/
theorem State.stopped_answers {s u : State} {n : Fin 2} {q : Fin 4} {r : List Byte}
    (h : ¬((u.stream n).mode = .history ∧ (u.stream n).state = .overrun)) (hq : u.sqs = s.sqs)
    (hl : u.pendingList = s.pendingList) (he : u.engine = s.engine) :
    ∃ t, ((u.stopStream n).consume q).offer (stopCompletion (identity u q r) (u.stream n)) = t ∧ Consumed s t q ∧
      HandedOver s t (stopCompletion (identity u q r) (u.stream n)) ∧ t.stream n = (u.stream n).stopped ∧
      (∀ k : Fin 2, k ≠ n → t.stream k = u.stream k) ∧ t.events = u.stopEvents n ∧ t.xm = u.xm ∧
      t = { u with
        sqs := t.sqs, fetch := t.fetch, pendingList := t.pendingList, engine := t.engine, streams := t.streams
        events := t.events } := by
  rw [State.stopStream_eq h]
  let v : State := { u.updStream n CaptureStream.stopped with events := u.stopEvents n }
  obtain ⟨hc, ho, only⟩ := State.consume_offer (s := s) (v := v) q (stopCompletion (identity u q r) (u.stream n)) hq hl he
  refine ⟨_, rfl, hc, ho, ?_, fun k hk => ?_, ?_, ?_, ?_⟩
  · exact (only.stream n).trans (State.updStream_stream_self u n CaptureStream.stopped)
  · exact (only.stream k).trans (State.updStream_stream_ne u n CaptureStream.stopped k hk)
  · exact congrArg State.events only
  · have hx := congrArg State.xm only
    exact hx
  · have hs := congrArg State.streams only
    have hv := congrArg State.events only
    rw [hs, hv]
    exact only

/-- The first record of a stream whose ring holds more than one record, with room for it. -/
theorem State.captureInstant_first {s : State} {n : Fin 2} (hd : s.instantDue n = true) (hrun : (s.stream n).state = .running)
    (hw : (s.stream n).writePos = (s.stream n).base) (hz : 16 < (s.stream n).size)
    (hread : (s.stream n).readPos = (s.stream n).base) :
    s.captureInstant n =
      { s.updStream n fun c => c.wrote.next s.tick with
        xm := Memory.writeBytes s.xm (s.stream n).base (sampleBytes (s.stream n).sequence s.tick s.lastSample)
        rotation := .capture } ∧
      (s.stream n).wrote.next s.tick =
        { s.stream n with
          writePos := (s.stream n).base + 16, sequence := ((s.stream n).sequence + 1) % 256
          nextInstant := some (s.tick + BitVec.ofNat 32 (s.stream n).interval) } := by
  have hend : ¬(s.stream n).writePos + 16 = (s.stream n).base + (s.stream n).size := by omega
  have hnext : (s.stream n).nextPos = (s.stream n).base + 16 := by rw [CaptureStream.nextPos, if_neg hend, hw]
  have hroom : (s.stream n).nextPos ≠ (s.stream n).readPos := by rw [hnext, hread]; omega
  constructor
  · rw [State.captureInstant_sample hd (.inr ⟨hroom, hrun⟩), hw, State.wrapEvents, if_neg fun h => hend h.1]
    rfl
  · rw [CaptureStream.wrote_eq, if_neg hend, if_neg hend, hw]
    rfl

/-- Settles O45: the stop of a stream, after its first record where one is due. -/
theorem captureStopReportsState : Obligations.CaptureStopReportsState := by
  intro s q r h
  refine ⟨_, State.act_withRecord h State.handleCaptureStop, fun hn => refuse_answers (State.handleCaptureStop_noStream hn),
    fun n hn hok => ?_⟩
  intro first found
  refine ⟨fun hfirst => ?later, fun hfirst hm hrun hb hz hread => ?first⟩
  case later =>
    rw [State.handleCaptureStop_eq hn ((s.firstRecord_eq n).trans (if_neg hfirst))]
    obtain ⟨t, ht, hc, ho, hs, hother, hevents, -, hframe⟩ := State.stopped_answers (q := q) (r := r) hok rfl rfl rfl
    rw [ht]
    obtain ⟨hfreeze, hkeep⟩ := s.stopEvents_spec n
    refine ⟨hc, ho, hs, hother, ⟨fun hf => ?_, fun hf => hevents.trans (hkeep hf)⟩, hframe⟩
    have hf' := hfreeze hf
    rw [← hevents] at hf'
    exact hf'
  case first =>
    have hfresh := hfirst
    obtain ⟨hd, -, hw, hwrap⟩ := hfirst
    obtain ⟨hinstant, hnext⟩ := State.captureInstant_first hd hrun hw hz hread
    rw [State.handleCaptureStop_eq hn ((s.firstRecord_eq n).trans (if_pos hfresh))]
    have hun : (s.captureInstant n).stream n = (s.stream n).wrote.next s.tick := by
      rw [hinstant]; exact State.updStream_stream_self s n fun c => c.wrote.next s.tick
    rw [hnext] at hun
    have huk : ∀ k : Fin 2, k ≠ n → (s.captureInstant n).stream k = s.stream k := fun k hk => by
      rw [hinstant]; exact State.updStream_stream_ne s n (fun c => c.wrote.next s.tick) k hk
    have hue : (s.captureInstant n).events = s.events := by rw [hinstant]; rfl
    have hut : (s.captureInstant n).tick = s.tick := by rw [hinstant]; rfl
    have hux : (s.captureInstant n).xm =
        Memory.writeBytes s.xm (s.stream n).base (sampleBytes (s.stream n).sequence s.tick s.lastSample) := by rw [hinstant]
    have hok' : ¬(((s.captureInstant n).stream n).mode = .history ∧ ((s.captureInstant n).stream n).state = .overrun) := by
      rw [hun]; exact hok
    obtain ⟨t, ht, hc, ho, hs, hother, hevents, hx, hframe⟩ :=
      State.stopped_answers (s := s) (q := q) (r := r) hok' (by rw [hinstant]; rfl) (by rw [hinstant]; rfl) (by rw [hinstant]; rfl)
    rw [ht]
    obtain ⟨hin, hout⟩ := Memory.record_written (m := s.xm) hm (sampleBytes_length (s.stream n).sequence s.tick s.lastSample) hb
    obtain ⟨hfreeze, hkeep⟩ := (s.captureInstant n).stopEvents_spec n
    rw [← hux, ← hx] at hin hout
    refine ⟨hc, ?_, hin, hout, hs.trans ?_, fun k hk => (hother k hk).trans (huk k hk), fun hmode => ?_, fun hmode => ?_, ?_⟩
    · have hidentity : identity (s.captureInstant n) q r = identity s q r := by rw [hinstant]; rfl
      rw [hidentity, hun, stopCompletion_eq] at ho
      simpa [hrun, hwrap] using ho
    · rw [hun]
      cases hmode : (s.stream n).mode <;> simp [CaptureStream.stopped, hrun, hmode]
    · have hf := hfreeze (by rw [hun]; exact ⟨hrun, hmode⟩)
      have hindex : ((s.captureInstant n).stream n).recordIndex = 1 := by
        rw [hun]
        simp [CaptureStream.recordIndex]
      have hwraps : ((s.captureInstant n).stream n).wrapCount = 0 := by rw [hun]; exact hwrap
      have huevent : ∀ e, (s.captureInstant n).event e = s.event e := fun e => by simp only [State.event, hue]
      simp only [hindex, hwraps, hut, huevent, ← hevents] at hf
      exact hf
    · refine hevents.trans ((hkeep ?_).trans hue)
      rw [hun]
      rintro ⟨-, hh⟩
      exact CaptureMode.not_history_iff.mpr hmode hh
    · rw [hinstant] at hframe
      rw [hx, hux]
      exact hframe

end Sys2Proof.Machine
end


section
/-! PROOFS. The three resets (R171 to R173): every block at its values after a reset, what a reset keeps, and the filters with the
samples of tick 0: O4, O5 and O6. -/

namespace Sys2Proof.Machine

-- One declaration after another: so the whole text compiles within the memory of the check.
set_option Elab.async false

/-! ### Samples of the filters (R86, R87, R143) -/

theorem filterCount_takes (bound : Nat) (counts : Bool) (count : Nat) :
    FilterTakes bound counts count (filterCount bound counts count).1 (filterCount bound counts count).2 := by
  unfold FilterTakes filterCount
  cases counts
  · simp
  · by_cases h : bound ≤ count + 1 <;> simp [h]

/-- The samples of a tick reach the filters of ENABLE, VS and the sense inputs, whose states they leave. -/
theorem State.observe_filtersTake (s : State) (p : PinSample) : FiltersTake s (s.observe p) p :=
  ⟨rfl, rfl, filterCount_takes .., filterCount_takes .., fun i => by
    rw [State.observe_senseInput]
    exact ⟨rfl, filterCount_takes ..⟩⟩

/-! ### Every block at its values after a reset -/

/-- Every block stands as in the state after a reset. -/
structure BlocksReset (t : State) : Prop where
  channel : ∀ c, t.channel c = Channel.afterReset
  lane : ∀ l, t.lane l = Lane.afterReset
  slot : ∀ n, t.slot n = Slot.afterReset
  gate : ∀ g, t.gate g = Gate.afterReset
  domains : t.domains = State.reset.domains
  stream : ∀ n, t.stream n = CaptureStream.afterReset
  sq : ∀ q, t.sq q = Sq.afterReset
  cq : ∀ q, t.cq q = Cq.afterReset
  event : ∀ e, t.event e = none
  engine : t.engine = .stopped ∧ t.configError = .none ∧ t.fetch = .idle
  arbiter : t.urgentPointer = 3 ∧ t.normalPointer = 3 ∧ t.burstCredit = 0
  errors : t.postError = false ∧ t.releaseError = false ∧ t.linkErrors = 0
  posting : t.eventCq = none ∧ t.pendingList = [] ∧ t.lanePointer = 3 ∧ t.cqTurn = 1
  irq : t.cause = 0 ∧ t.enables = 0
  rotation : t.rotation = .capture
  tripsDue : t.tripsDue = []

theorem BlocksReset.workAfterReset {t : State} (h : BlocksReset t) : WorkAfterReset t := by
  refine ⟨fun l => ?_, fun g => ?_, ?_⟩
  · rw [h.lane]
    exact ⟨rfl, rfl, rfl, rfl, rfl, rfl, rfl, rfl, fun k => by cases k <;> rfl⟩
  · rw [h.gate]
    exact ⟨rfl, rfl, rfl, rfl⟩
  · simp only [State.domain, h.domains]
    exact ⟨rfl, rfl, rfl, fun d => by fin_cases d <;> exact ⟨rfl, rfl, rfl⟩⟩

theorem BlocksReset.outputAfterReset {t : State} (h : BlocksReset t) : OutputAfterReset t := by
  refine ⟨fun c => ?_, fun n => ?_, fun n => ?_⟩
  · rw [h.channel]
    exact ⟨rfl, rfl, rfl, rfl, rfl, rfl, rfl⟩
  · rw [h.slot]
    exact ⟨rfl, rfl⟩
  · rw [h.stream]
    exact ⟨rfl, rfl, rfl, rfl, rfl, rfl, rfl, rfl, rfl, rfl, rfl, rfl, rfl⟩

theorem BlocksReset.engineAfterReset {t : State} (h : BlocksReset t) : EngineAfterReset t := by
  obtain ⟨he, hce, hf⟩ := h.engine
  obtain ⟨hu, hn, hb⟩ := h.arbiter
  obtain ⟨hp, hr, hl⟩ := h.errors
  obtain ⟨hev, hpl, hlp, hct⟩ := h.posting
  obtain ⟨hc, hen⟩ := h.irq
  refine ⟨he, hce, hf, hu, hn, hb, hp, hr, fun q => ?_, fun q => ?_, hev, hpl, hlp, hct, h.event, hc, hen, ?_, hl, h.rotation,
    h.tripsDue⟩
  · rw [h.sq]
    exact ⟨rfl, rfl, rfl, rfl⟩
  · rw [h.cq]
    exact ⟨rfl, rfl, rfl, rfl, rfl, rfl⟩
  · rw [State.irqnAsserted, hc]
    simp

theorem BlocksReset.afterReset {t : State} (h : BlocksReset t) : AfterReset t :=
  ⟨h.workAfterReset, h.outputAfterReset, h.engineAfterReset⟩

theorem BlocksReset.limits {t : State} (h : BlocksReset t) (c : Fin 6) :
    (t.channel c).overCount = false ∧ (t.channel c).threshold = 2000 := by
  rw [h.channel]
  exact ⟨rfl, rfl⟩

/-- The state after a reset, whatever the fields that belong to no block. -/
theorem BlocksReset.reset : BlocksReset State.reset where
  channel := State.channel_of_reset rfl
  lane := State.lane_of_reset rfl
  slot n := by simp [State.slot, State.reset]
  gate g := by simp [State.gate, State.reset]
  domains := rfl
  stream n := by simp [State.stream, State.reset]
  sq q := by simp [State.sq, State.reset]
  cq q := by simp [State.cq, State.reset]
  event e := by simp [State.event, State.reset]
  engine := ⟨rfl, rfl, rfl⟩
  arbiter := ⟨rfl, rfl, rfl⟩
  errors := ⟨rfl, rfl, rfl⟩
  posting := ⟨rfl, rfl, rfl, rfl⟩
  irq := ⟨rfl, rfl⟩
  rotation := rfl
  tripsDue := rfl

/-- The samples of tick 0 find no drive and no segment: they change no block. -/
theorem BlocksReset.firstSamples {s : State} (h : BlocksReset s) (p : PinSample) (levels : Bool) :
    BlocksReset (s.firstSamples p levels) := by
  have hc : ∀ c, (s.firstSamples p levels).channel c = (s.channel c).sample (samplesOf p)[c] := fun c => by
    cases levels <;> exact State.observe_channel ..
  have hl : ∀ l, (s.firstSamples p levels).lane l =
      { s.lane l with state := (s.lane l).state.sample (samplesOf p) (s.lane l).owned } := fun l => by
    cases levels <;> exact State.observe_lane ..
  have hother : s.firstSamples p levels = { s with
      channels := (s.firstSamples p levels).channels, lanes := (s.firstSamples p levels).lanes
      senseInputs := (s.firstSamples p levels).senseInputs, lastSample := (s.firstSamples p levels).lastSample
      permit := (s.firstSamples p levels).permit } := by cases levels <;> rfl
  exact {
    channel := fun c => by rw [hc, h.channel]; rfl
    lane := fun l => by rw [hl, h.lane]; rfl
    slot := by rw [hother]; exact h.slot
    gate := by rw [hother]; exact h.gate
    domains := by rw [hother]; exact h.domains
    stream := by rw [hother]; exact h.stream
    sq := by rw [hother]; exact h.sq
    cq := by rw [hother]; exact h.cq
    event := by rw [hother]; exact h.event
    engine := by rw [hother]; exact h.engine
    arbiter := by rw [hother]; exact h.arbiter
    errors := by rw [hother]; exact h.errors
    posting := by rw [hother]; exact h.posting
    irq := by rw [hother]; exact h.irq
    rotation := by rw [hother]; exact h.rotation
    tripsDue := by rw [hother]; exact h.tripsDue }

/-- The state that a reset begins with: that after a reset, with the fields of no block as given. -/
theorem BlocksReset.withFields (pending : List Instr) (hold : ResetHold) (cause : ResetCause) (tick : Tick) (permit : PermitMonitor)
    (inputs : Vector SenseInput 4) (queue : List LinkEntry) (o : Option OpenRead) (miso : List Byte) (bits : List Bool) (await : Bool)
    (xm : Memory) :
    BlocksReset { State.reset with
      pending := pending, hold := hold, resetCause := cause, tick := tick, permit := permit, senseInputs := inputs
      linkQueue := queue, openRead := o, miso := miso, misoBits := bits, awaitCsnRise := await, xm := xm } :=
  { BlocksReset.reset with }

/-! ### What accesses of the fetch side leave as it is -/

section
variable (s : State) (n : Nat)

@[simp] theorem State.fetchTurns_tick : (s.fetchTurns n).tick = s.tick := by rw [State.fetchTurns_frame]
@[simp] theorem State.fetchTurns_hold : (s.fetchTurns n).hold = s.hold := by rw [State.fetchTurns_frame]
@[simp] theorem State.fetchTurns_resetCause : (s.fetchTurns n).resetCause = s.resetCause := by rw [State.fetchTurns_frame]
@[simp] theorem State.fetchTurns_permit : (s.fetchTurns n).permit = s.permit := by rw [State.fetchTurns_frame]
@[simp] theorem State.fetchTurns_senseInputs : (s.fetchTurns n).senseInputs = s.senseInputs := by rw [State.fetchTurns_frame]
@[simp] theorem State.fetchTurns_linkQueue : (s.fetchTurns n).linkQueue = s.linkQueue := by rw [State.fetchTurns_frame]
@[simp] theorem State.fetchTurns_openRead : (s.fetchTurns n).openRead = s.openRead := by rw [State.fetchTurns_frame]
@[simp] theorem State.fetchTurns_awaitCsnRise : (s.fetchTurns n).awaitCsnRise = s.awaitCsnRise := by
  rw [State.fetchTurns_frame]
@[simp] theorem State.fetchTurns_linkErrors : (s.fetchTurns n).linkErrors = s.linkErrors := by rw [State.fetchTurns_frame]
@[simp] theorem State.fetchTurns_cqs : (s.fetchTurns n).cqs = s.cqs := by rw [State.fetchTurns_frame]
@[simp] theorem State.fetchTurns_cause : (s.fetchTurns n).cause = s.cause := by rw [State.fetchTurns_frame]
@[simp] theorem State.fetchTurns_events : (s.fetchTurns n).events = s.events := by rw [State.fetchTurns_frame]
@[simp] theorem State.fetchTurns_pendingList : (s.fetchTurns n).pendingList = s.pendingList := by rw [State.fetchTurns_frame]

@[simp] theorem State.fetchTurns_senseInput (i : Fin 4) : (s.fetchTurns n).senseInput i = s.senseInput i := by
  simp [State.senseInput]

@[simp] theorem State.fetchTurns_cq (q : Fin 2) : (s.fetchTurns n).cq q = s.cq q := by simp [State.cq]

@[simp] theorem State.fetchTurns_event (e : Fin 12) : (s.fetchTurns n).event e = s.event e := by simp [State.event]

end

/-! ### Power-on and pin reset (R171) -/

theorem State.held_blocksReset (s : State) (h : ResetHold) : BlocksReset (s.held h) := BlocksReset.withFields ..

theorem State.leave_blocksReset (s : State) (p : PinSample) (csnLow : Bool) : BlocksReset (s.leave p csnLow) :=
  (BlocksReset.withFields ..).firstSamples p true

/-- A sense input takes the level of the sample of tick 0 (R143; notes/assumptions/3.md). -/
theorem State.leave_senseInput (s : State) (p : PinSample) (csnLow : Bool) (i : Fin 4) :
    ((s.leave p csnLow).senseInput i).high = p.sense[i] ∧ ((s.leave p csnLow).senseInput i).count = 0 := by
  unfold State.leave State.firstSamples
  rw [if_pos rfl, State.observe_senseInput, State.mapSenseInputs_senseInput]
  simp [SenseInput.sample, filterCount]

theorem State.endReset_eq {s : State} {h : ResetHold} (hv : h.vddLow = false) (hr : h.resetnLow = false) (p : PinSample)
    (csnLow : Bool) : s.endReset h p csnLow = State.leave { s with hold := h } p csnLow := by
  simp [State.endReset, hv, hr]

theorem exec_powerOnResetEnd {s : State} (hv : s.hold.vddLow = true) (hr : s.hold.resetnLow = false) (p : PinSample)
    (csnLow : Bool) :
    exec (.powerOnResetEnd p csnLow) s =
      .next (State.leave { s with hold := { s.hold with vddLow := false } } p csnLow) := by
  change Host.Outcome.next (s.powerOnEnd p csnLow) = _
  have heq := State.endReset_eq (s := s) (h := { s.hold with vddLow := false }) rfl hr p csnLow
  rw [State.powerOnEnd, if_pos hv, heq]

theorem exec_pinResetEnd {s : State} (hr : s.hold.resetnLow = true) (hv : s.hold.vddLow = false) (p : PinSample) (csnLow : Bool) :
    exec (.pinResetEnd p csnLow) s =
      .next (State.leave { s with hold := { s.hold with resetnLow := false } } p csnLow) := by
  change Host.Outcome.next (s.pinEnd p csnLow) = _
  have heq := State.endReset_eq (s := s) (h := { s.hold with resetnLow := false }) hv rfl p csnLow
  rw [State.pinEnd, if_pos hr, heq]

/-- Settles O5: the held state, which a pin reset reaches after the accesses before it. -/
theorem resetBeginsWithDriveOff : Obligations.ResetBeginsWithDriveOff := by
  refine ⟨fun s => ⟨_, rfl, rfl, rfl, (s.held_blocksReset _).afterReset, rfl, rfl, rfl, rfl, rfl⟩, fun s turns ha => ?_,
    fun s turns hr => ?_⟩
  · have hexec : exec (.pinResetBegin turns) s =
        .next ((s.fetchTurns turns).held { vddLow := false, resetnLow := true, por := false }) := by
      change Host.Outcome.next (s.pinBegin turns) = _
      rw [State.pinBegin, if_neg (by rw [ha]; decide)]
    exact ⟨_, hexec, rfl, rfl, (State.held_blocksReset _ _).afterReset, s.fetchTurns_tick turns, s.fetchTurns_resetCause turns,
      rfl, rfl, rfl, rfl⟩
  · change Host.Outcome.next (s.pinBegin turns) = _
    rw [State.pinBegin, if_pos hr]

/-! ### Soft reset (R172) -/

/-- The link and exchange memory are as they were. -/
def SameLink (s t : State) : Prop :=
  t.linkQueue = s.linkQueue ∧ t.openRead = s.openRead ∧ t.awaitCsnRise = s.awaitCsnRise ∧ t.xm = s.xm

theorem SameLink.trans {s t u : State} (h : SameLink s t) (k : SameLink t u) : SameLink s u :=
  ⟨k.1.trans h.1, k.2.1.trans h.2.1, k.2.2.1.trans h.2.2.1, k.2.2.2.trans h.2.2.2⟩

theorem LaneStep.sameLink {s t : State} (h : LaneStep s t) : SameLink s t := by
  obtain ⟨_, _, _, _, _, _, _, rfl⟩ := h.work
  exact ⟨rfl, rfl, rfl, rfl⟩

theorem LaneStep.permitLoss (s : State) : LaneStep s s.permitLoss :=
  ((LaneStep.setOff s 0x3F).trans (.foldl LaneStep.disableLane allLanes _)).trans (.recordEvent ..)

theorem LaneStep.permitReturn (s : State) : LaneStep s s.permitReturn :=
  (LaneStep.recordEvent ..).trans (.foldl (fun s l => .ite (fun _ => .startTest s l) fun _ => .refl s) allLanes _)

theorem State.setPermit_sameLink (s : State) (p : PermitMonitor) : SameLink s (s.setPermit p) := by
  have hp : SameLink s { s with permit := p } := ⟨rfl, rfl, rfl, rfl⟩
  unfold State.setPermit
  dsimp only
  split
  · exact hp.trans (LaneStep.permitLoss _).sameLink
  · split
    · exact hp.trans (LaneStep.permitReturn _).sameLink
    · exact hp

theorem State.updSenseInput_sameLink (s : State) (i : Fin 4) (f : SenseInput → SenseInput) : SameLink s (s.updSenseInput i f) :=
  ⟨rfl, rfl, rfl, rfl⟩

theorem State.filterEvent_sameLink {e : DueEvent} (he : e ∈ filterEvents) (s : State) : SameLink s (s.takeDue e) := by
  have refl : SameLink s s := ⟨rfl, rfl, rfl, rfl⟩
  simp only [filterEvents, List.mem_append, List.mem_cons, List.not_mem_nil, or_false, List.mem_map, mem_allLanes, true_and] at he
  rcases he with (rfl | rfl) | ⟨i, rfl⟩
  · change SameLink s s.enableChange
    unfold State.enableChange
    split
    · exact s.setPermit_sameLink _
    · exact refl
  · change SameLink s s.supplyChange
    unfold State.supplyChange
    split
    · exact s.setPermit_sameLink _
    · exact refl
  · change SameLink s (s.senseChange i)
    unfold State.senseChange
    split
    · exact (LaneStep.captureInputs s i).sameLink.trans (State.updSenseInput_sameLink _ i _)
    · exact refl

theorem State.takeAll_sameLink : ∀ (es : List DueEvent) (s : State), (∀ e ∈ es, ∀ s : State, SameLink s (s.takeDue e)) →
    SameLink s (s.takeAll es)
  | [], _, _ => ⟨rfl, rfl, rfl, rfl⟩
  | e :: es, s, h =>
    (h e (.head es) s).trans (State.takeAll_sameLink es (s.takeDue e) fun e' he' => h e' (.tail e he'))

/-- The filter changes that are due reach neither the link nor exchange memory. -/
theorem State.filterEvents_sameLink (s : State) : SameLink s (s.takeAll filterEvents) :=
  State.takeAll_sameLink filterEvents s fun _ he => State.filterEvent_sameLink he

theorem State.softReset_sameLink (s : State) (p : PinSample) : SameLink s (s.softReset p) := by
  have h := s.filterEvents_sameLink
  unfold State.softReset
  generalize s.takeAll filterEvents = u at *
  exact h

/-- A soft reset is taken by the CONTROL write that asks for it, after the accesses before it. -/
theorem exec_softReset {s : State} {v : BitVec 32} (h : s.Handed .control v) (hv : v.getLsbD 1 = true) (p : PinSample) (turns : Nat) :
    exec (.softReset p turns) s = .next { (s.fetchTurns turns).softReset p with linkQueue := s.linkQueue.tail } := by
  obtain ⟨hq, ho, -, -⟩ := (s.fetchTurns turns).softReset_sameLink p
  exact (State.act_awake h.1 _).trans (congrArg _ (State.takeRegister_handed h _ _ hv
    (hq.trans (s.fetchTurns_linkQueue turns)) (ho.trans (s.fetchTurns_openRead turns))))

theorem State.softReset_blocksReset (s : State) (p : PinSample) (queue : List LinkEntry) :
    BlocksReset { s.softReset p with linkQueue := queue } := by
  unfold State.softReset
  generalize s.takeAll filterEvents = u
  exact { (BlocksReset.withFields ..).firstSamples (s := u.softly) p false with }

/-- Settles O4: all three resets leave every block at its values after a reset. -/
theorem everyResetReturnsBlocks : Obligations.EveryResetReturnsBlocks := by
  refine ⟨fun s p csnLow hv hr => ?_, fun s p csnLow hr hv => ?_, fun s p turns v h hv => ?_⟩
  · have hb := State.leave_blocksReset { s with hold := { s.hold with vddLow := false } } p csnLow
    exact ⟨_, exec_powerOnResetEnd hv hr p csnLow, hb.workAfterReset, hb.limits⟩
  · have hb := State.leave_blocksReset { s with hold := { s.hold with resetnLow := false } } p csnLow
    exact ⟨_, exec_pinResetEnd hr hv p csnLow, hb.workAfterReset, hb.limits⟩
  · have hb := (s.fetchTurns turns).softReset_blocksReset p s.linkQueue.tail
    exact ⟨_, exec_softReset h hv p turns, hb.workAfterReset, hb.limits⟩

/-- With no filter change due, a soft reset takes none. -/
theorem State.filterEvents_none {s : State} (he : s.permit.enableDue = false) (hs : s.permit.supplyDue = false)
    (hi : ∀ i : Fin 4, (s.senseInput i).due = false) : s.takeAll filterEvents = s := by
  simp [State.takeAll, filterEvents, State.takeDue, allLanes, State.enableChange, State.supplyChange, State.senseChange, he, hs, hi]

/-- Settles O6: what each reset keeps, field by field. -/
theorem resetsKeepWhatTheyKeep : Obligations.ResetsKeepWhatTheyKeep := by
  refine ⟨fun s p csnLow hv hr hp => ?powerOn, fun s p csnLow hv hr => ?outlasted, fun s p csnLow hr hv => ?pin,
    fun s p turns v h hv he hs hi => ?soft⟩
  case powerOn =>
    refine ⟨_, exec_powerOnResetEnd hv hr p csnLow, rfl, (State.leave_blocksReset ..).afterReset, rfl, ?_, ?_, rfl, rfl, rfl, rfl,
      rfl, State.leave_senseInput _ p csnLow⟩
    · exact if_pos hp
    · exact if_pos hp
  case outlasted =>
    change Host.Outcome.next (s.powerOnEnd p csnLow) = _
    rw [State.powerOnEnd, if_pos hv, State.endReset, if_pos (by simp [hr])]
  case pin =>
    exact ⟨_, exec_pinResetEnd hr hv p csnLow, rfl, (State.leave_blocksReset ..).afterReset, rfl, rfl, rfl, rfl, rfl, rfl, rfl,
      rfl, State.leave_senseInput _ p csnLow⟩
  case soft =>
    have hnone : (s.fetchTurns turns).takeAll filterEvents = s.fetchTurns turns :=
      State.filterEvents_none (by simpa using he) (by simpa using hs) (by simpa using hi)
    have hsoft : (s.fetchTurns turns).softReset p = (s.fetchTurns turns).softly.firstSamples p false := by
      rw [State.softReset, hnone]
    refine ⟨_, exec_softReset h hv p turns, rfl, (State.softReset_blocksReset ..).afterReset, rfl, rfl, ?_⟩
    rw [hsoft]
    have hfilters : FiltersTake (s.fetchTurns turns) ((s.fetchTurns turns).softly.firstSamples p false) p :=
      (s.fetchTurns turns).softly.observe_filtersTake p
    unfold FiltersTake at hfilters
    simp only [State.fetchTurns_permit, State.fetchTurns_senseInput] at hfilters
    have hon : (s.fetchTurns turns).permitOn = s.permitOn := by simp [State.permitOn]
    have hcause : (s.fetchTurns turns).permitCause = s.permitCause := by simp [State.permitCause]
    exact ⟨rfl, hon, hcause, hfilters, s.fetchTurns_awaitCsnRise turns, rfl, s.fetchTurns_openRead turns⟩

end Sys2Proof.Machine
end


section
/-! PROOFS. The frames of the host link that write or are discarded (R160 to R164) and the chunks of a write (R163, R166): O21, O22
and O23. -/

namespace Sys2Proof.Machine

-- One declaration after another: so the whole text compiles within the memory of the check.
set_option Elab.async false

/-! ### Discarded frames (R160, R164, R165) -/

theorem State.takeFrame_taken {s : State} (h : s.awaitCsnRise = false) (ends : Bool) (f : State → State) : s.takeFrame ends f = f s := by
  simp [State.takeFrame, h]

theorem State.wholeFrame_taken {s : State} (h : s.awaitCsnRise = false) (ho : s.openRead = none) (f : State → State) :
    s.wholeFrame f = f s := by
  simp [State.wholeFrame, State.takeFrame_taken h, ho]

theorem LinkWaits.append {es : List LinkEntry} (h : LinkWaits es) (hne : es ≠ []) (more : List LinkEntry) :
    LinkWaits (es ++ more) := by
  unfold LinkWaits
  rw [List.head?_append_of_ne_nil _ hne]
  exact h

/-- A frame is discarded behind what waits in the link's queue (R160, R164, R165). -/
theorem State.discardFrame_eq {s : State} (ho : s.openRead = none) (hw : LinkWaits s.linkQueue) (n : Nat) (extra : Fin 8) :
    s.discardFrame n extra =
      { s with
        linkErrors := if s.linkQueue = [] then (if s.linkErrors < 255 then s.linkErrors + 1 else 255) else s.linkErrors
        linkQueue := if s.linkQueue = [] then [] else s.linkQueue ++ [.discard]
        miso := List.replicate n 0, misoBits := List.replicate extra false } := by
  by_cases hq : s.linkQueue = []
  · rw [State.discardFrame_idle hq ho, if_pos hq, if_pos hq]
    cases s
    cases hq
    rfl
  · have hne : s.linkQueue ++ [LinkEntry.discard] ≠ [] := by simp
    rw [if_neg hq, if_neg hq, State.discardFrame, State.settleFrom_waits (hw.append hq _) fun h => absurd h hne]

/-- A number of two bytes reads back from its little-endian bytes (R174). -/
theorem field16_enc16 {n : Nat} (h : n < 65536) (rest : List Byte) : field16 (enc16 n ++ rest) 0 = n := by
  simp only [field16, byteAt, enc16, List.cons_append, List.getD_cons_zero, List.getD_cons_succ, BitVec.toNat_ofNat]
  omega

/-- The length of the complete bytes of a write to IDENT or STATUS, after the code. -/
theorem readOnlyBody_length (reg : ReadOnlyRegister) (data : Vector Byte 4) (trailer : Byte) :
    (readOnlyBody reg data trailer).length = 7 := by
  simp [readOnlyBody]

/-- A write to IDENT or STATUS reaches no register and no memory (R163, R168). -/
theorem readOnlyBody_entries (reg : ReadOnlyRegister) (data : Vector Byte 4) (trailer : Byte) :
    writeEntries (field16 (readOnlyBody reg data trailer) 0) (writeData (readOnlyBody reg data trailer)) = none := by
  have hdata : (writeData (readOnlyBody reg data trailer)).length = 4 := by
    simp [writeData, readOnlyBody]
  have haddr : field16 (readOnlyBody reg data trailer) 0 = readOnlyAddress reg := by
    rw [readOnlyBody, List.append_assoc]
    exact field16_enc16 (by cases reg <;> decide) _
  have hplace : ¬readOnlyAddress reg + 4 ≤ Config.xmSize := by cases reg <;> decide
  have hregister : writableAt (readOnlyAddress reg) = none := by cases reg <;> decide
  rw [haddr, writeEntries, hdata, if_neg hplace, if_pos rfl, hregister]
  rfl

theorem writeMalformed_iff (body : List Byte) (extra : Fin 8) :
    writeMalformed body extra = true ↔
      extra ≠ 0 ∨ body.length < 4 ∨ 259 < body.length ∨ crc8 (0xC3 :: body.dropLast) ≠ body.getLastD 0 := by
  simp [writeMalformed, writeTrailer, Config.writeCode, or_assoc]

section
variable {s : State} (ha : s.awaitCsnRise = false) (ho : s.openRead = none)
include ha ho

theorem State.writeFrame_malformed {body : List Byte} {extra : Fin 8} (h : writeMalformed body extra = true) :
    s.writeFrame body extra = s.discardFrame (1 + body.length) extra := by
  rw [State.writeFrame, State.wholeFrame_taken ha ho, State.takeWrite, if_pos h]

theorem State.writeFrame_noPlace {body : List Byte} (h : writeMalformed body 0 = false)
    (he : writeEntries (field16 body 0) (writeData body) = none) :
    s.writeFrame body 0 = s.discardFrame (1 + body.length) 0 := by
  rw [State.writeFrame, State.wholeFrame_taken ha ho, State.takeWrite, if_neg (by rw [h]; decide), he]

theorem State.writeFrame_accepted {body : List Byte} {es : List LinkEntry} (h : writeMalformed body 0 = false)
    (he : writeEntries (field16 body 0) (writeData body) = some es) :
    s.writeFrame body 0 =
      { s with linkQueue := s.linkQueue ++ es, miso := List.replicate (1 + body.length) 0, misoBits := [] } := by
  rw [State.writeFrame, State.wholeFrame_taken ha ho, State.takeWrite, if_neg (by rw [h]; decide), he]

end

/-- The counts of n discarded frames. -/
theorem satSucc_iterate (n k : Nat) (h : k ≤ 255) : (satSucc 255)^[n] k = min 255 (k + n) := by
  induction n generalizing k with
  | zero => simp; omega
  | succ n ih => rw [Function.iterate_succ_apply, satSucc_eq, ih _ (by omega)]; omega

/-- A register write at the front of the link's queue, with discarded frames alone behind it, which are then counted (R164). -/
theorem State.takeRegister_discards {s : State} {r : WritableRegister} {v : BitVec 32} {n : Nat}
    (h : s.linkQueue = .reg r v :: List.replicate n .discard) (takes : BitVec 32 → Bool) (f : State → BitVec 32 → State)
    (ht : takes v = true) (hf : (f s v).linkQueue = s.linkQueue) (he : (f s v).linkErrors ≤ 255) :
    (s.takeRegister r takes f).linkErrors = min 255 ((f s v).linkErrors + n) ∧ (s.takeRegister r takes f).linkQueue = [] := by
  have hrest : (List.replicate n LinkEntry.discard) = List.replicate n .discard ++ [] := (List.append_nil _).symm
  have htake : s.takeRegister r takes f =
      State.settleFrom { f s v with linkErrors := min 255 ((f s v).linkErrors + n) } none [] := by
    simp only [State.takeRegister, State.frontWrite, h, if_true, ht, State.popLink, hf, List.tail_cons]
    rw [hrest, State.settleFrom_discards, satSucc_iterate _ _ he]
    rfl
  rw [htake, State.settleFrom]
  split
  · exact ⟨rfl, rfl⟩
  · dsimp only [State.showRead]
    rw [State.runRead_frame]
    exact ⟨rfl, rfl⟩

/-- Settles O21: the frames that are discarded, and their counting behind a register write. -/
theorem discardedFramesOnlyCount : Obligations.DiscardedFramesOnlyCount := by
  refine ⟨fun s hw ha ho hq => ?_, fun s v n p turns hw hq => ⟨fun h2 h1 => ?clear, fun h1 => ?soft⟩⟩
  · intro discarded
    have hd : ∀ (n : Nat) (extra : Fin 8), s.discardFrame n extra = discarded n extra.val := State.discardFrame_eq ho hq
    refine ⟨fun body extra x hl => ?read, fun code body extra h3 h4 => ?unknown, fun body extra h => ?write,
      fun reg data trailer => ?register⟩
    case read =>
      refine (State.act_awake hw _).trans (congrArg _ ?_)
      rw [State.readFrame, State.takeFrame_taken ha, State.takeRead]
      simp only [ho, hl, if_true]
      exact hd _ _
    case unknown =>
      refine (State.act_awake hw _).trans (congrArg _ ?_)
      rw [State.unknownFrame, if_neg (show code ≠ Config.readCode from h3), if_neg (show code ≠ Config.writeCode from h4), State.wholeFrame_taken ha ho, hd]
    case write =>
      refine (State.act_awake hw _).trans (congrArg _ ?_)
      rw [State.writeFrame_malformed ha ho ((writeMalformed_iff body extra).mpr h), hd]
    case register =>
      refine (State.act_awake hw _).trans (congrArg _ ?_)
      have hlen := readOnlyBody_length reg data trailer
      cases hm : writeMalformed (readOnlyBody reg data trailer) 0
      · rw [State.writeFrame_noPlace ha ho hm (readOnlyBody_entries reg data trailer), hlen, hd]; rfl
      · rw [State.writeFrame_malformed ha ho hm, hlen, hd]; rfl
  case clear =>
    have hwrite : (s.controlWrite v).linkErrors = 0 := by rw [State.controlWrite_eq]; simp [h2]
    obtain ⟨he, hq'⟩ := State.takeRegister_discards hq (controlRow controlClearErrors) State.controlWrite
      (by simp only [controlRow, controlSoftReset, controlClearErrors, h1, h2]; rfl) (by rw [State.controlWrite_eq])
      (by rw [hwrite]; decide)
    rw [hwrite, Nat.zero_add] at he
    exact ⟨_, State.act_awake hw _, he, hq'⟩
  case soft =>
    obtain ⟨hlink, -⟩ := (s.fetchTurns turns).softReset_sameLink p
    have hcount : ((s.fetchTurns turns).softReset p).linkErrors = 0 :=
      ((s.fetchTurns turns).softReset_blocksReset p []).errors.2.2
    obtain ⟨he, hq'⟩ := State.takeRegister_discards hq controlSoftReset (fun s _ => (s.fetchTurns turns).softReset p) h1
      (hlink.trans (s.fetchTurns_linkQueue turns)) (by rw [hcount]; decide)
    rw [hcount, Nat.zero_add] at he
    exact ⟨_, State.act_awake hw _, he, hq'⟩

/-! ### The chunks of a write (R163) -/

/-- The spans that `chunksOf` cuts the data of a write into: the address and the bytes of each. -/
def spansOf : Nat → Nat → List Byte → List (Nat × List Byte)
  | 0, _, _ => []
  | _ + 1, _, [] => []
  | fuel + 1, a, b :: bs =>
    (a, (b :: bs).take (16 - a % 16)) :: spansOf fuel (a + (16 - a % 16)) ((b :: bs).drop (16 - a % 16))

theorem chunksOf_eq (fuel a : Nat) (data : List Byte) :
    chunksOf fuel a data = (spansOf fuel a data).map fun c => .chunk c.1 c.2 := by
  fun_induction spansOf fuel a data with
  | case1 a data => rfl
  | case2 fuel a => rfl
  | case3 fuel a b bs ih => rw [chunksOf, ih]; rfl

/-- With fuel for every span, the spans hold the data. -/
theorem spansOf_data (fuel a : Nat) (data : List Byte) (h : a % 16 + data.length ≤ 16 * fuel) :
    (spansOf fuel a data).flatMap (·.2) = data := by
  fun_induction spansOf fuel a data with
  | case1 a data => exact (List.eq_nil_of_length_eq_zero (by omega)).symm
  | case2 fuel a => rfl
  | case3 fuel a b bs ih =>
    rw [List.flatMap_cons, ih (by simp only [List.length_drop, List.length_cons] at h ⊢; omega)]
    exact List.take_append_drop ..

/-- Each span holds bytes of one aligned block, and none before the address. -/
theorem spansOf_block (fuel a : Nat) (data : List Byte) :
    ∀ c ∈ spansOf fuel a data, c.2 ≠ [] ∧ c.1 / 16 = (c.1 + c.2.length - 1) / 16 ∧ a / 16 ≤ c.1 / 16 := by
  fun_induction spansOf fuel a data with
  | case1 a data => intro c hc; cases hc
  | case2 fuel a => intro c hc; cases hc
  | case3 fuel a b bs ih =>
    intro c hc
    rcases List.mem_cons.mp hc with rfl | hc
    · have hlen : ((b :: bs).take (16 - a % 16)).length = min (16 - a % 16) (bs.length + 1) := by simp
      refine ⟨List.ne_nil_of_length_pos (by dsimp only; omega), ?_, le_rfl⟩
      dsimp only
      omega
    · obtain ⟨hne, hblock, hle⟩ := ih c hc
      exact ⟨hne, hblock, by omega⟩

/-- The spans lie in rising blocks. -/
theorem spansOf_rising (fuel a : Nat) (data : List Byte) :
    (spansOf fuel a data).Pairwise fun c d => c.1 / 16 < d.1 / 16 := by
  fun_induction spansOf fuel a data with
  | case1 a data => exact .nil
  | case2 fuel a => exact .nil
  | case3 fuel a b bs ih =>
    refine List.pairwise_cons.mpr ⟨fun c hc => ?_, ih⟩
    obtain ⟨-, -, hle⟩ := spansOf_block _ _ _ c hc
    dsimp only
    omega

/-- Each span starts where those before it end. -/
theorem spansOf_address (fuel a : Nat) (data : List Byte) (i : Nat) (h : i < (spansOf fuel a data).length) :
    ((spansOf fuel a data)[i]).1 = a + (((spansOf fuel a data).take i).flatMap (·.2)).length := by
  fun_induction spansOf fuel a data generalizing i with
  | case1 a data => cases h
  | case2 fuel a => cases h
  | case3 fuel a b bs ih =>
    match i, h with
    | 0, _ => simp
    | i + 1, h =>
      have hi : i < (spansOf fuel (a + (16 - a % 16)) ((b :: bs).drop (16 - a % 16))).length := by
        simpa using h
      have hdata : (b :: bs).drop (16 - a % 16) ≠ [] := by
        intro hnil
        rw [hnil] at hi
        cases fuel <;> simp [spansOf] at hi
      have hlen : ((b :: bs).take (16 - a % 16)).length = 16 - a % 16 := by
        have := List.length_pos_of_ne_nil hdata
        rw [List.length_drop] at this
        rw [List.length_take]
        omega
      rw [List.getElem_cons_succ, List.take_succ_cons, List.flatMap_cons, List.length_append, ih i hi, hlen]
      omega

/-- What a write at an address becomes where its data lies in exchange memory (R163). -/
theorem writeEntries_memory {a : Nat} {data : List Byte} (h : a + data.length ≤ 16384) :
    writeEntries a data = some ((spansOf maxChunks a data).map fun c => .chunk c.1 c.2) := by
  rw [writeEntries, if_pos (show a + data.length ≤ Config.xmSize from h), chunksOf_eq]

/-- Four bytes at a register that can be written (R163). -/
theorem writeEntries_register {a : Nat} {data : List Byte} {r : WritableRegister} (h : writtenRegister a r) (hl : data.length = 4) :
    writeEntries a data = some [.reg r (word32 data)] := by
  have ha : ¬a + data.length ≤ Config.xmSize := by
    unfold Config.xmSize
    rcases h with ⟨rfl, -⟩ | ⟨rfl, -⟩ | ⟨rfl, -⟩ | ⟨rfl, -⟩ <;> omega
  rw [writeEntries, if_neg ha, if_pos hl, writableAt_iff.mpr h]
  rfl

/-- Any other address is that of nothing a write reaches (R163). -/
theorem writeEntries_none {a : Nat} {data : List Byte} (h : 16384 < a + data.length)
    (hr : (∀ r, ¬writtenRegister a r) ∨ data.length ≠ 4) : writeEntries a data = none := by
  rw [writeEntries, if_neg (show ¬a + data.length ≤ Config.xmSize from Nat.not_le.mpr h)]
  rcases hr with hr | hl
  · have hw : writableAt a = none := Option.eq_none_iff_forall_ne_some.mpr fun r hs => hr r (writableAt_iff.mp hs)
    split <;> simp [hw]
  · rw [if_neg hl]

/-- A write frame that R160 does not discard, taken apart. -/
theorem writeFrame_parts (lo hi : Byte) (data : List Byte) (hne : data ≠ []) (hl : data.length ≤ 256) :
    let body := lo :: hi :: (data ++ [crc8 (0xC3 :: lo :: hi :: data)])
    writeMalformed body 0 = false ∧ field16 body 0 = lo.toNat + 256 * hi.toNat ∧ writeData body = data ∧
      1 + body.length = data.length + 4 := by
  intro body
  have hpos := List.length_pos_of_ne_nil hne
  have hlast : body.dropLast = lo :: hi :: data ∧ body.getLastD 0 = crc8 (0xC3 :: lo :: hi :: data) := by
    have hbody : body = (lo :: hi :: data) ++ [crc8 (0xC3 :: lo :: hi :: data)] := rfl
    rw [hbody]
    exact ⟨List.dropLast_concat, List.getLastD_concat ..⟩
  refine ⟨?_, rfl, ?_, ?_⟩
  · rw [← Bool.not_eq_true, writeMalformed_iff, hlast.1, hlast.2]
    simp [body]
    omega
  · exact List.dropLast_concat
  · simp [body]
    omega

/-- Settles O22: an accepted write by its address. -/
theorem acceptedWriteBecomesChunks : Obligations.AcceptedWriteBecomesChunks := by
  intro s lo hi data hw ha ho hq hne hl a
  obtain ⟨hgood, haddr, hdata, hlen⟩ := writeFrame_parts lo hi data hne hl
  let body := lo :: hi :: (data ++ [crc8 (0xC3 :: lo :: hi :: data)])
  have hentries : writeEntries (field16 body 0) (writeData body) = writeEntries a data := by rw [haddr, hdata]
  have haccept (es : List LinkEntry) (he : writeEntries a data = some es) :
      s.writeFrame body 0 =
        { s with linkQueue := s.linkQueue ++ es, miso := List.replicate (data.length + 4) 0, misoBits := [] } := by
    rw [State.writeFrame_accepted ha ho hgood (hentries.trans he), hlen]
  refine ⟨_, State.act_awake hw _, ?_⟩
  by_cases hplace : a + data.length ≤ 16384
  · have hfuel : a % 16 + data.length ≤ 16 * maxChunks := by unfold maxChunks; omega
    have hrun := haccept _ (writeEntries_memory hplace)
    have hreg : ∀ r, writtenRegister a r → data.length ≠ 4 := by
      rintro r hr hl4
      rw [hl4] at hplace
      rcases hr with ⟨hr, -⟩ | ⟨hr, -⟩ | ⟨hr, -⟩ | ⟨hr, -⟩ <;> omega
    rw [hrun]
    refine ⟨rfl, rfl, fun _ => ⟨spansOf maxChunks a data, rfl, spansOf_data _ _ _ hfuel, fun c hc => ?_, ?_, ?_, rfl⟩,
      fun r hr h4 => absurd h4 (hreg r hr), fun h => absurd hplace (Nat.not_le.mpr h)⟩
    · obtain ⟨h1, h2, -⟩ := spansOf_block _ _ _ c hc
      exact ⟨h1, h2⟩
    · exact fun i j hi hj hij => List.pairwise_iff_getElem.mp (spansOf_rising _ _ _) i j hi hj hij
    · exact spansOf_address _ _ _
  · by_cases hr : (∃ r, writtenRegister a r) ∧ data.length = 4
    · obtain ⟨⟨r, hr⟩, h4⟩ := hr
      rw [haccept _ (writeEntries_register hr h4)]
      refine ⟨rfl, rfl, fun h => absurd h hplace, fun r' hr' _ => ?_, fun _ hn => ?_⟩
      · obtain rfl : r = r' := Option.some.inj ((writableAt_iff.mpr hr).symm.trans (writableAt_iff.mpr hr'))
        rfl
      · exact absurd hn (by rw [not_or, not_forall, not_not]; exact ⟨⟨r, not_not.mpr hr⟩, h4⟩)
    · have hnone : (∀ r, ¬writtenRegister a r) ∨ data.length ≠ 4 := by
        rw [not_and_or, not_exists] at hr
        exact hr
      rw [State.writeFrame_noPlace ha ho hgood (hentries.trans (writeEntries_none (Nat.not_le.mp hplace) hnone)),
        State.discardFrame_eq ho hq, hlen]
      exact ⟨rfl, rfl, fun h => absurd h hplace, fun r hr' h4 => absurd ⟨⟨r, hr'⟩, h4⟩ hr, fun _ _ => rfl⟩

end Sys2Proof.Machine
end


section
/-! PROOFS. How a read frame goes on (R159, R161, R166): what it shifts out, and when it needs the arbiter. The chunk of a write and
the read frame follow from it: O23 and O20. -/

namespace Sys2Proof.Machine

-- One declaration after another: so the whole text compiles within the memory of the check.
set_option Elab.async false

/-! ### The bytes of a read frame -/

/-- A read frame that holds more than it is asked for shifts out that, and the bits after it. -/
theorem OpenRead.shift_enough {o : OpenRead} (h : o.want < o.held.length) :
    o.shift = { o with
      addr := o.addr + BitVec.ofNat 16 o.want, held := o.held.drop o.want, want := 0, bits := 0
      sent := o.sent ++ o.held.take o.want, sentBits := o.sentBits ++ topBits o.bits.val (o.held.getD o.want 0) } := by
  have hdrop : o.held.drop o.want = o.held[o.want] :: o.held.drop (o.want + 1) := List.drop_eq_getElem_cons h
  have hget : o.held.getD o.want 0 = o.held[o.want] := by simp [List.getD, h]
  simp only [OpenRead.shift, Nat.min_eq_left (Nat.le_of_lt h), hdrop, Nat.sub_self, if_true, hget]

/-- A read frame that holds no more than it is asked for shifts out all that it holds. -/
theorem OpenRead.shift_all {o : OpenRead} (h : o.held.length ≤ o.want) :
    o.shift = { o with
      addr := o.addr + BitVec.ofNat 16 o.held.length, held := [], want := o.want - o.held.length
      sent := o.sent ++ o.held } := by
  simp [OpenRead.shift, Nat.min_eq_right h]

theorem OpenRead.done_iff {o : OpenRead} : o.done = true ↔ o.want = 0 ∧ o.bits = 0 := by
  simp [OpenRead.done]

theorem OpenRead.wanted_pos_iff {o : OpenRead} : o.done = false ↔ 0 < o.wanted := by
  rw [← Bool.not_eq_true, OpenRead.done_iff, OpenRead.wanted]
  split <;> rename_i hb <;> simp [hb, Nat.pos_iff_ne_zero]

/-- A read frame that has not shifted out all it is asked for holds nothing more. -/
theorem OpenRead.shift_of_not_done {o : OpenRead} (h : o.shift.done = false) : o.held.length ≤ o.want := by
  by_contra hlt
  rw [OpenRead.shift_enough (Nat.not_le.mp hlt)] at h
  simp [OpenRead.done] at h

theorem State.hostBytes_length (s : State) : ∀ n a : Nat, (s.hostBytes a n).length = n
  | 0, _ => rfl
  | n + 1, a => congrArg (· + 1) (State.hostBytes_length s n (a + 1))

theorem State.hostBytes_getElem (s : State) : ∀ (n a i : Nat) (h : i < (s.hostBytes a n).length),
    (s.hostBytes a n)[i] = s.hostByte ((a + i) % 65536)
  | n + 1, a, 0, _ => rfl
  | n + 1, a, i + 1, h => by
    have := State.hostBytes_getElem s n (a + 1) i (Nat.lt_of_succ_lt_succ h)
    rw [Nat.add_right_comm, Nat.add_assoc] at this
    exact this

theorem toNat_add_ofNat (a : BitVec 16) (i : Nat) : (a + BitVec.ofNat 16 i).toNat = (a.toNat + i) % 65536 := by
  simp [BitVec.toNat_add]

theorem unitLength_pos (a : Nat) : 0 < unitLength a := by
  unfold unitLength
  split
  · omega
  · split <;> omega

/-- The byte after those that a read frame holds is the one at its host address. -/
theorem readByte_held {s : State} {o : OpenRead} {i : Nat} (h : i < o.held.length) : readByte s o i = o.held[i] := by
  simp [readByte, h]

theorem readByte_host {s : State} {o : OpenRead} {i : Nat} (h : o.held.length ≤ i) :
    readByte s o i = s.hostByte (o.addr + BitVec.ofNat 16 i).toNat := by
  simp [readByte, Nat.not_lt.mpr h]

theorem add_ofNat_ofNat (a : BitVec 16) (m n : Nat) : a + BitVec.ofNat 16 m + BitVec.ofNat 16 n = a + BitVec.ofNat 16 (m + n) := by
  rw [BitVec.add_assoc, ← BitVec.ofNat_add]

/-- Shifting out leaves the bytes to come as they are. -/
theorem readByte_shift {s : State} {o : OpenRead} (h : o.held.length ≤ o.want) (i : Nat) :
    readByte s o.shift i = readByte s o (o.held.length + i) := by
  rw [OpenRead.shift_all h, readByte_host (Nat.zero_le _), readByte_host (Nat.le_add_right _ _), add_ofNat_ofNat]

/-- Taking a span, a register or a byte leaves the bytes to come as they are. -/
theorem readByte_takeUnit {s : State} {o : OpenRead} (h : o.held = []) (i : Nat) :
    readByte s (s.takeUnit o) i = readByte s o i := by
  rw [readByte_host (o := o) (by simp [h])]
  by_cases hi : i < (s.takeUnit o).held.length
  · rw [readByte_held hi]
    simp only [State.takeUnit]
    rw [State.hostBytes_getElem, toNat_add_ofNat]
  · rw [readByte_host (Nat.not_lt.mp hi)]
    rfl

theorem held_take_eq {s : State} {o : OpenRead} {n : Nat} (h : n ≤ o.held.length) :
    o.held.take n = (List.range n).map (readByte s o) := by
  refine List.ext_getElem (by simp [h]) fun i hi hi' => ?_
  have hi'' : i < o.held.length := by simp at hi; omega
  simp [readByte_held hi'']

/-- What a read frame owes is the same before and after it shifts out what it holds. -/
theorem Answered.of_shift {s : State} {o : OpenRead} {miso : List Byte} {bits : List Bool} (h : Answered s o.shift miso bits) :
    Answered s o miso bits := by
  obtain ⟨hm, hb⟩ := h
  by_cases hw : o.held.length ≤ o.want
  · have hbyte : readByte s o.shift = readByte s o ∘ (o.held.length + ·) := funext (readByte_shift hw)
    rw [hbyte, OpenRead.shift_all hw] at hm hb
    refine ⟨hm.trans ?_, hb.trans ?_⟩
    · have hrange : List.range o.want = List.range o.held.length ++ (List.range (o.want - o.held.length)).map (o.held.length + ·) := by
        rw [← List.range_add, Nat.add_sub_cancel' hw]
      rw [hrange, List.map_append, ← held_take_eq le_rfl, List.take_length, List.map_map, List.append_assoc]
    · simp [Nat.add_sub_cancel' hw]
  · have hlt := Nat.not_le.mp hw
    rw [OpenRead.shift_enough hlt] at hm hb
    refine ⟨hm.trans ?_, hb.trans ?_⟩
    · simp [held_take_eq (s := s) (Nat.le_of_lt hlt)]
    · simp [topBits, readByte_held hlt, List.getD, hlt]

theorem Answered.of_takeUnit {s : State} {o : OpenRead} {miso : List Byte} {bits : List Bool} (h : o.held = [])
    (k : Answered s (s.takeUnit o) miso bits) : Answered s o miso bits := by
  unfold Answered at *
  have hbyte : readByte s (s.takeUnit o) = readByte s o := funext fun i => readByte_takeUnit h i
  rw [hbyte] at k
  exact k

theorem Answered.of_done {s : State} {o : OpenRead} (h : o.done = true) : Answered s o o.sent o.sentBits := by
  obtain ⟨hw, hb⟩ := OpenRead.done_iff.mp h
  simp [Answered, hw, hb]

/-! ### A read frame that is taken to its end -/

/-- A read frame shifts out what it holds and takes the next span, register or byte, until it has shifted out all it is asked for. -/
inductive ReadsAll (s : State) : OpenRead → OpenRead → Prop
  | last {o : OpenRead} (h : o.shift.done = true) : ReadsAll s o o.shift
  | unit {o f : OpenRead} (h : o.shift.done = false) (k : ReadsAll s (s.takeUnit o.shift) f) : ReadsAll s o f

theorem OpenRead.shift_held {o : OpenRead} (h : o.shift.done = false) : o.shift.held = [] := by
  rw [OpenRead.shift_all (OpenRead.shift_of_not_done h)]

theorem ReadsAll.done {s : State} {o f : OpenRead} (h : ReadsAll s o f) : f.done = true := by
  induction h with
  | last h => exact h
  | unit _ _ ih => exact ih

/-- MISO carries all that the frame has been asked for. -/
theorem ReadsAll.answered {s : State} {o f : OpenRead} (h : ReadsAll s o f) : Answered s o f.sent f.sentBits := by
  induction h with
  | last h => exact (Answered.of_done h).of_shift
  | unit h _ ih => exact (Answered.of_takeUnit (OpenRead.shift_held h) ih).of_shift

/-- A read frame needs no access before its next byte. -/
theorem OpenRead.NeedsNone.not_needsAccess {o : OpenRead} (h : o.NeedsNone) : o.needsAccess = false := by
  by_contra hn
  simp only [OpenRead.needsAccess, Bool.not_eq_false, Bool.and_eq_true, Bool.not_eq_true', List.isEmpty_iff,
    decide_eq_true_eq] at hn
  obtain ⟨⟨hd, hh⟩, ha⟩ := hn
  have := h 0 (by simp [hh]) (OpenRead.wanted_pos_iff.mp hd)
  rw [toNat_add_ofNat] at this
  have := o.addr.isLt
  unfold Config.xmSize at ha
  omega

theorem OpenRead.needsAccess_iff {o : OpenRead} (hd : o.done = false) (hh : o.held = []) :
    o.needsAccess = true ↔ o.addr.toNat < 0x4000 := by
  simp only [OpenRead.needsAccess, hd, hh, Config.xmSize, Bool.not_false, List.isEmpty_nil, Bool.and_self, Bool.true_and]
  exact decide_eq_true_iff

theorem OpenRead.wanted_shift {o : OpenRead} (h : o.held.length ≤ o.want) : o.shift.wanted + o.held.length = o.wanted := by
  rw [OpenRead.shift_all h]
  unfold OpenRead.wanted
  dsimp only
  omega

/-- Shifting out changes nothing of what accesses a read frame needs. -/
theorem OpenRead.needsNone_shift {o : OpenRead} (h : o.held.length ≤ o.want) : o.shift.NeedsNone ↔ o.NeedsNone := by
  have hw := OpenRead.wanted_shift h
  have haddr : ∀ i, o.shift.addr + BitVec.ofNat 16 i = o.addr + BitVec.ofNat 16 (o.held.length + i) := fun i => by
    rw [OpenRead.shift_all h, add_ofNat_ofNat]
  have hheld : o.shift.held.length = 0 := by rw [OpenRead.shift_all h]; rfl
  unfold OpenRead.NeedsNone
  simp only [haddr, hheld]
  constructor
  · intro k i hi hiw
    have := k (i - o.held.length) (Nat.zero_le _) (by omega)
    rwa [Nat.add_sub_cancel' hi] at this
  · intro k i _ hiw
    exact k _ (Nat.le_add_right _ _) (by omega)

/-- A unit outside exchange memory holds none of its bytes. -/
theorem unitLength_outside {a i : Nat} (ha : 0x4000 ≤ a) (hi : i < unitLength a) : 0x4000 ≤ a + i ∧ a + unitLength a ≤ max (a + 1) 0x4018 := by
  unfold unitLength Config.xmSize at *
  split at hi
  · omega
  · split at hi <;> rename_i h1 h2 <;> simp only [h1, h2, if_true, if_false] <;> omega

/-- Taking a unit outside exchange memory changes nothing of what accesses a read frame needs. -/
theorem OpenRead.needsNone_takeUnit {s : State} {o : OpenRead} (hh : o.held = []) (ha : 0x4000 ≤ o.addr.toNat) :
    (s.takeUnit o).NeedsNone ↔ o.NeedsNone := by
  unfold OpenRead.NeedsNone
  constructor
  · intro k i _ hiw
    by_cases hi : (s.takeUnit o).held.length ≤ i
    · exact k i hi hiw
    · have hi' : i < unitLength o.addr.toNat := by
        simpa [State.takeUnit, State.hostBytes_length] using hi
      obtain ⟨h1, h2⟩ := unitLength_outside ha hi'
      have := o.addr.isLt
      rw [toNat_add_ofNat]
      omega
  · intro k i _ hiw
    exact k i (by simp [hh]) hiw

theorem OpenRead.NeedsNone.takeUnit {s : State} {o : OpenRead} (hh : o.held = []) (h : o.NeedsNone) : (s.takeUnit o).NeedsNone :=
  fun i _ hiw => h i (by simp [hh]) hiw

/-- A read frame that has not all it is asked for needs an access exactly when its next byte lies in exchange memory. -/
theorem OpenRead.not_needsNone {o : OpenRead} (h : o.needsAccess = true) : ¬o.NeedsNone := fun hn => by
  rw [hn.not_needsAccess] at h
  cases h

theorem OpenRead.needsNone_of_done {o : OpenRead} (h : o.shift.done = true) : o.NeedsNone := by
  intro i hi hiw
  by_cases hw : o.held.length ≤ o.want
  · have hshift := OpenRead.wanted_shift hw
    have : ¬0 < o.shift.wanted := fun hp => by rw [OpenRead.wanted_pos_iff.mpr hp] at h; cases h
    omega
  · unfold OpenRead.wanted at hiw
    split at hiw <;> omega

/-- Two states give a read frame the same bytes. -/
def SameReads (s t : State) : Prop := t.xm = s.xm ∧ ∀ k, t.register k = s.register k

theorem SameReads.hostByte {s t : State} (h : SameReads s t) (a : Nat) : t.hostByte a = s.hostByte a := by
  simp only [State.hostByte, h.1, h.2]

theorem SameReads.hostBytes {s t : State} (h : SameReads s t) : ∀ n a : Nat, t.hostBytes a n = s.hostBytes a n
  | 0, _ => rfl
  | n + 1, a => by rw [State.hostBytes, State.hostBytes, h.hostBytes n, h.hostByte]

theorem SameReads.takeUnit {s t : State} (h : SameReads s t) (o : OpenRead) : t.takeUnit o = s.takeUnit o := by
  simp only [State.takeUnit, h.hostBytes]

theorem SameReads.answered {s t : State} (h : SameReads s t) {o : OpenRead} {miso : List Byte} {bits : List Bool}
    (k : Answered s o miso bits) : Answered t o miso bits := by
  have hbyte : readByte t o = readByte s o := funext fun i => by simp only [readByte, h.hostByte]
  unfold Answered
  rw [hbyte]
  exact k

theorem SameReads.readsAll {s t : State} (h : SameReads s t) {o f : OpenRead} (k : ReadsAll s o f) : ReadsAll t o f := by
  induction k with
  | last hd => exact .last hd
  | @unit o _ hd _ ih => exact .unit hd (h.takeUnit o.shift ▸ ih)

/-- What a read frame finds does not depend on the arbiter's rotation. -/
theorem SameReads.rotated (s : State) (r : XmAgent) : SameReads { s with rotation := r } s :=
  ⟨rfl, fun k => by
    unfold State.register
    rfl⟩

/-- A step of a read frame needs at least one byte: so many steps are enough. -/
theorem OpenRead.done_of_wanted {o : OpenRead} (h : o.wanted = 0 ∨ (o.held ≠ [] ∧ o.wanted ≤ 1)) : o.shift.done = true := by
  by_contra hd
  have hd := Bool.not_eq_true _ ▸ hd
  have hle := OpenRead.wanted_shift (OpenRead.shift_of_not_done hd)
  have hpos := OpenRead.wanted_pos_iff.mp hd
  rcases h with h | ⟨hne, h⟩
  · omega
  · have := List.length_pos_of_ne_nil hne
    omega

theorem State.takeUnit_held_ne (s : State) (o : OpenRead) : (s.takeUnit o).held ≠ [] := by
  refine List.ne_nil_of_length_pos ?_
  rw [State.takeUnit]
  exact (s.hostBytes_length _ _).symm ▸ unitLength_pos _

/-- With the arbiter's service wherever an access is needed, and enough steps, a read frame is taken to its end; the rotation
stands at the link exactly if an access was needed. -/
theorem State.runRead_all {access : Option (List XmAgent)} :
    ∀ (n : Nat) (s : State) (o : OpenRead), (o.wanted ≤ n ∨ (o.held ≠ [] ∧ o.wanted ≤ n + 1)) →
      (o.NeedsNone ∨ ∀ r, State.linkServed { s with rotation := r } access = true) →
      ∃ f r, s.runRead access n o = ({ s with rotation := r }, f) ∧ ReadsAll s o f ∧ (o.NeedsNone → r = s.rotation) ∧
        (¬o.NeedsNone → r = .link) := by
  intro n
  induction n with
  | zero =>
    intro s o hn _
    have hd : o.shift.done = true := OpenRead.done_of_wanted (hn.imp_left fun h => Nat.le_zero.mp h)
    exact ⟨_, _, rfl, .last hd, fun _ => rfl, fun h => absurd (OpenRead.needsNone_of_done hd) h⟩
  | succ n ih =>
    intro s o hn hs
    rw [State.runRead]
    cases hd : o.shift.done
    case true =>
      exact ⟨_, _, by simp only [if_true], .last hd, fun _ => rfl, fun h => absurd (OpenRead.needsNone_of_done hd) h⟩
    case false =>
      have hle := OpenRead.shift_of_not_done hd
      have hheld := OpenRead.shift_held hd
      have hwanted := OpenRead.wanted_shift hle
      have hnone := OpenRead.needsNone_shift hle
      have henough : (s.takeUnit o.shift).wanted ≤ n ∨
          ((s.takeUnit o.shift).held ≠ [] ∧ (s.takeUnit o.shift).wanted ≤ n + 1) := by
        refine .inr ⟨s.takeUnit_held_ne _, ?_⟩
        change o.shift.wanted ≤ n + 1
        rcases hn with hn | ⟨hne, hn⟩
        · omega
        · have := List.length_pos_of_ne_nil hne
          omega
      cases ha : o.shift.needsAccess
      case true =>
        have hneeds : ¬o.NeedsNone := mt hnone.mpr (OpenRead.not_needsNone ha)
        have hserved := hs.resolve_left hneeds
        obtain ⟨f, r, hrun, hall, h1, h2⟩ := ih { s with rotation := .link } (s.takeUnit o.shift) henough (.inr hserved)
        have hr : r = .link := by
          by_cases hk : (s.takeUnit o.shift).NeedsNone
          · exact h1 hk
          · exact h2 hk
        refine ⟨f, .link, ?_, .unit hd ((SameReads.rotated s .link).readsAll hall), fun h => absurd h hneeds, fun _ => rfl⟩
        simp only [Bool.false_eq_true, if_false, if_true]
        rw [if_pos (hserved s.rotation), hrun, hr]
      case false =>
        have hout : 0x4000 ≤ o.shift.addr.toNat :=
          Nat.not_lt.mp fun hlt => by rw [(OpenRead.needsAccess_iff hd hheld).mpr hlt] at ha; cases ha
        have hunit : (s.takeUnit o.shift).NeedsNone ↔ o.NeedsNone := (OpenRead.needsNone_takeUnit hheld hout).trans hnone
        obtain ⟨f, r, hrun, hall, h1, h2⟩ := ih s (s.takeUnit o.shift) henough (hs.imp_left hunit.mpr)
        refine ⟨f, r, ?_, .unit hd hall, fun h => h1 (hunit.mpr h), fun h => h2 (mt hunit.mp h)⟩
        simp only [Bool.false_eq_true, if_false]
        exact hrun

theorem OpenRead.wanted_le_units (o : OpenRead) : o.wanted ≤ o.units := by
  unfold OpenRead.wanted OpenRead.units
  split <;> omega

/-- A read frame that needs no access is taken to its end without one. -/
theorem State.runRead_free (s : State) {o : OpenRead} (h : o.NeedsNone) :
    ∃ f, s.runRead none o.units o = (s, f) ∧ ReadsAll s o f := by
  obtain ⟨f, r, hrun, hall, hr, -⟩ := State.runRead_all (access := none) o.units s o (.inl o.wanted_le_units) (.inl h)
  rw [hr h] at hrun
  exact ⟨f, hrun, hall⟩

/-! ### The chunk of a write (R163, R164) -/

/-- The state once the chunk at the front of the link's queue is written and discarded frames behind it are counted, before what
stands behind those goes on. -/
def State.chunkWritten (u : State) (a : Nat) (data : List Byte) (errors : Nat) : State :=
  { u with xm := Memory.writeBytes u.xm a data, rotation := .link, linkErrors := errors }

theorem State.writeChunk_eq {u : State} {a : Nat} {data : List Byte} {rest : List LinkEntry} (h : u.linkQueue = .chunk a data :: rest) :
    u.writeChunk = (u.chunkWritten a data u.linkErrors).settleFrom none rest := by
  simp only [State.writeChunk, h, State.popLink, List.tail_cons, State.chunkWritten]

theorem State.writeChunk_xm {u : State} {a : Nat} {data : List Byte} {rest : List LinkEntry} (h : u.linkQueue = .chunk a data :: rest) :
    u.writeChunk.xm = Memory.writeBytes u.xm a data := by
  rw [State.writeChunk_eq h, State.settleFrom_frame]
  rfl

theorem State.writeChunk_discards {u : State} {a n : Nat} {data : List Byte} {more : List LinkEntry}
    (h : u.linkQueue = .chunk a data :: (List.replicate n .discard ++ more)) (he : u.linkErrors ≤ 255) :
    u.writeChunk = (u.chunkWritten a data (min 255 (u.linkErrors + n))).settleFrom none more := by
  rw [State.writeChunk_eq h, State.settleFrom_discards, State.chunkWritten, satSucc_iterate n _ he]
  rfl

/-- The link's queue does not matter to what a read frame finds. -/
theorem SameReads.queued (s : State) (q : List LinkEntry) : SameReads s { s with linkQueue := q } :=
  ⟨rfl, fun k => by
    unfold State.register
    rfl⟩

/-- A read frame in progress that needs no access goes on to the end of what it has been asked for. -/
theorem State.settleFrom_open {s : State} {o : OpenRead} (ho : s.openRead = some o) (hn : o.NeedsNone) :
    ∃ f, s.settleFrom none [] = { s with linkQueue := [], miso := f.sent, misoBits := f.sentBits, openRead := some f } ∧
      ReadsAll s o f := by
  obtain ⟨f, hrun, hall⟩ := State.runRead_free { s with linkQueue := [] } hn
  refine ⟨f, ?_, (SameReads.queued { s with linkQueue := [] } s.linkQueue).readsAll hall⟩
  rw [State.settleFrom]
  split
  · next hnone => simp [ho] at hnone
  · next o' ho' =>
    obtain rfl : o = o' := Option.some.inj (ho.symm.trans ho')
    simp only [hrun, State.showRead]

/-- A read frame in progress that needs an access waits, and MISO carries what it has shifted out. -/
theorem State.settleFrom_open_waits {s : State} {o : OpenRead} (ho : s.openRead = some o) (hn : o.needsAccess = true) :
    s.settleFrom none [] = { s with linkQueue := [], miso := o.sent, misoBits := o.sentBits } := by
  simp only [State.settleFrom, ho, State.runRead_waiting hn, State.showRead]

/-- A read frame at the front of the link's queue that needs no access is done. -/
theorem State.settleFrom_read {s : State} {o : OpenRead} (ho : s.openRead = none) (hn : o.NeedsNone) :
    ∃ f, s.settleFrom none [.read o] = { s with linkQueue := [], miso := f.sent, misoBits := f.sentBits } ∧ ReadsAll s o f := by
  obtain ⟨f, hrun, hall⟩ := State.runRead_free s hn
  refine ⟨f, ?_, hall⟩
  simp only [State.settleFrom, hrun, hall.done, if_true, State.showRead, ho]

/-! ### The arbiter's rotation (R166) -/

theorem agentIndex_injective : Function.Injective agentIndex := by
  intro a b h
  cases a <;> cases b <;> first | rfl | exact absurd h (by decide)

/-- An agent that is served before another brings that one nearer to its turn. -/
theorem rotation_nearer : ∀ r a b : Fin 6, (b - r - 1).val ≤ (a - r - 1).val → a ≠ b → (a - b - 1).val < (a - r - 1).val := by
  decide

theorem State.turnOf_served {s : State} {a b : XmAgent} {waiting : List XmAgent} (ha : a ∈ waiting) (hx : s.hasAccess a = true)
    (hne : a ≠ b) (hs : s.serves b waiting = true) : ({ s with rotation := b } : State).turnOf a < s.turnOf a := by
  have hle : s.turnOf b ≤ s.turnOf a :=
    of_decide_eq_true (List.all_eq_true.mp hs a (List.mem_filter.mpr ⟨ha, hx⟩))
  exact rotation_nearer (agentIndex s.rotation) (agentIndex a) (agentIndex b) hle (agentIndex_injective.ne hne)

/-! ### O23 -/

/-- Settles O23. -/
theorem chunkIsOneWrite : Obligations.ChunkIsOneWrite := by
  refine ⟨fun s a data rest x awake hm hq hlen => ?_, fun s a b waiting =>
    ⟨Nat.le_of_lt_succ (Fin.isLt _), fun ha hx hne hs => State.turnOf_served ha hx hne hs⟩⟩
  intro u
  have huq : u.linkQueue = .chunk a data :: rest := (State.fetchTurns_linkQueue s _).trans hq
  have huo : u.openRead = s.openRead := State.fetchTurns_openRead s _
  have hue : u.linkErrors = s.linkErrors := State.fetchTurns_linkErrors s _
  have hwf : u.MemoryOk := State.fetchTurns_memoryOk hm _
  have hexec : exec (.writeChunk x) s = .next (s.withAccess .link x State.writeChunk) := by
    have : exec (.writeChunk x) s = s.act fun s => s.takeChunk x := rfl
    rw [this, State.act_awake awake]
    simp only [State.takeChunk, hq]
  refine ⟨fun hs => ?_, fun hs => ⟨u.writeChunk, ?_, ?_, ?_, ?_⟩⟩
  · rw [hexec, State.withAccess_later hs]
  · rw [hexec, State.withAccess_served hs]
  · intro i hi
    rw [State.writeChunk_xm huq]
    exact Memory.read_writeBytes_inside data a hwf hlen i hi
  · intro b hb
    rw [State.writeChunk_xm huq]
    exact Memory.read_writeBytes_outside data a hwf b hb
  · intro n more hrest he v
    have ht := State.writeChunk_discards (hrest ▸ huq) (hue.trans_le he)
    rw [hue] at ht
    let w := u.chunkWritten a data (min 255 (s.linkErrors + n))
    have hw : w.openRead = s.openRead := huo
    have hv : v = { w with linkQueue := more } := by
      simp only [v, w, State.chunkWritten, State.writeChunk_xm huq]
    have hreads : SameReads w v := hv ▸ SameReads.queued w more
    rw [hv] at hreads ⊢
    refine ⟨fun hmore hn => ?_, fun o hmore ho hn => ?_, fun o hmore ho hn => ?_, fun o hmore ho hn => ?_⟩
    · exact ht.trans (State.settleFrom_waits hmore fun h => hw.trans (hn h))
    · subst hmore
      exact ht.trans (State.settleFrom_open_waits (hw.trans ho) hn)
    · subst hmore
      obtain ⟨f, heq, hall⟩ := State.settleFrom_open (hw.trans ho) hn
      rw [ht.trans heq]
      exact ⟨hreads.answered hall.answered, rfl⟩
    · subst hmore
      obtain ⟨f, heq, hall⟩ := State.settleFrom_read (hw.trans ho) hn
      rw [ht.trans heq]
      exact ⟨hreads.answered hall.answered, rfl⟩

end Sys2Proof.Machine
end


section
/-! PROOFS. Read frames, whole or in parts (R159, R161, R164, R166): O20. -/

namespace Sys2Proof.Machine

-- One declaration after another: so the whole text compiles within the memory of the check.
set_option Elab.async false

/-! ### The link's own fields -/

/-- A state with other frames of the link. -/
def State.withLink (s : State) (queue : List LinkEntry) (o : Option OpenRead) (miso : List Byte) (bits : List Bool) : State :=
  { s with linkQueue := queue, openRead := o, miso := miso, misoBits := bits }

section
variable (s : State) (queue : List LinkEntry) (o : Option OpenRead) (miso : List Byte) (bits : List Bool)

/-- The fetch side does not see the link's frames. -/
theorem State.fetchTurn_withLink : (s.withLink queue o miso bits).fetchTurn = s.fetchTurn.withLink queue o miso bits := by
  have hc : (s.withLink queue o miso bits).configRead = s.configRead := rfl
  have hf : (s.withLink queue o miso bits).fetch = s.fetch := rfl
  unfold State.fetchTurn
  rw [hc, hf]
  cases s.configRead with
  | some got =>
    dsimp only
    split <;> rfl
  | none =>
    dsimp only
    split
    · split <;> rfl
    · split <;> rfl
    · split <;> rfl
    · rfl

theorem State.fetchServed_withLink : (s.withLink queue o miso bits).fetchServed [] = s.fetchServed [] := rfl

theorem State.iterateTurns_withLink (n : Nat) :
    State.iterateTurns [] n (s.withLink queue o miso bits) = (State.iterateTurns [] n s).withLink queue o miso bits := by
  induction n generalizing s with
  | zero => rfl
  | succ n ih =>
    rw [State.iterateTurns, State.iterateTurns, State.fetchServed_withLink, State.fetchTurn_withLink, ih]
    split <;> rfl

theorem State.fetchTurns_withLink (n : Nat) :
    (s.withLink queue o miso bits).fetchTurns n = (s.fetchTurns n).withLink queue o miso bits :=
  s.iterateTurns_withLink queue o miso bits _

end

/-! ### The link's turn (R166) -/

/-- The arbiter takes the link's access exactly when no other waiting agent comes first. -/
theorem State.serves_link_iff {s : State} {waiting : List XmAgent} :
    s.serves .link waiting = true ↔
      ∀ b ∈ waiting, b ≠ .link → s.hasAccess b = true → s.turnOf .link ≤ s.turnOf b := by
  simp only [State.serves, List.all_eq_true, List.mem_filter, decide_eq_true_eq, and_imp]
  constructor
  · exact fun h b hb _ hx => h b hb hx
  · intro h b hb hx
    by_cases hl : b = .link
    · exact hl ▸ le_rfl
    · exact h b hb hl hx

/-- What the link has to do does not matter to the accesses of the others. -/
theorem State.hasAccess_withLink {s : State} {b : XmAgent} (hb : b ≠ .link) (r : XmAgent) (queue : List LinkEntry)
    (o : Option OpenRead) (miso : List Byte) (bits : List Bool) :
    State.hasAccess { s.withLink queue o miso bits with rotation := r } b = s.hasAccess b := by
  cases b with
  | link => exact absurd rfl hb
  | _ => rfl

theorem State.serves_withLink (s : State) (waiting : List XmAgent) (queue : List LinkEntry) (o : Option OpenRead)
    (miso : List Byte) (bits : List Bool) :
    (s.withLink queue o miso bits).serves .link waiting = s.serves .link waiting := by
  have hx (b : XmAgent) (hb : b ≠ .link) : (s.withLink queue o miso bits).hasAccess b = s.hasAccess b :=
    State.hasAccess_withLink hb s.rotation queue o miso bits
  rw [Bool.eq_iff_iff, State.serves_link_iff, State.serves_link_iff]
  refine forall₃_congr fun b _ hb => ?_
  rw [hx b hb]
  exact Iff.rfl

/-- With no other agent waiting, the link's access is taken wherever the rotation stands. -/
theorem State.Alone.serves {s : State} {waiting : List XmAgent} (h : s.Alone .link waiting) (r : XmAgent) (queue : List LinkEntry)
    (o : Option OpenRead) (miso : List Byte) (bits : List Bool) :
    State.serves { s.withLink queue o miso bits with rotation := r } .link waiting = true := by
  rw [State.serves_link_iff]
  intro b hb hne hx
  rw [State.hasAccess_withLink hne, (h b hb).resolve_left hne] at hx
  cases hx

/-- After an access of its own the link comes last. -/
theorem State.not_serves_after_own {s : State} {waiting : List XmAgent} (h : ¬s.Alone .link waiting) (queue : List LinkEntry)
    (o : Option OpenRead) (miso : List Byte) (bits : List Bool) :
    ¬State.serves { s.withLink queue o miso bits with rotation := .link } .link waiting = true := by
  rw [State.serves_link_iff]
  intro k
  refine h fun b hb => ?_
  by_contra hn
  obtain ⟨hne, hx⟩ := not_or.mp hn
  have hlt : ∀ b : XmAgent, b ≠ .link → (agentIndex b - agentIndex .link - 1).val < (agentIndex .link - agentIndex .link - 1 : Fin 6).val := by
    intro b hb
    cases b with
    | link => exact absurd rfl hb
    | _ => decide
  have := k b hb hne (by rw [State.hasAccess_withLink hne]; simpa using hx)
  exact absurd (hlt b hne) (Nat.not_lt.mpr this)

/-! ### Where a read frame stands after what it has been asked for -/

/-- How many bytes of the span or register of a host address lie after it. -/
def unitRest (a : Nat) : Nat := if a < 0x4000 then 15 - a % 16 else if a < 0x4018 then 3 - a % 4 else 0

theorem unitLength_eq (a : Nat) : unitLength a = unitRest a + 1 := by
  unfold unitLength unitRest Config.xmSize
  split
  · omega
  · split <;> omega

/-- The bytes of a span or register stand together. -/
theorem unitRest_add {a k : Nat} (h : k ≤ unitRest a) : unitRest (a + k) = unitRest a - k := by
  unfold unitRest at *
  split at h
  · rw [if_pos (by omega), if_pos ‹_›]
    omega
  · split at h
    · rw [if_neg (by omega), if_pos (by omega), if_neg ‹_›, if_pos ‹_›]
      omega
    · obtain rfl := Nat.le_zero.mp h
      simp [*]

theorem unit_inside {a : Nat} (h : a < 65536) : a + unitLength a ≤ 65536 := by
  rw [unitLength_eq]
  unfold unitRest
  split
  · omega
  · split <;> omega

/-- A read frame `f` stands after all that `o` has been asked for, and holds the rest of the span or register of its last byte. -/
def StandsAfter (s : State) (o f : OpenRead) : Prop :=
  f = { addr := o.addr + BitVec.ofNat 16 o.want, held := f.held, want := 0, bits := 0, sent := f.sent, sentBits := f.sentBits } ∧
    (o.want ≤ o.held.length → f.held = o.held.drop o.want) ∧
    (o.held.length < o.want →
      f.held = (List.range (unitRest (o.addr + BitVec.ofNat 16 (o.want - 1)).toNat)).map fun i => readByte s o (o.want + i))

theorem standsAfter_shift {s : State} {o : OpenRead} (hb : o.bits = 0) (h : o.shift.done = true) : StandsAfter s o o.shift := by
  by_cases hlt : o.want < o.held.length
  · rw [OpenRead.shift_enough hlt]
    exact ⟨rfl, fun _ => rfl, fun h => absurd h (Nat.lt_asymm hlt)⟩
  · have hle := Nat.not_lt.mp hlt
    rw [OpenRead.shift_all hle] at h ⊢
    obtain ⟨hw, -⟩ := OpenRead.done_iff.mp h
    have hw : o.want = o.held.length := Nat.le_antisymm (Nat.le_of_sub_eq_zero hw) hle
    refine ⟨?_, fun _ => by simp [hw], fun h => absurd hw (Nat.ne_of_gt h)⟩
    simp [hw, hb]

theorem StandsAfter.of_shift {s : State} {o f : OpenRead} (hlt : o.held.length < o.want) (h : StandsAfter s o.shift f) :
    StandsAfter s o f := by
  have hle := Nat.le_of_lt hlt
  have hbyte (i : Nat) : readByte s o.shift (o.shift.want + i) = readByte s o (o.want + i) := by
    rw [readByte_shift hle, OpenRead.shift_all hle, ← Nat.add_assoc, Nat.add_sub_cancel' hle]
  have haddr (i : Nat) : o.shift.addr + BitVec.ofNat 16 (o.shift.want - i) = o.addr + BitVec.ofNat 16 (o.held.length + (o.want - o.held.length - i)) := by
    rw [OpenRead.shift_all hle, add_ofNat_ofNat]
  obtain ⟨hf, -, hmore⟩ := h
  have hlast : o.shift.addr + BitVec.ofNat 16 (o.shift.want - 1) = o.addr + BitVec.ofNat 16 (o.want - 1) := by
    rw [haddr 1, show o.held.length + (o.want - o.held.length - 1) = o.want - 1 by omega]
  refine ⟨?_, fun h => absurd hlt (Nat.not_lt.mpr h), fun _ => ?_⟩
  · have hend := haddr 0
    rw [Nat.sub_zero, Nat.sub_zero, Nat.add_sub_cancel' hle] at hend
    rwa [hend] at hf
  · have := hmore (by rw [OpenRead.shift_all hle]; exact Nat.sub_pos_of_lt hlt)
    simpa only [hlast, hbyte] using this

theorem StandsAfter.of_takeUnit {s : State} {o f : OpenRead} (hh : o.held = []) (hw : 0 < o.want)
    (h : StandsAfter s (s.takeUnit o) f) : StandsAfter s o f := by
  obtain ⟨hf, henough, hmore⟩ := h
  refine ⟨hf, fun h => ?_, fun _ => ?_⟩
  · rw [hh] at h
    exact absurd hw (Nat.not_lt.mpr h)
  · by_cases hle : (s.takeUnit o).want ≤ (s.takeUnit o).held.length
    · rw [henough hle]
      have hlen : (s.takeUnit o).held.length = unitLength o.addr.toNat := s.hostBytes_length _ _
      rw [hlen, unitLength_eq] at hle
      change o.want ≤ _ at hle
      have hin := unit_inside o.addr.isLt
      rw [unitLength_eq] at hin
      have hlast : (o.addr + BitVec.ofNat 16 (o.want - 1)).toNat = o.addr.toNat + (o.want - 1) := by
        rw [toNat_add_ofNat]
        omega
      rw [hlast, unitRest_add (by omega)]
      refine List.ext_getElem ?_ fun i h1 h2 => ?_
      · simp only [List.length_drop, hlen, unitLength_eq, List.length_map, List.length_range]
        change _ - o.want = _
        omega
      · rw [List.getElem_drop, ← readByte_held (s := s), readByte_takeUnit hh, List.getElem_map, List.getElem_range]
        rfl
    · have := hmore (Nat.not_le.mp hle)
      simp only [readByte_takeUnit hh] at this
      exact this

theorem ReadsAll.standsAfter {s : State} {o f : OpenRead} (h : ReadsAll s o f) (hb : o.bits = 0) : StandsAfter s o f := by
  induction h with
  | last hd => exact standsAfter_shift hb hd
  | @unit o f hd _ ih =>
    have hle := OpenRead.shift_of_not_done hd
    have hs := OpenRead.shift_all hle
    have hlt : o.held.length < o.want := by
      refine Nat.lt_of_le_of_ne hle fun heq => ?_
      rw [hs] at hd
      simp [OpenRead.done, hb, heq] at hd
    have hbits : (s.takeUnit o.shift).bits = 0 := by
      rw [hs]
      exact hb
    have hwant : 0 < o.shift.want := by
      rw [hs]
      exact Nat.sub_pos_of_lt hlt
    exact ((ih hbits).of_takeUnit (OpenRead.shift_held hd) hwant).of_shift hlt

/-! ### A read frame that is given what it needs -/

theorem OpenRead.NeedsOne.needsAccess {o : OpenRead} (h : o.NeedsOne) : o.needsAccess = true := by
  obtain ⟨hh, ha, hw, -⟩ := h
  exact (OpenRead.needsAccess_iff (OpenRead.wanted_pos_iff.mpr hw) hh).mpr ha

/-- A read frame that needs one access needs none once it has taken it. -/
theorem OpenRead.NeedsOne.takeUnit {s : State} {o : OpenRead} (h : o.NeedsOne) : (s.takeUnit o).NeedsNone := by
  obtain ⟨-, ha, -, hle⟩ := h
  intro i hi hiw
  have hlen : (s.takeUnit o).held.length = 16 - o.addr.toNat % 16 := by
    rw [State.takeUnit, State.hostBytes_length, unitLength, Config.xmSize, if_pos ha]
  change i < o.wanted at hiw
  omega

/-- With no other agent waiting, or needing no access, or one that it is given, a read frame is taken to its end. -/
theorem State.runRead_given {s : State} {o : OpenRead} {waiting : List XmAgent}
    (h : (∀ r, State.serves { s with rotation := r } .link waiting = true) ∨ o.NeedsNone ∨ (o.NeedsOne ∧ s.serves .link waiting = true)) :
    ∃ f r, s.runRead (some waiting) o.units o = ({ s with rotation := r }, f) ∧ ReadsAll s o f ∧
      (o.NeedsNone → r = s.rotation) ∧ (¬o.NeedsNone → r = .link) := by
  have whole := State.runRead_all (access := some waiting) o.units s o (.inl o.wanted_le_units)
  rcases h with h | h | ⟨hone, hs⟩
  · exact whole (.inr h)
  · exact whole (.inl h)
  · have ha := hone.needsAccess
    have hshift := OpenRead.shift_waiting ha
    have hd : o.done = false := OpenRead.wanted_pos_iff.mpr hone.2.2.1
    obtain ⟨f, r, hrun, hall, hr, -⟩ := State.runRead_all (access := some waiting) o.want { s with rotation := .link } (s.takeUnit o)
      (.inr ⟨s.takeUnit_held_ne o, o.wanted_le_units⟩) (.inl hone.takeUnit)
    refine ⟨f, .link, ?_, ?_, fun h => absurd h (OpenRead.not_needsNone ha), fun _ => rfl⟩
    · rw [OpenRead.units, State.runRead, hshift]
      simp only [hd, ha, Bool.false_eq_true, if_false, if_true, State.linkServed, hs]
      rw [hrun, hr hone.takeUnit]
    · have hall := (SameReads.rotated s .link).readsAll hall
      rw [← hshift] at hall hd
      exact .unit hd hall

theorem OpenRead.NeedsMore.needsAccess {o : OpenRead} (h : o.NeedsMore) : o.needsAccess = true := by
  obtain ⟨hh, ha, hw⟩ := h
  exact (OpenRead.needsAccess_iff (OpenRead.wanted_pos_iff.mpr (by omega)) hh).mpr (by omega)

/-- The first span of a read frame that needs more. -/
theorem OpenRead.NeedsMore.shift_takeUnit {s : State} {o : OpenRead} (h : o.NeedsMore) : (s.takeUnit o).shift = o.afterSpan s := by
  obtain ⟨hh, ha, hw⟩ := h
  have hlen : unitLength o.addr.toNat = 16 - o.addr.toNat % 16 := by
    rw [unitLength, Config.xmSize, if_pos (by omega)]
  have hbytes : s.hostBytes o.addr.toNat (unitLength o.addr.toNat) =
      (List.range (16 - o.addr.toNat % 16)).map fun i => Memory.read s.xm (o.addr.toNat + i) := by
    refine List.ext_getElem (by simp [State.hostBytes_length, hlen]) fun i h1 h2 => ?_
    have hi : i < 16 - o.addr.toNat % 16 := by simpa using h2
    rw [State.hostBytes_getElem, List.getElem_map, List.getElem_range, Nat.mod_eq_of_lt (by omega), State.hostByte, if_pos (by omega)]
  have hwant : 16 - o.addr.toNat % 16 ≤ o.want := by
    unfold OpenRead.wanted at hw
    split at hw <;> omega
  rw [OpenRead.shift_all (by simp only [State.takeUnit, State.hostBytes_length, hlen]; exact hwant)]
  simp only [State.takeUnit, hbytes, List.length_map, List.length_range, OpenRead.afterSpan, hh]

/-- Once it has taken its first span, a read frame that needs more needs an access again. -/
theorem OpenRead.NeedsMore.afterSpan_needsAccess {s : State} {o : OpenRead} (h : o.NeedsMore) : (o.afterSpan s).needsAccess = true := by
  obtain ⟨hh, ha, hw⟩ := h
  refine (OpenRead.needsAccess_iff (o := o.afterSpan s) (OpenRead.wanted_pos_iff.mpr ?_) hh).mpr ?_
  · simp only [OpenRead.wanted, OpenRead.afterSpan] at hw ⊢
    split at hw <;> simp only [*, if_true, if_false] <;> omega
  · simp only [OpenRead.afterSpan]
    rw [toNat_add_ofNat]
    omega

/-- A read frame that needs more than one span waits after its first where another agent waits too. -/
theorem State.runRead_firstSpan {s : State} {o : OpenRead} {waiting : List XmAgent} (h : o.NeedsMore)
    (hs : s.serves .link waiting = true) (hn : ¬State.serves { s with rotation := .link } .link waiting = true) :
    s.runRead (some waiting) o.units o = ({ s with rotation := .link }, o.afterSpan s) := by
  have ha := h.needsAccess
  have hd : o.done = false := OpenRead.wanted_pos_iff.mpr (by have := h.2.2; omega)
  obtain ⟨n, hn'⟩ : ∃ n, o.want = n + 1 := by
    have := h.2.2
    unfold OpenRead.wanted at this
    refine Nat.exists_eq_succ_of_ne_zero fun h0 => ?_
    split at this <;> omega
  have ha' := h.afterSpan_needsAccess (s := s)
  have hd' : (o.afterSpan s).done = false := by
    simp only [OpenRead.needsAccess, Bool.and_eq_true, Bool.not_eq_true'] at ha'
    exact ha'.1.1
  rw [OpenRead.units, State.runRead, OpenRead.shift_waiting ha]
  simp only [hd, ha, Bool.false_eq_true, if_false, if_true, State.linkServed, hs]
  rw [hn', State.runRead, h.shift_takeUnit]
  simp only [hd', ha', Bool.false_eq_true, if_false, if_true, State.linkServed, hn]

/-! ### The front of the link's queue -/

theorem SameReads.withLink (s : State) (queue : List LinkEntry) (o : Option OpenRead) (miso : List Byte) (bits : List Bool) :
    SameReads (s.withLink queue o miso bits) s :=
  ⟨rfl, fun k => by
    unfold State.register
    rfl⟩

/-- A read frame that is not given its access stands where it is. -/
theorem State.runRead_notServed {s : State} {access : Option (List XmAgent)} {o : OpenRead} (ha : o.needsAccess = true)
    (hn : s.linkServed access = false) : ∀ n, s.runRead access n o = (s, o)
  | 0 => by rw [State.runRead, OpenRead.shift_waiting ha]
  | n + 1 => by
    rw [State.runRead, OpenRead.shift_waiting ha]
    simp [ha, hn]

theorem OpenRead.needsAccess_not_done {o : OpenRead} (h : o.needsAccess = true) : o.done = false := by
  simp only [OpenRead.needsAccess, Bool.and_eq_true, Bool.not_eq_true'] at h
  exact h.1.1

/-- A chunk or a register write stops the link. -/
theorem State.settleFrom_write {s : State} {access : Option (List XmAgent)} {e : LinkEntry} {rest : List LinkEntry}
    (hd : e ≠ .discard) (hr : ∀ r, e ≠ .read r) : s.settleFrom access (e :: rest) = { s with linkQueue := e :: rest } := by
  cases e with
  | discard => exact absurd rfl hd
  | read r => exact absurd rfl (hr r)
  | chunk => rfl
  | reg => rfl

/-- A read that is not given its access stops the link. -/
theorem State.settleFrom_notServed {s : State} {access : Option (List XmAgent)} {o : OpenRead} {rest : List LinkEntry}
    (ha : o.needsAccess = true) (hn : s.linkServed access = false) :
    s.settleFrom access (.read o :: rest) = { s with linkQueue := .read o :: rest } := by
  simp only [State.settleFrom, State.runRead_notServed ha hn, OpenRead.needsAccess_not_done ha, Bool.false_eq_true, if_false]

/-- What the arbiter gives a read frame: all its accesses, since no other agent waits, or none, or one, as it needs (R166). -/
def OpenRead.Given (s : State) (o : OpenRead) (waiting : List XmAgent) : Prop :=
  s.Alone .link waiting ∨ o.NeedsNone ∨ (o.NeedsOne ∧ s.serves .link waiting = true)

theorem State.runRead_withLink {s : State} {o : OpenRead} {waiting : List XmAgent} (h : o.Given s waiting)
    (queue : List LinkEntry) (p : Option OpenRead) (miso : List Byte) (bits : List Bool) :
    ∃ f r, (s.withLink queue p miso bits).runRead (some waiting) o.units o =
        ({ s.withLink queue p miso bits with rotation := r }, f) ∧ ReadsAll s o f ∧
      (o.NeedsNone → r = s.rotation) ∧ (¬o.NeedsNone → r = .link) := by
  obtain ⟨f, r, hrun, hall, hr⟩ := State.runRead_given (s := s.withLink queue p miso bits) (o := o) (waiting := waiting)
    (h.imp (fun ha r => ha.serves r queue p miso bits) (Or.imp_right (And.imp_right fun hs => (s.serves_withLink ..).trans hs)))
  exact ⟨f, r, hrun, (SameReads.withLink s queue p miso bits).readsAll hall, hr⟩

/-- A read at the front of the link's queue that is given what it needs is done. -/
theorem State.settleFrom_given {s : State} {o : OpenRead} {waiting : List XmAgent} (h : o.Given s waiting)
    (queue : List LinkEntry) (miso : List Byte) (bits : List Bool) :
    ∃ f r, (s.withLink queue none miso bits).settleFrom (some waiting) [.read o] =
        { s.withLink [] none f.sent f.sentBits with rotation := r } ∧ ReadsAll s o f ∧
      (o.NeedsNone → r = s.rotation) ∧ (¬o.NeedsNone → r = .link) := by
  obtain ⟨f, r, hrun, hall, hr⟩ := State.runRead_withLink h queue none miso bits
  refine ⟨f, r, ?_, hall, hr⟩
  simp only [State.settleFrom, hrun, hall.done, if_true]
  rfl

/-- A read in progress, with nothing before it, goes on. -/
theorem State.settleFrom_nil {s w : State} {access : Option (List XmAgent)} {o f : OpenRead} {miso : List Byte} {bits : List Bool}
    (h : (s.withLink [] (some o) miso bits).runRead access o.units o = (w, f)) :
    (s.withLink [] (some o) miso bits).settleFrom access [] = { w.showRead f with openRead := some f } := by
  change (let u := (s.withLink [] (some o) miso bits).runRead access o.units o
    ({ u.1.showRead u.2 with openRead := some u.2 } : State)) = _
  rw [h]

theorem State.runRead_firstSpan_withLink {s : State} {o : OpenRead} {waiting : List XmAgent} (hm : o.NeedsMore)
    (hs : s.serves .link waiting = true) (hn : ¬s.Alone .link waiting) (queue : List LinkEntry) (p : Option OpenRead)
    (miso : List Byte) (bits : List Bool) :
    (s.withLink queue p miso bits).runRead (some waiting) o.units o =
      ({ s.withLink queue p miso bits with rotation := .link }, o.afterSpan s) :=
  State.runRead_firstSpan hm ((State.serves_withLink s waiting queue p miso bits).trans hs)
    (State.not_serves_after_own hn queue p miso bits)

/-- A read at the front of the link's queue that needs more than one span waits after the first where another agent waits too. -/
theorem State.settleFrom_firstSpan {s : State} {o : OpenRead} {waiting : List XmAgent} (hm : o.NeedsMore)
    (hs : s.serves .link waiting = true) (hn : ¬s.Alone .link waiting) (queue : List LinkEntry) (miso : List Byte) (bits : List Bool) :
    (s.withLink queue none miso bits).settleFrom (some waiting) [.read o] =
      { s.withLink [.read (o.afterSpan s)] none miso bits with rotation := .link } := by
  simp only [State.settleFrom, State.runRead_firstSpan_withLink hm hs hn, OpenRead.needsAccess_not_done hm.afterSpan_needsAccess,
    Bool.false_eq_true, if_false]
  rfl

/-! ### Parts of a read frame -/

/-- A read frame that has been asked for more goes on, where it stands, after the accesses of the fetch side before it. -/
theorem State.readOn_eq (s : State) (o : OpenRead) (ends : Bool) (x : Access) :
    s.readOn o ends x =
      ((s.fetchTurns x.turns).withLink (if ends then s.linkQueue ++ [.read o] else s.linkQueue) (if ends then none else some o) o.sent
        o.sentBits).settleFrom (some x.waiting) (if ends then s.linkQueue ++ [.read o] else s.linkQueue) := by
  have hshow : s.readOn o ends x =
      (s.withLink (if ends then s.linkQueue ++ [.read o] else s.linkQueue) (if ends then none else some o) o.sent
        o.sentBits).serveReads x := by
    cases ends <;> rfl
  rw [hshow, State.serveReads, State.fetchTurns_withLink]
  rfl

theorem State.withRead_eq (s : State) (queue : List LinkEntry) (o : OpenRead) (ends : Bool) (miso : List Byte) (bits : List Bool) :
    ({ s with miso := miso, misoBits := bits } : State).withRead queue o ends =
      s.withLink (if ends then queue ++ [.read o] else queue) (if ends then none else some o) miso bits := by
  cases ends <;> rfl

/-- Behind a chunk or a register write a read waits. -/
theorem State.readOn_behindWrite {s : State} {o : OpenRead} {e : LinkEntry} {rest : List LinkEntry} (hq : s.linkQueue = e :: rest)
    (hd : e ≠ .discard) (hr : ∀ r, e ≠ .read r) (ends : Bool) (x : Access) :
    s.readOn o ends x =
      (s.fetchTurns x.turns).withLink (if ends then s.linkQueue ++ [.read o] else s.linkQueue) (if ends then none else some o) o.sent
        o.sentBits := by
  rw [State.readOn_eq, hq]
  cases ends
  · exact State.settleFrom_write hd hr
  · exact State.settleFrom_write hd hr

/-- Behind a read that is not given its access a read waits. -/
theorem State.readOn_behindRead {s : State} {o r : OpenRead} {rest : List LinkEntry} (hq : s.linkQueue = .read r :: rest)
    (ha : r.needsAccess = true) (ends : Bool) {x : Access} (hs : ¬(s.fetchTurns x.turns).serves .link x.waiting = true) :
    s.readOn o ends x =
      (s.fetchTurns x.turns).withLink (if ends then s.linkQueue ++ [.read o] else s.linkQueue) (if ends then none else some o) o.sent
        o.sentBits := by
  have hn (queue : List LinkEntry) (p : Option OpenRead) :
      State.linkServed ((s.fetchTurns x.turns).withLink queue p o.sent o.sentBits) (some x.waiting) = false :=
    (State.serves_withLink ..).trans (Bool.not_eq_true _ ▸ hs)
  rw [State.readOn_eq, hq]
  cases ends
  · exact State.settleFrom_notServed ha (hn _ _)
  · exact State.settleFrom_notServed ha (hn _ _)

section
variable {s : State} {o : OpenRead} {x : Access} (hq : s.linkQueue = []) (ends : Bool)
include hq

/-- With nothing before it, a read that is given what it needs shifts out all that it has been asked for. -/
theorem State.readOn_given (h : o.Given (s.fetchTurns x.turns) x.waiting) :
    ∃ f r, s.readOn o ends x =
        { (s.fetchTurns x.turns).withLink [] (if ends then none else some f) f.sent f.sentBits with rotation := r } ∧
      ReadsAll (s.fetchTurns x.turns) o f ∧ (o.NeedsNone → r = (s.fetchTurns x.turns).rotation) ∧ (¬o.NeedsNone → r = .link) := by
  rw [State.readOn_eq, hq]
  cases ends
  · obtain ⟨f, r, hrun, hall, hr⟩ := State.runRead_withLink h [] (some o) o.sent o.sentBits
    exact ⟨f, r, State.settleFrom_nil hrun, hall, hr⟩
  · exact State.settleFrom_given h [.read o] o.sent o.sentBits

/-- With nothing before it, a read that is not given its access waits. -/
theorem State.readOn_notServed (ha : o.needsAccess = true) (hs : ¬(s.fetchTurns x.turns).serves .link x.waiting = true) :
    s.readOn o ends x =
      (s.fetchTurns x.turns).withLink (if ends then [.read o] else []) (if ends then none else some o) o.sent o.sentBits := by
  have hn (queue : List LinkEntry) (p : Option OpenRead) :
      State.linkServed ((s.fetchTurns x.turns).withLink queue p o.sent o.sentBits) (some x.waiting) = false :=
    (State.serves_withLink ..).trans (Bool.not_eq_true _ ▸ hs)
  rw [State.readOn_eq, hq]
  cases ends
  · exact State.settleFrom_nil (State.runRead_notServed ha (hn _ _) _)
  · exact State.settleFrom_notServed ha (hn _ _)

/-- With nothing before it, a read that needs more than one span waits after the first where another agent waits too. -/
theorem State.readOn_firstSpan (hm : o.NeedsMore) (hs : (s.fetchTurns x.turns).serves .link x.waiting = true)
    (hn : ¬(s.fetchTurns x.turns).Alone .link x.waiting) :
    s.readOn o ends x =
      { (s.fetchTurns x.turns).withLink (if ends then [.read (o.afterSpan (s.fetchTurns x.turns))] else [])
          (if ends then none else some (o.afterSpan (s.fetchTurns x.turns)))
          (if ends then o.sent else (o.afterSpan (s.fetchTurns x.turns)).sent) o.sentBits with rotation := .link } := by
  rw [State.readOn_eq, hq]
  cases ends
  · exact State.settleFrom_nil (State.runRead_firstSpan_withLink hm hs hn _ _ _ _)
  · exact State.settleFrom_firstSpan hm hs hn _ _ _

end

/-- What O20 asks of a part of a read frame. -/
theorem readGoesOn_readOn (s : State) {o : OpenRead} {ends : Bool} (hb : ends = false → o.bits = 0) (x : Access) :
    ReadGoesOn s (s.readOn o ends x) o ends x := by
  unfold ReadGoesOn
  refine ⟨?_, ?_, fun hq h => ?_, fun hq ha hs => ?_, fun hq hm hs hn => ?_⟩
  · rintro ⟨e, rest, hq, hd, hr⟩
    rw [State.readOn_behindWrite hq hd hr]
    exact (State.withRead_eq ..).symm
  · rintro ⟨r, rest, hq, ha⟩ hs
    rw [State.readOn_behindRead hq ha ends hs]
    exact (State.withRead_eq ..).symm
  · obtain ⟨f, r, hread, hall, hnone, hlink⟩ := State.readOn_given hq ends h
    rw [hread]
    refine ⟨hall.answered, fun he => by subst he; rfl, fun he => ?_, hnone, hlink, rfl⟩
    obtain ⟨hf, hrest⟩ := hall.standsAfter (hb he)
    subst he
    exact ⟨f.held, congrArg some hf, hrest⟩
  · rw [State.readOn_notServed hq ends ha hs]
    exact (State.withRead_eq ..).symm
  · rw [State.readOn_firstSpan hq ends hm hs hn]
    cases ends <;> rfl

/-- A bit of a register as a read frame shifts it out. -/
theorem State.hostByte_register (s : State) {k b : Nat} (hk : k < 6) (hb : b < 32) :
    (s.hostByte (0x4000 + 4 * k + b / 8)).getLsbD (b % 8) = registerBit s k b := by
  rw [State.hostByte, if_neg (by omega), if_pos (by omega), show (0x4000 + 4 * k + b / 8 - 0x4000) / 4 = k by omega,
    show (0x4000 + 4 * k + b / 8) % 4 = b / 8 by omega, ← State.register_bit s hb]
  simp only [BitVec.getLsbD_setWidth, BitVec.getLsbD_ushiftRight, Nat.div_add_mod, Nat.mod_lt b (by decide : 0 < 8), decide_true,
    Bool.true_and]

/-- A read frame in progress stays in progress. -/
theorem State.settleFrom_openRead (s : State) (access : Option (List XmAgent)) (es : List LinkEntry) :
    (s.settleFrom access es).openRead.isSome = s.openRead.isSome := by
  induction es generalizing s with
  | nil =>
    rw [State.settleFrom]
    split
    · next h => rw [h]
    · next h => rw [h]; rfl
  | cons e es ih =>
    cases e with
    | chunk => rfl
    | reg => rfl
    | discard => exact ih s.countDiscard
    | read o =>
      have hframe : (s.runRead access o.units o).1.openRead = s.openRead := by rw [State.runRead_frame]
      rw [State.settleFrom]
      dsimp only
      split
      · exact (ih _).trans (congrArg Option.isSome hframe)
      · exact congrArg Option.isSome hframe

/-- MISO is driven until CSN rises (R159). -/
theorem State.readOn_misoDriven {s : State} (awake : s.Awake) (hr : s.awaitCsnRise = false) (o : OpenRead) (ends : Bool) (x : Access) :
    (s.readOn o ends x).misoDriven = !ends := by
  have hopen : (s.readOn o ends x).openRead.isSome = !ends := by
    rw [State.readOn_eq, State.settleFrom_openRead]
    cases ends <;> rfl
  have hrise : (s.readOn o ends x).awaitCsnRise = false := by
    rw [State.readOn_eq, State.settleFrom_frame]
    exact (State.fetchTurns_awaitCsnRise s x.turns).trans hr
  have hhold : (s.readOn o ends x).inReset = false := by
    rw [State.readOn_eq, State.settleFrom_frame]
    have hx : (s.fetchTurns x.turns).inReset = s.inReset := by rw [State.inReset, State.fetchTurns_hold, State.inReset]
    exact hx.trans awake
  simp [State.misoDriven, State.csnLow, hopen, hrise, hhold]

/-! ### O20 -/

section
variable {s : State} (awake : s.Awake)
include awake

theorem exec_readFrame (hr : s.awaitCsnRise = false) (body : List Byte) (extra : Fin 8) (ends : Bool) (x : Access) :
    exec (.readFrame body extra x ends) s = .next (s.takeRead body extra ends x) := by
  have : exec (.readFrame body extra x ends) s = s.act fun s => s.readFrame body extra ends x := rfl
  rw [this, State.act_awake awake, State.readFrame, State.takeFrame_taken hr]

/-- A part of a frame that has been asked for what `o` says. -/
theorem exec_readFrame_readOn (hr : s.awaitCsnRise = false) {body : List Byte} {extra : Fin 8} {ends : Bool} {x : Access} {o : OpenRead}
    (ht : s.takeRead body extra ends x = s.readOn o ends x) (hb : ends = false → o.bits = 0) :
    ∃ t, exec (.readFrame body extra x ends) s = .next t ∧ t.misoDriven = !ends ∧ ReadGoesOn s t o ends x :=
  ⟨_, exec_readFrame awake hr body extra ends x, ht ▸ State.readOn_misoDriven awake hr o ends x, ht ▸ readGoesOn_readOn s hb x⟩

end

/-- A part of a frame without a byte gives a read that waits its access. -/
theorem State.takeRead_waiting {s : State} {o : OpenRead} {x : Access} (ho : s.openRead = none) (hq : s.linkQueue = [.read o])
    (ha : o.needsAccess = true) (extra : Fin 8) :
    s.takeRead [] extra false x = (s.fetchTurns x.turns).settleFrom (some x.waiting) [.read o] := by
  have hw : s.readWaits = true := by rw [State.readWaits, hq]; exact ha
  have hu : (s.fetchTurns x.turns).linkQueue = [.read o] := (s.fetchTurns_linkQueue _).trans hq
  simp only [State.takeRead, ho, List.length_nil, Nat.zero_lt_succ, if_true, Bool.false_eq_true, if_false, List.isEmpty_nil, hw,
    Bool.and_self, State.serveReads, hu]

/-- A part of a frame that is no read in progress, and gives no waiting read its access, does nothing. -/
theorem State.takeRead_nothing {s : State} {body : List Byte} (ho : s.openRead = none) (hl : body.length < 2)
    (hn : body ≠ [] ∨ ∀ o rest, s.linkQueue = .read o :: rest → o.needsAccess = false) (extra : Fin 8) (x : Access) :
    s.takeRead body extra false x = s := by
  have hw : (body.isEmpty && s.readWaits) = false := by
    rcases hn with hn | hn
    · rw [List.isEmpty_eq_false_iff.mpr hn, Bool.false_and]
    · have : s.readWaits = false := by
        unfold State.readWaits
        split
        · next o rest h => exact hn o rest h
        · rfl
      rw [this, Bool.and_false]
  simp only [State.takeRead, ho, hl, if_true, Bool.false_eq_true, if_false, hw]

/-- The link's own fields, written out. -/
theorem State.withLink_self {s : State} {queue : List LinkEntry} {o : Option OpenRead} (hq : s.linkQueue = queue) (ho : s.openRead = o) :
    s.withLink queue o s.miso s.misoBits = s := by
  subst hq ho
  rfl

/-- With no read frame in progress. -/
theorem State.withLink_closed {s : State} (ho : s.openRead = none) (queue : List LinkEntry) (miso : List Byte) (bits : List Bool) :
    s.withLink queue none miso bits = { s with linkQueue := queue, miso := miso, misoBits := bits } := by
  rw [← ho]
  rfl

theorem exec_tornFrame {s : State} (awake : s.Awake) (hr : s.awaitCsnRise = true) (body : List Byte) (extra : Fin 8) (ends : Bool)
    (x : Access) :
    exec (.readFrame body extra x ends) s = .next { s with awaitCsnRise := !ends } ∧
      exec (.writeFrame body extra) s = .next { s with awaitCsnRise := false } := by
  have hread : exec (.readFrame body extra x ends) s = s.act fun s => s.readFrame body extra ends x := rfl
  have hwrite : exec (.writeFrame body extra) s = s.act fun s => s.writeFrame body extra := rfl
  rw [hread, hwrite, State.act_awake awake, State.act_awake awake]
  simp [State.readFrame, State.writeFrame, State.wholeFrame, State.takeFrame, hr]

/-- Settles O20. -/
theorem readFrameShiftsOutBytes : Obligations.ReadFrameShiftsOutBytes := by
  refine ⟨⟨fun s a ha => if_pos ha, fun s k b hk hb => s.hostByte_register hk hb, fun s a ha => ?_⟩,
    fun s lo hi rest extra ends x awake hr ho => ?_, fun s o body extra ends x awake hr ho => ?_,
    fun s o extra x awake hr ho hq ha => ⟨fun hs => ?_, fun hg => ?_, fun hm hs hn => ?_⟩,
    fun s body extra x awake hr ho hl hn => ?_, fun s body extra ends x awake hr => ⟨?_, ?_⟩⟩
  · rw [State.hostByte, if_neg (by omega), if_neg (by omega)]
  · refine exec_readFrame_readOn awake hr ?_ fun he => by simp [he]
    simp [State.takeRead, ho, field16, byteAt, readLead]
  · refine exec_readFrame_readOn awake hr ?_ fun he => by simp [he]
    simp only [State.takeRead, ho]
  · have hu : (s.fetchTurns x.turns).linkQueue = [.read o] := (s.fetchTurns_linkQueue _).trans hq
    rw [exec_readFrame awake hr, State.takeRead_waiting ho hq ha, State.settleFrom_notServed (access := some x.waiting) ha hs, ← hu]
  · have huo : (s.fetchTurns x.turns).openRead = none := (s.fetchTurns_openRead _).trans ho
    obtain ⟨f, r, hrun, hall, -, hlink⟩ := State.settleFrom_given (hg.imp_right .inr) [.read o] (s.fetchTurns x.turns).miso
      (s.fetchTurns x.turns).misoBits
    rw [State.withLink_self ((s.fetchTurns_linkQueue _).trans hq) huo, State.withLink_closed huo,
      hlink (OpenRead.not_needsNone ha)] at hrun
    rw [exec_readFrame awake hr, State.takeRead_waiting ho hq ha, hrun]
    exact ⟨_, rfl, hall.answered, rfl⟩
  · have huo : (s.fetchTurns x.turns).openRead = none := (s.fetchTurns_openRead _).trans ho
    have hrun := State.settleFrom_firstSpan hm hs hn [.read o] (s.fetchTurns x.turns).miso (s.fetchTurns x.turns).misoBits
    rw [State.withLink_self ((s.fetchTurns_linkQueue _).trans hq) huo, State.withLink_closed huo] at hrun
    rw [exec_readFrame awake hr, State.takeRead_waiting ho hq ha, hrun]
  · rw [exec_readFrame awake hr, State.takeRead_nothing ho hl hn]
  · exact (exec_tornFrame awake hr body extra ends x).1
  · exact (exec_tornFrame awake hr body extra ends x).2

end Sys2Proof.Machine
end


section
/-! PROOFS. The accesses of the fetch side (R100, R114, R53, R138, R166), one after another: the end of a START, of the reading of a
record, of a pattern copy and of a snapshot write, O29, O31, O42 and O47. -/

namespace Sys2Proof.Machine

-- One declaration after another: so the whole text compiles within the memory of the check.
set_option Elab.async false

/-! ### One access -/

/-- The agent that takes an access of the fetch side then stands at the rotation's position, and goes on or has finished. -/
theorem State.fetchTurn_agent {s : State} {a : XmAgent} (h : s.fetchAgent = some a) :
    s.fetchTurn.rotation = a ∧ (s.fetchTurn.fetchAgent = some a ∨ s.fetchTurn.fetchAgent = none) := by
  unfold State.fetchAgent at h
  split at h
  · next f got hc =>
    split at h
    · next hl =>
      obtain rfl := Option.some.inj h
      have ht : s.fetchTurn = { s with configRead := some (got ++ s.spanAt got.length), rotation := .fetch } := by
        simp only [State.fetchTurn, hc, hl, if_true]
      rw [ht]
      refine ⟨rfl, ?_⟩
      simp only [State.fetchAgent]
      split <;> simp
    · cases h
  · next q got hc hf =>
    split at h
    · next hl =>
      obtain rfl := Option.some.inj h
      have ht : s.fetchTurn =
          { s with fetch := .reading q (got ++ s.spanAt (s.recordOffset q got)) false, rotation := .fetch } := by
        simp only [State.fetchTurn, hc, hf, hl, if_true]
      rw [ht]
      refine ⟨rfl, ?_⟩
      simp only [State.fetchAgent, hc]
      split <;> simp
    · cases h
  · next n src o got hc hf =>
    split at h
    · next hl =>
      obtain rfl := Option.some.inj h
      have ht : s.fetchTurn =
          { s with fetch := .loading n src o (got ++ s.spanAt (src / 16 * 16 + got.length)), rotation := .loader } := by
        simp only [State.fetchTurn, hc, hf, hl, if_true]
      rw [ht]
      refine ⟨rfl, ?_⟩
      simp only [State.fetchAgent, hc]
      split <;> simp
    · cases h
  · next target o picture taken hc hf =>
    split at h
    · next hl =>
      obtain rfl := Option.some.inj h
      have ht : s.fetchTurn = { s with
          xm := Memory.writeBytes s.xm (target + 16 * taken) ((picture.drop (16 * taken)).take 16)
          fetch := .snapshotting target o picture (taken + 1), rotation := .snapshot } := by
        simp only [State.fetchTurn, hc, hf, hl, if_true]
      rw [ht]
      refine ⟨rfl, ?_⟩
      simp only [State.fetchAgent, hc]
      split <;> simp
    · cases h
  · cases h

/-- An agent that is none of the fetch side's. -/
def agentApart : XmAgent → Bool
  | .link => true
  | .posting => true
  | .capture => true
  | _ => false

/-- Accesses of the fetch side do not matter to what the other agents have to do. -/
theorem State.fetchTurn_hasAccess (s : State) {b : XmAgent} (hb : agentApart b = true) : s.fetchTurn.hasAccess b = s.hasAccess b := by
  obtain ⟨hc, hf⟩ : s.fetchTurn.configRead.isSome = s.configRead.isSome ∧ (s.fetchTurn.fetch == .idle) = (s.fetch == .idle) := by
    unfold State.fetchTurn
    split
    · next got hc => split <;> simp [hc]
    · next hc =>
      split
      · next hf => split <;> simp [hc, hf]
      · next hf => split <;> simp [hc, hf]
      · next hf => split <;> simp [hc, hf]
      · simp [hc]
  cases b with
  | link => rw [State.fetchTurn_frame]; rfl
  | capture => rw [State.fetchTurn_frame]; rfl
  | posting =>
    have hheld : s.fetchTurn.postingHeld = s.postingHeld := by
      have he : s.fetchTurn.engine = s.engine := by rw [State.fetchTurn_frame]
      have hl (l : Fin 4) : s.fetchTurn.lane l = s.lane l := by rw [State.fetchTurn_frame]; rfl
      have hp : s.fetchTurn.pendingList = s.pendingList := by rw [State.fetchTurn_frame]
      simp only [State.postingHeld, State.drained, hc, hf, he, hl, hp]
    have hcand (q : Fin 2) : s.fetchTurn.candidate q = s.candidate q := by
      rw [State.fetchTurn_frame]
      rfl
    have hturn : s.fetchTurn.cqTurn = s.cqTurn := by rw [State.fetchTurn_frame]
    simp only [State.hasAccess, State.nextPost, hheld, hcand, hturn]
  | _ => cases hb

/-- An agent of the fetch side that has an access to make is the only one of them. -/
theorem State.fetchAgent_only {s : State} {a b : XmAgent} (h : s.fetchAgent = some a ∨ s.fetchAgent = none) (hb : b ≠ a)
    (hx : s.hasAccess b = true) : agentApart b = true := by
  cases b with
  | link => rfl
  | posting => rfl
  | capture => rfl
  | _ =>
    simp only [State.hasAccess, beq_iff_eq] at hx
    rcases h with h | h
    · exact absurd (Option.some.inj (hx.symm.trans h)) hb
    · rw [h] at hx
      cases hx

/-! ### Several accesses -/

/-- The agent that has been served comes last. -/
theorem rotation_last : ∀ b a : Fin 6, b ≠ a → (b - a - 1).val < (a - a - 1).val := by decide


theorem State.fetchServed_iff {s : State} {waiting : List XmAgent} :
    s.fetchServed waiting = true ↔ ∃ a, s.fetchAgent = some a ∧ s.serves a waiting = true := by
  unfold State.fetchServed
  split
  · next a h => simp [h]
  · next h => simp [h]

/-- Where no access is taken, nothing happens. -/
theorem State.iterateTurns_stop {s : State} {waiting : List XmAgent} (h : s.fetchServed waiting = false) :
    ∀ n, s.iterateTurns waiting n = s
  | 0 => rfl
  | n + 1 => by simp [State.iterateTurns, h]

/-- With no other agent waiting, an access is taken. -/
theorem State.Alone.fetchServed {s : State} {a : XmAgent} {waiting : List XmAgent} (h : s.Alone a waiting)
    (ha : s.fetchAgent = some a) : s.fetchServed waiting = true := by
  refine State.fetchServed_iff.mpr ⟨a, ha, List.all_eq_true.mpr fun b hb => decide_eq_true ?_⟩
  obtain ⟨hb, hx⟩ := List.mem_filter.mp hb
  rcases h b hb with rfl | hn
  · exact le_rfl
  · rw [hn] at hx
    cases hx

/-- No other agent comes to wait by an access. -/
theorem State.Alone.fetchTurn {s : State} {a : XmAgent} {waiting : List XmAgent} (h : s.Alone a waiting)
    (ha : s.fetchAgent = some a) : s.fetchTurn.Alone a waiting := by
  intro b hb
  refine or_iff_not_imp_left.mpr fun hne => ?_
  have hn := (h b hb).resolve_left hne
  by_contra hx
  have hx := Bool.not_eq_false _ ▸ hx
  rw [State.fetchTurn_hasAccess s (State.fetchAgent_only (State.fetchTurn_agent ha).2 hne hx), hn] at hx
  cases hx

/-- While no other agent waits, accesses follow one another as if the others were not there. -/
theorem State.Alone.iterateTurns {a : XmAgent} {waiting : List XmAgent} : ∀ (n : Nat) {s : State}, s.Alone a waiting →
    (s.fetchAgent = some a ∨ s.fetchAgent = none) → s.iterateTurns waiting n = s.iterateTurns [] n
  | 0, _, _, _ => rfl
  | n + 1, s, h, ha => by
    rcases ha with ha | ha
    · have hs : s.fetchServed waiting = true := h.fetchServed ha
      have hf : s.fetchServed [] = true := State.fetchServed_iff.mpr ⟨a, ha, rfl⟩
      rw [State.iterateTurns, State.iterateTurns, if_pos hs, if_pos hf]
      exact State.Alone.iterateTurns n (h.fetchTurn ha) (State.fetchTurn_agent ha).2
    · have hs (w : List XmAgent) : s.fetchServed w = false := by simp [State.fetchServed, ha]
      rw [State.iterateTurns_stop (hs _), State.iterateTurns_stop (hs _)]

/-- An agent finishes at once: no other agent waits, or nothing is left, or one access that it is given. -/
theorem State.iterateTurns_whole {s : State} {a : XmAgent} {waiting : List XmAgent} (ha : s.fetchAgent = some a ∨ s.fetchAgent = none)
    (h : s.Alone a waiting ∨ s.fetchAgent = none ∨ (s.serves a waiting = true ∧ s.fetchTurn.fetchAgent = none)) (n : Nat) :
    s.iterateTurns waiting n = s.iterateTurns [] n := by
  have stops {s : State} (hn : s.fetchAgent = none) (w : List XmAgent) (n : Nat) : s.iterateTurns w n = s :=
    State.iterateTurns_stop (by simp [State.fetchServed, hn]) n
  rcases ha with ha | ha
  · rcases h with h | h | ⟨hs, hn⟩
    · exact h.iterateTurns n (.inl ha)
    · rw [stops h, stops h]
    · cases n with
      | zero => rfl
      | succ n =>
        rw [State.iterateTurns, State.iterateTurns, if_pos (State.fetchServed_iff.mpr ⟨a, ha, hs⟩),
          if_pos (State.fetchServed_iff.mpr ⟨a, ha, rfl⟩), stops hn, stops hn]
  · rw [stops ha, stops ha]

/-- Where another agent waits, one access is taken and the other comes next. -/
theorem State.iterateTurns_once {s : State} {a : XmAgent} {waiting : List XmAgent} (ha : s.fetchAgent = some a)
    (hs : s.serves a waiting = true) (h : ¬s.Alone a waiting) (n : Nat) : s.iterateTurns waiting (n + 1) = s.fetchTurn := by
  obtain ⟨hr, hagent⟩ := State.fetchTurn_agent ha
  rw [State.iterateTurns, if_pos (State.fetchServed_iff.mpr ⟨a, ha, hs⟩)]
  refine State.iterateTurns_stop (Bool.not_eq_true _ ▸ fun hf => h fun b hb => ?_) n
  by_contra hn
  obtain ⟨hne, hx⟩ := not_or.mp hn
  have hx := Bool.not_eq_false _ ▸ hx
  obtain ⟨a', ha', hs'⟩ := State.fetchServed_iff.mp hf
  obtain rfl : a = a' := by
    rcases hagent with hagent | hagent
    · exact Option.some.inj (hagent.symm.trans ha')
    · rw [hagent] at ha'
      cases ha'
  have hapart := State.fetchAgent_only (.inl ha) hne hx
  have hle : s.fetchTurn.turnOf a ≤ s.fetchTurn.turnOf b :=
    of_decide_eq_true (List.all_eq_true.mp hs' b (List.mem_filter.mpr ⟨hb, (State.fetchTurn_hasAccess s hapart).trans hx⟩))
  have hlast := rotation_last (agentIndex b) (agentIndex a) (agentIndex_injective.ne hne)
  unfold State.turnOf at hle
  rw [hr] at hle
  exact absurd hlast (Nat.not_lt.mpr hle)

theorem Memory.readBytes_add (m : Memory) : ∀ (n k a : Nat), m.readBytes a (n + k) = m.readBytes a n ++ m.readBytes (a + n) k
  | 0, k, a => by
    rw [Nat.zero_add]
    rfl
  | n + 1, k, a => by
    rw [Nat.add_right_comm, Memory.readBytes, Memory.readBytes, Memory.readBytes_add m n k (a + 1), Nat.add_right_comm a 1 n]
    rfl

/-! ### Reading spans one after another -/

/-- An agent that reads spans one after another from a place on, at most to a length, as long as it needs more: `w` is the state with
what it has read and the rotation's position. -/
structure ReadsSpans (w : List Byte → XmAgent → State) (a : XmAgent) (m : Memory) (base total : Nat) (more : List Byte → Prop) : Prop where
  turn (got : List Byte) (r : XmAgent) : more got → (w got r).fetchAgent = some a ∧
    (w got r).fetchTurn = w (got ++ m.readBytes (base + got.length) 16) a
  stop (got : List Byte) (r : XmAgent) : ¬more got → (w got r).fetchAgent = none
  enough (got : List Byte) : got.length = total → ¬more got

/-- The reads end with all that is needed. -/
theorem ReadsSpans.iterateTurns {w : List Byte → XmAgent → State} {a : XmAgent} {m : Memory} {base total : Nat}
    {more : List Byte → Prop} (h : ReadsSpans w a m base total more) :
    ∀ (n : Nat) (got : List Byte) (r : XmAgent), got.length % 16 = total % 16 → got.length ≤ total → total ≤ got.length + 16 * n →
      ∃ k r', (w got r).iterateTurns [] n = w (got ++ m.readBytes (base + got.length) (16 * k)) r' ∧
        ¬more (got ++ m.readBytes (base + got.length) (16 * k)) ∧ got.length + 16 * k ≤ total ∧ (r' = a ∨ (r' = r ∧ ¬more got)) := by
  intro n
  induction n with
  | zero =>
    intro got r _ hle hn
    have hstop := h.enough got (by omega)
    exact ⟨0, r, by rw [Nat.mul_zero, Memory.readBytes, List.append_nil]; rfl,
      by rwa [Nat.mul_zero, Memory.readBytes, List.append_nil], by omega, .inr ⟨rfl, hstop⟩⟩
  | succ n ih =>
    intro got r hmod hle hn
    by_cases hm : more got
    · obtain ⟨ha, ht⟩ := h.turn got r hm
      have hlt : got.length < total := Nat.lt_of_le_of_ne hle fun he => h.enough got he hm
      have hlen : (got ++ m.readBytes (base + got.length) 16).length = got.length + 16 := by simp
      obtain ⟨k, r', hread, hstop, htotal, hr⟩ := ih (got ++ m.readBytes (base + got.length) 16) a (by omega) (by omega) (by omega)
      have hbytes : got ++ m.readBytes (base + got.length) 16 ++ m.readBytes (base + (got.length + 16)) (16 * k) =
          got ++ m.readBytes (base + got.length) (16 * (k + 1)) := by
        rw [List.append_assoc, ← Nat.add_assoc, ← Memory.readBytes_add, Nat.mul_succ, Nat.add_comm 16]
      rw [hlen] at hread hstop htotal
      rw [hbytes] at hread hstop
      refine ⟨k + 1, r', ?_, hstop, by omega, .inl (hr.elim id And.left)⟩
      rw [State.iterateTurns, if_pos (State.fetchServed_iff.mpr ⟨a, ha, rfl⟩), ht, hread]
    · refine ⟨0, r, ?_, ?_, by omega, .inr ⟨rfl, hm⟩⟩
      · rw [State.iterateTurns_stop (by simp [State.fetchServed, h.stop got r hm]), Nat.mul_zero, Memory.readBytes, List.append_nil]
      · rwa [Nat.mul_zero, Memory.readBytes, List.append_nil]

/-! ### The configuration block (R114 to R116) -/

/-- The state while the configuration block is read. -/
def State.readingConfig (s : State) (got : List Byte) (r : XmAgent) : State := { s with configRead := some got, rotation := r }

theorem State.readingConfig_agent (s : State) (got : List Byte) (r : XmAgent) :
    (s.readingConfig got r).fetchAgent = if got.length < 80 then some .fetch else none := rfl

theorem State.readingConfig_readsSpans (s : State) :
    ReadsSpans s.readingConfig .fetch s.xm 0 80 fun got => got.length < 80 where
  turn got r h := by
    refine ⟨by rw [State.readingConfig_agent, if_pos h], ?_⟩
    simp only [State.readingConfig, State.fetchTurn, h, if_true, State.spanAt, Nat.zero_add]
  stop got r h := by rw [State.readingConfig_agent, if_neg h]
  enough got h := by omega

theorem State.readingConfig_self {s : State} {got : List Byte} (hc : s.configRead = some got) : s.readingConfig got s.rotation = s := by
  rw [State.readingConfig, ← hc]

/-- The configuration block is read to its end. -/
theorem State.iterateTurns_config {s : State} {got : List Byte} (hc : s.configRead = some got) (hm : got.length % 16 = 0)
    (hl : got.length ≤ 80) :
    ∃ r, s.iterateTurns [] 5 = s.readingConfig (got ++ Memory.readBytes s.xm got.length (80 - got.length)) r ∧
      (got.length < 80 → r = .fetch) := by
  obtain ⟨k, r, hread, hstop, htotal, hr⟩ := s.readingConfig_readsSpans.iterateTurns 5 got s.rotation hm hl (by omega)
  rw [State.readingConfig_self hc, Nat.zero_add] at hread
  rw [List.length_append, Memory.readBytes_length] at hstop
  refine ⟨r, ?_, fun h => hr.resolve_right fun hn => hn.2 h⟩
  rw [hread, show 80 - got.length = 16 * k by omega]

theorem ConfigError.code_injective {e e' : ConfigError} (h : e.code = e'.code) : e = e' := by
  cases e <;> cases e' <;> first | rfl | exact absurd h (by decide)

/-- Only one check is the first that fails. -/
theorem firstConfigFault_unique {s : State} {b : List Byte} {e e' : ConfigError} (h : firstConfigFault s b e)
    (h' : firstConfigFault s b e') : e = e' := by
  rcases Nat.lt_trichotomy e.code e'.code with hlt | heq | hgt
  · exact absurd h.1 (h'.2 e hlt)
  · exact ConfigError.code_injective heq
  · exact absurd h'.1 (h.2 e' hgt)

theorem State.startSuccess_sq (s : State) (b : List Byte) (q : Fin 4) : (s.startSuccess b).sq q = sqFromConfig b q := by
  have : (s.startSuccess b).sq q = ((s.mapSqs fun n _ => sqFromConfig b n).mapCqs fun n _ => cqFromConfig b n).sq q := rfl
  rw [this, State.mapCqs_sq, State.mapSqs_sq]

theorem State.startSuccess_cq (s : State) (b : List Byte) (q : Fin 2) : (s.startSuccess b).cq q = cqFromConfig b q := by
  have : (s.startSuccess b).cq q = ((s.mapSqs fun n _ => sqFromConfig b n).mapCqs fun n _ => cqFromConfig b n).cq q := rfl
  rw [this, State.mapCqs_cq]

/-- A CQ number that names a CQ of the block. -/
theorem asFin_of_names {b : List Byte} {n : Nat} (h : ¬namesNoCq b n) : ∃ q : Fin 2, asFin 2 n = some q ∧ q.val = n := by
  have hlt : n < 2 := Nat.lt_of_not_le fun hle => h (.inl hle)
  exact ⟨⟨n, hlt⟩, asFin_val ⟨n, hlt⟩ rfl, rfl⟩

/-- The SQ context of a descriptor that passes the checks (R93, R115). -/
theorem sqFromConfig_present {s : State} {b : List Byte} (h : ∀ e, ¬ConfigFault s b e) {q : Fin 4}
    (hp : byteAt b (0x10 + 8 * q.val + 2) ≠ 0) :
    let x := sqFromConfig b q
    x.state = .empty ∧ x.head = 0 ∧ x.tail = 0 ∧ x.expected = 0 ∧ x.base = field16 b (0x10 + 8 * q.val) ∧
      x.size = 2 ^ byteAt b (0x10 + 8 * q.val + 2) ∧ x.cls = (if byteAt b (0x10 + 8 * q.val + 3) = 1 then .urgent else .normal) ∧
      (x.cls = .normal → x.weight = byteAt b (0x10 + 8 * q.val + 4)) ∧ x.target.val = byteAt b (0x10 + 8 * q.val + 5) := by
  have hpres : sqPresent b q = true := bne_iff_ne.mpr hp
  obtain ⟨cq, hcq, hval⟩ := asFin_of_names fun hn => h .badTarget (.inl ⟨q, hp, hn⟩)
  have htarget : (sqFromConfig b q).target = cq := by
    have : asFin 2 (sqDescriptor b q 5) = some cq := hcq
    simp only [sqFromConfig, hpres, if_true, this, Option.getD_some]
  refine ⟨?_, rfl, rfl, rfl, ?_, ?_, ?_, fun _ => ?_, htarget ▸ hval⟩
  · simp only [sqFromConfig, hpres, if_true]
  · simp only [sqFromConfig, hpres, if_true]
    rfl
  · exact ringSize_present hp
  · simp only [sqFromConfig, hpres, Bool.true_and, beq_iff_eq]
    rfl
  · simp only [sqFromConfig, hpres, if_true]
    rfl

theorem cqFromConfig_present {b : List Byte} {q : Fin 2} (hp : byteAt b (0x30 + 8 * q.val + 2) ≠ 0) :
    let x := cqFromConfig b q
    x.base = field16 b (0x30 + 8 * q.val) ∧ x.size = 2 ^ byteAt b (0x30 + 8 * q.val + 2) ∧
      x.coalCount = byteAt b (0x30 + 8 * q.val + 3) ∧ x.coalDelay = byteAt b (0x30 + 8 * q.val + 4) := by
  have hpres : cqPresent b q = true := bne_iff_ne.mpr hp
  refine ⟨?_, ringSize_present hp, ?_, ?_⟩ <;> simp only [cqFromConfig, hpres, if_true] <;> rfl

theorem sqFromConfig_absent {b : List Byte} {q : Fin 4} (hp : byteAt b (0x10 + 8 * q.val + 2) = 0) :
    (sqFromConfig b q).state = .absent := by
  have hpres : sqPresent b q = false := bne_eq_false_iff_eq.mpr hp
  simp only [sqFromConfig, hpres, Bool.false_eq_true, if_false]

theorem cqFromConfig_absent {b : List Byte} {q : Fin 2} (hp : byteAt b (0x30 + 8 * q.val + 2) = 0) :
    (cqFromConfig b q).hasGeometry = false := by
  have hsize : (cqFromConfig b q).size = 0 := if_pos hp
  rw [Cq.hasGeometry, hsize]
  rfl

/-- The block that has been read decides the START (R114). -/
theorem State.finishConfig_eq {s : State} {waiting : List XmAgent} {got b : List Byte} {r : XmAgent} (he : s.engine = .starting)
    (hc : s.configRead = some got) (hread : s.iterateTurns waiting 5 = s.readingConfig b r) (hb : b.length = 80) :
    ((∀ e, ¬ConfigFault s b e) ∧ s.finishConfig waiting = (s.readingConfig b r).startSuccess b) ∨
      ∃ e, firstConfigFault s b e ∧ s.finishConfig waiting = (s.readingConfig b r).startFailure e := by
  have hfinish : s.finishConfig waiting =
      if s.configCheck b = .none then (s.readingConfig b r).startSuccess b else (s.readingConfig b r).startFailure (s.configCheck b) := by
    have hsome : (s.readingConfig b r).configRead.getD [] = b := rfl
    have hcheck : (s.readingConfig b r).configCheck b = s.configCheck b := rfl
    simp only [State.finishConfig, he, hc, Option.isSome_some, and_self, if_true, hread, hsome, hb, Nat.lt_irrefl, if_false, hcheck]
  rcases s.configCheck_eq b with ⟨hx, hn⟩ | ⟨hx, hf⟩
  · exact .inl ⟨hn, by rw [hfinish, if_pos hx]⟩
  · exact .inr ⟨_, hf, by rw [hfinish, if_neg hx]⟩

/-- Settles O29. -/
theorem configurationDecidesStart : Obligations.ConfigurationDecidesStart := by
  intro s got waiting awake he hc hmod hle
  have hexec : exec (.configReadComplete waiting) s = .next (s.finishConfig waiting) := State.act_awake awake _
  have hagent : s.fetchAgent = if got.length < 80 then some .fetch else none := by
    rw [← State.readingConfig_self hc, State.readingConfig_agent]
  have hgoes {u : State} {b : List Byte} {r : XmAgent} (hu : s.iterateTurns waiting 5 = u) (hs : u = s.readingConfig b r)
      (hb : b.length < 80) : s.finishConfig waiting = u := by
    have hsome : u.configRead.getD [] = b := by rw [hs]; rfl
    simp only [State.finishConfig, he, hc, Option.isSome_some, and_self, if_true, hu, hsome, hb]
  refine ⟨fun hl hs => ?_, fun hl hs hn => ?_, fun h => ?_⟩
  · rw [if_pos hl] at hagent
    rw [hexec, hgoes (State.iterateTurns_stop (by simp [State.fetchServed, hagent, hs]) 5) (State.readingConfig_self hc).symm hl]
  · rw [if_pos (by omega)] at hagent
    have hturn := (s.readingConfig_readsSpans.turn got s.rotation (by omega)).2
    rw [State.readingConfig_self hc, Nat.zero_add] at hturn
    rw [hexec, hgoes ((State.iterateTurns_once hagent hs hn 4).trans hturn) rfl (by simp; omega)]
    rfl
  · have hwhole : s.iterateTurns waiting 5 = s.iterateTurns [] 5 := by
      refine State.iterateTurns_whole (a := .fetch) (by rw [hagent]; split <;> simp) ?_ 5
      refine h.imp_right (Or.imp (fun h80 => by rw [hagent, if_neg (by omega)]) fun ⟨h64, hs⟩ => ⟨hs, ?_⟩)
      have hturn := (s.readingConfig_readsSpans.turn got s.rotation (by omega)).2
      rw [State.readingConfig_self hc] at hturn
      rw [hturn, State.readingConfig_agent, if_neg (by simp; omega)]
    obtain ⟨r, hread, hr⟩ := State.iterateTurns_config hc hmod hle
    have hlen : (got ++ Memory.readBytes s.xm got.length (80 - got.length)).length = 80 := by simp; omega
    obtain ⟨hnone, hfin⟩ | ⟨e, hfirst, hfin⟩ := State.finishConfig_eq he hc (hwhole.trans hread) hlen
    · refine ⟨_, hexec.trans (congrArg _ hfin), rfl, rfl, hr, fun _ => ?_, fun e h => absurd h.1 (hnone e)⟩
      refine ⟨rfl, rfl, rfl, fun q hp => ?_, fun q hp => ?_, fun q => ?_, ?_, rfl, rfl, rfl, rfl⟩
      · rw [State.startSuccess_sq]
        exact sqFromConfig_present hnone hp
      · rw [State.startSuccess_sq]
        exact sqFromConfig_absent hp
      · rw [State.startSuccess_cq]
        exact ⟨rfl, rfl, rfl, rfl, rfl, cqFromConfig_present, cqFromConfig_absent⟩
      · obtain ⟨q, hq, hv⟩ := asFin_of_names fun hn => hnone .badTarget (.inr hn)
        refine (congrArg (Option.map fun q : Fin 2 => q.val) hq).trans ?_
        rw [← hv]
        rfl
    · refine ⟨_, hexec.trans (congrArg _ hfin), rfl, rfl, hr, fun h => absurd hfirst.1 (h e), fun e' h' => ?_⟩
      rw [firstConfigFault_unique h' hfirst]
      rfl

/-! ### The record check (R100 to R103) -/

/-- The state while a record is read. -/
def State.readingRecord (s : State) (q : Fin 4) (got : List Byte) (r : XmAgent) : State :=
  { s with fetch := .reading q got false, rotation := r }

section
variable {s : State} (hc : s.configRead = none)
include hc

theorem State.readingRecord_agent (q : Fin 4) (got : List Byte) (r : XmAgent) :
    (s.readingRecord q got r).fetchAgent = if got.length < 64 then some .fetch else none := by
  simp only [State.readingRecord, State.fetchAgent, hc]

theorem State.readingRecord_readsSpans (q : Fin 4) :
    ReadsSpans (s.readingRecord q) .fetch s.xm ((s.sq q).base + 64 * (s.sq q).head) 64 fun got => got.length < 64 where
  turn got r h := by
    refine ⟨by rw [State.readingRecord_agent hc, if_pos h], ?_⟩
    simp only [State.readingRecord, State.fetchTurn, hc, h, if_true, State.spanAt, State.recordOffset, State.sq]
  stop got r h := by rw [State.readingRecord_agent hc, if_neg h]
  enough got h := by omega

omit hc in
theorem State.readingRecord_self {q : Fin 4} {got : List Byte} (hf : s.fetch = .reading q got false) :
    s.readingRecord q got s.rotation = s := by
  rw [State.readingRecord, ← hf]

/-- A record is read to its end. -/
theorem State.iterateTurns_record {q : Fin 4} {got : List Byte} (hf : s.fetch = .reading q got false) (hm : got.length % 16 = 0)
    (hl : got.length ≤ 64) :
    ∃ r, s.iterateTurns [] 4 = s.readingRecord q
        (got ++ Memory.readBytes s.xm ((s.sq q).base + 64 * (s.sq q).head + got.length) (64 - got.length)) r ∧
      (got.length < 64 → r = .fetch) := by
  obtain ⟨k, r, hread, hstop, htotal, hr⟩ := (State.readingRecord_readsSpans hc q).iterateTurns 4 got s.rotation hm hl (by omega)
  rw [State.readingRecord_self hf] at hread
  rw [List.length_append, Memory.readBytes_length] at hstop
  refine ⟨r, ?_, fun h => hr.resolve_right fun hn => hn.2 h⟩
  rw [hread, show 64 - got.length = 16 * k by omega]

end

/-- An SQ that faults on its head record (R100, R101, R103). -/
theorem State.faultSq_faulted (s : State) (q : Fin 4) (d : EventDetail) :
    let t := s.faultSq q d
    BackToIdle s t ∧ t.sq q = { s.sq q with state := .faulted } ∧ (∀ p : Fin 4, p ≠ q → t.sq p = s.sq p) ∧
      t.event (queueFaultSource q) = foldOccurrence s.tick d (s.event (queueFaultSource q)) ∧
      t = { s with sqs := t.sqs, fetch := t.fetch, engine := t.engine, events := t.events } := by
  intro t
  have ht : t = ((s.updSq q fun x => { x with state := .faulted }).recordEvent (queueFaultSource q) d).fetchIdle := rfl
  rw [ht, State.fetchIdle_eq]
  refine ⟨⟨rfl, rfl, rfl⟩, ?_, fun p hp => ?_, ?_, rfl⟩
  · change ((s.updSq q fun x => { x with state := .faulted }).recordEvent (queueFaultSource q) d).sq q = _
    simp [State.recordEvent]
  · change ((s.updSq q fun x => { x with state := .faulted }).recordEvent (queueFaultSource q) d).sq p = _
    simp [State.recordEvent, State.updSq_sq_ne, hp]
  · exact State.recordEvent_event_self _ _ _

/-- What a record that passes its checks becomes (R102). -/
theorem State.classify_held {s : State} {q : Fin 4} {r : List Byte}
    (h : (1 ≤ (recordKind r).toNat ∧ (recordKind r).toNat ≤ 3) ∨ (0x10 ≤ (recordKind r).toNat ∧ (recordKind r).toNat ≤ 0x19 ∧ q = 0)) :
    s.classify q r = { s with fetch := .reading q r true } := by
  simp only [State.classify, isOpenKind, isControlKind, Bool.and_eq_true, decide_eq_true_eq]
  rw [if_pos (h.imp_right fun ⟨h1, h2, h3⟩ => ⟨⟨h1, h2⟩, h3⟩)]

theorem State.classify_refusedQueue {s : State} {q : Fin 4} {r : List Byte} (h1 : 0x10 ≤ (recordKind r).toNat)
    (h2 : (recordKind r).toNat ≤ 0x19) (hq : q ≠ 0) : s.classify q r = s.refuse q r .refusedQueue none 0 := by
  simp only [State.classify, isOpenKind, isControlKind, Bool.and_eq_true, decide_eq_true_eq]
  rw [if_neg (by rintro (h | h) <;> omega), if_pos ⟨h1, h2⟩]

theorem State.classify_badKind {s : State} {q : Fin 4} {r : List Byte}
    (h : (recordKind r).toNat = 0 ∨ (4 ≤ (recordKind r).toNat ∧ (recordKind r).toNat ≤ 15) ∨ 0x1A ≤ (recordKind r).toNat) :
    s.classify q r = s.refuse q r .badKind none 0 := by
  simp only [State.classify, isOpenKind, isControlKind, Bool.and_eq_true, decide_eq_true_eq]
  rw [if_neg (by omega), if_neg (by omega)]

/-- The checks of a record, in their order (R100 to R102). -/
theorem State.checkRecord_crc {s : State} {q : Fin 4} {r : List Byte} (h : crc8 (r.take 63) ≠ r.getD 63 0) :
    s.checkRecord q r = s.faultSq q { first := 1, second := (s.sq q).head, third := byteAt r 63 } := by
  have hbad : recordCrcOk r = false := beq_eq_false_iff_ne.mpr h
  rw [State.checkRecord, hbad]
  rfl

theorem State.checkRecord_sequence {s : State} {q : Fin 4} {r : List Byte} (h : crc8 (r.take 63) = r.getD 63 0)
    (hseq : byteAt r 3 ≠ (s.sq q).expected) :
    s.checkRecord q r = s.faultSq q { first := 2, second := (s.sq q).expected, third := byteAt r 3 } := by
  have hok : recordCrcOk r = true := beq_iff_eq.mpr h
  rw [State.checkRecord, hok, recordSequence, if_pos hseq]
  rfl

theorem State.checkRecord_sound {s : State} {q : Fin 4} {r : List Byte} (h : crc8 (r.take 63) = r.getD 63 0)
    (hseq : byteAt r 3 = (s.sq q).expected) : s.checkRecord q r = s.classify q r := by
  have hok : recordCrcOk r = true := beq_iff_eq.mpr h
  rw [State.checkRecord, hok, recordSequence, if_neg (not_not_intro hseq)]
  rfl

theorem State.faultSq_rotation (s : State) (q : Fin 4) (d : EventDetail) : (s.faultSq q d).rotation = s.rotation := by
  rw [State.faultSq, State.fetchIdle_eq]
  rfl

theorem State.refuse_rotation (s : State) (q : Fin 4) (r : List Byte) (st : Status) (l : Option (Fin 4)) (d : Nat) :
    (s.refuse q r st l d).rotation = s.rotation := by
  rw [State.refuse, State.offer_frame]
  rfl

theorem State.checkRecord_rotation (s : State) (q : Fin 4) (r : List Byte) : (s.checkRecord q r).rotation = s.rotation := by
  rw [State.checkRecord]
  split
  · exact s.faultSq_rotation q _
  · split
    · exact s.faultSq_rotation q _
    · rw [State.classify]
      split
      · rfl
      · split
        · exact s.refuse_rotation q r _ _ _
        · exact s.refuse_rotation q r _ _ _

/-- An SQ that faults on its head record once it has been read. -/
theorem State.readingRecord_faulted {s t : State} {q : Fin 4} {got : List Byte} {rot : XmAgent} {d : EventDetail}
    (e : t = (s.readingRecord q got rot).faultSq q d) :
    BackToIdle s t ∧ t.sq q = { s.sq q with state := .faulted } ∧ (∀ p : Fin 4, p ≠ q → t.sq p = s.sq p) ∧
      t.event (queueFaultSource q) = foldOccurrence s.tick d (s.event (queueFaultSource q)) ∧
      t = { s with sqs := t.sqs, fetch := t.fetch, engine := t.engine, events := t.events, rotation := t.rotation } := by
  obtain ⟨hidle, hq, hne, hev, hf⟩ := State.faultSq_faulted (s.readingRecord q got rot) q d
  subst e
  refine ⟨hidle, hq, hne, hev, ?_⟩
  rw [hf]
  rfl

/-- A record that is consumed and completed once it has been read. -/
theorem State.readingRecord_refuse {s t : State} {q : Fin 4} {got r : List Byte} {rot : XmAgent} {st : Status}
    (e : t = (s.readingRecord q got rot).refuse q r st none 0) :
    Completes s t q r st none 0 ∧ t = { s with
      sqs := t.sqs, fetch := t.fetch, pendingList := t.pendingList, engine := t.engine, rotation := t.rotation } := by
  obtain ⟨hc, hh, hf⟩ := State.consume_offer (s := s) (v := s.readingRecord q got rot) q
    (neverStarted ((s.readingRecord q got rot).originOf q r) st none 0) rfl rfl rfl
  subst e
  exact ⟨⟨hc, hh⟩, by rw [State.refuse, hf]; rfl⟩

/-- Settles O31. -/
theorem recordIsCheckedInOrder : Obligations.RecordIsCheckedInOrder := by
  intro s q got waiting awake hc hf hmod hle
  have hexec : exec (.recordRead waiting) s = .next (s.finishRead waiting) := State.act_awake awake _
  have hagent : s.fetchAgent = if got.length < 64 then some .fetch else none := by
    rw [← State.readingRecord_self hf, State.readingRecord_agent hc]
  have hfinish {b : List Byte} {r : XmAgent} (hu : s.iterateTurns waiting 4 = s.readingRecord q b r) :
      s.finishRead waiting = if b.length < 64 then s.readingRecord q b r else (s.readingRecord q b r).checkRecord q b := by
    rw [State.finishRead, hf]
    simp only [hu]
    rfl
  refine ⟨fun hl hs => ?_, fun hl hs hn => ?_, fun h => ?_⟩
  · rw [if_pos hl] at hagent
    have hstop := State.iterateTurns_stop (s := s) (waiting := waiting) (by simp [State.fetchServed, hagent, hs]) 4
    rw [hexec, hfinish (hstop.trans (State.readingRecord_self hf).symm), if_pos hl, State.readingRecord_self hf]
  · rw [if_pos (by omega)] at hagent
    have hturn := ((State.readingRecord_readsSpans hc q).turn got s.rotation (by omega)).2
    rw [State.readingRecord_self hf] at hturn
    rw [hexec, hfinish ((State.iterateTurns_once hagent hs hn 3).trans hturn), if_pos (by simp; omega)]
    rfl
  · have hwhole : s.iterateTurns waiting 4 = s.iterateTurns [] 4 := by
      refine State.iterateTurns_whole (a := .fetch) (by rw [hagent]; split <;> simp) ?_ 4
      refine h.imp_right (Or.imp (fun h64 => by rw [hagent, if_neg (by omega)]) fun ⟨h48, hs⟩ => ⟨hs, ?_⟩)
      have hturn := ((State.readingRecord_readsSpans hc q).turn got s.rotation (by omega)).2
      rw [State.readingRecord_self hf] at hturn
      rw [hturn, State.readingRecord_agent hc, if_neg (by simp; omega)]
    obtain ⟨rot, hread, hrot⟩ := State.iterateTurns_record hc hf hmod hle
    refine ⟨_, hexec.trans (congrArg _ (hfinish (hwhole.trans hread))), ?_⟩
    rw [if_neg (by simp; omega)]
    generalize got ++ Memory.readBytes s.xm ((s.sq q).base + 64 * (s.sq q).head + got.length) (64 - got.length) = r
    let v := s.readingRecord q r rot
    have held : (v.sq q).head = (s.sq q).head ∧ (v.sq q).expected = (s.sq q).expected := ⟨rfl, rfl⟩
    refine ⟨fun h => (v.checkRecord_rotation q r).trans (hrot h), fun hcrc => ?_, fun hcrc hseq => ?_, fun hcrc hseq =>
      ⟨fun hk => ?_, fun ⟨h1, h2, hq⟩ => ?_, fun hk => ?_⟩⟩
    · exact State.readingRecord_faulted (State.checkRecord_crc (s := v) hcrc)
    · exact State.readingRecord_faulted (State.checkRecord_sequence (s := v) hcrc hseq)
    · have hrotation : (v.checkRecord q r).rotation = rot := v.checkRecord_rotation q r
      rw [hrotation]
      exact (State.checkRecord_sound (s := v) hcrc hseq).trans (State.classify_held (s := v) hk)
    · exact State.readingRecord_refuse ((State.checkRecord_sound (s := v) hcrc hseq).trans (State.classify_refusedQueue h1 h2 hq))
    · exact State.readingRecord_refuse ((State.checkRecord_sound (s := v) hcrc hseq).trans (State.classify_badKind hk))

end Sys2Proof.Machine
end


section
/-! PROOFS. The end of a pattern copy (R53 to R55), O42, and of a snapshot write (R138), O47. -/

namespace Sys2Proof.Machine

-- One declaration after another: so the whole text compiles within the memory of the check.
set_option Elab.async false

/-! ### Bytes of an image that has been read in part -/

theorem byteAt_append {a : List Byte} {i : Nat} (h : i < a.length) (b : List Byte) : byteAt (a ++ b) i = byteAt a i := by
  simp only [byteAt, List.getD, List.getElem?_append_left h]

theorem phaseAt_append {a : List Byte} {o : Nat} (h : o + 8 ≤ a.length) (b : List Byte) : phaseAt (a ++ b) o = phaseAt a o := by
  have hb (i : Nat) (hi : i < 8) : byteAt (a ++ b) (o + i) = byteAt a (o + i) := byteAt_append (by omega) b
  have h0 := hb 0 (by decide)
  have hf (i : Nat) (hi : i + 1 < 8) : field16 (a ++ b) (o + i) = field16 a (o + i) := by
    rw [field16, field16, hb i (by omega), Nat.add_assoc, hb (i + 1) hi]
  have hf0 : field16 (a ++ b) o = field16 a o := hf 0 (by decide)
  simp only [phaseAt, hf0, hb 2 (by decide), hb 3 (by decide), hb 4 (by decide), hf 5 (by decide)]

/-- A phase that an image may hold (R54). -/
def Phase.sound (p : Phase) : Prop := p.duration ≠ 0 ∧ p.hasInvalid = false

/-- What the phases from number i on, n of them, make of an image (R54, R55). -/
def PhasesVerdict (image : List Byte) (i n : Nat) (acc : List Phase) : ImageVerdict → Prop
  | .more => True
  | .bad d (some j) => i ≤ j ∧ j < i + n ∧ (∀ k, i ≤ k → k < j → (phaseAt image (8 + 8 * k)).sound) ∧
      ¬(phaseAt image (8 + 8 * j)).sound ∧ d = if (phaseAt image (8 + 8 * j)).duration = 0 then 2 else 3
  | .bad _ none => False
  | .good ps => (∀ k, i ≤ k → k < i + n → (phaseAt image (8 + 8 * k)).sound) ∧
      ps = acc ++ (List.range n).map fun k => phaseAt image (8 + 8 * (i + k))

/-- The check of the phases that have been read says what it would say of the whole image. -/
theorem checkPhases_verdict (image rest : List Byte) : ∀ (n i : Nat) (acc : List Phase),
    PhasesVerdict (image ++ rest) i n acc (checkPhases image image.length i n acc)
  | 0, i, acc => ⟨fun k h1 h2 => absurd h2 (by omega), by simp⟩
  | n + 1, i, acc => by
    rw [checkPhases]
    split
    · trivial
    · next hlen =>
      have hp : phaseAt (image ++ rest) (8 + 8 * i) = phaseAt image (8 + 8 * i) := phaseAt_append (by omega) rest
      dsimp only
      split
      · next hd =>
        refine ⟨le_rfl, by omega, fun k h1 h2 => absurd h2 (by omega), ?_, ?_⟩
        · rw [hp]
          exact fun h => h.1 hd
        · rw [hp, if_pos hd]
      · next hd =>
        split
        · next hi =>
          refine ⟨le_rfl, by omega, fun k h1 h2 => absurd h2 (by omega), ?_, ?_⟩
          · rw [hp]
            exact fun h => absurd hi (by rw [h.2]; decide)
          · rw [hp, if_neg hd]
        · next hi =>
          have hs : (phaseAt (image ++ rest) (8 + 8 * i)).sound := by
            rw [hp]
            exact ⟨hd, Bool.not_eq_true _ ▸ hi⟩
          have ih := checkPhases_verdict image rest n (i + 1) (acc ++ [phaseAt image (8 + 8 * i)])
          revert ih
          cases checkPhases image image.length (i + 1) n (acc ++ [phaseAt image (8 + 8 * i)]) with
          | more => exact fun _ => trivial
          | bad d j =>
            cases j with
            | none => exact id
            | some j =>
              rintro ⟨h1, h2, h3, h4⟩
              refine ⟨by omega, by omega, fun k hk hkj => ?_, h4⟩
              rcases Nat.eq_or_lt_of_le hk with rfl | hk
              · exact hs
              · exact h3 k hk hkj
          | good ps =>
            rintro ⟨h1, h2⟩
            refine ⟨fun k hk hkn => ?_, ?_⟩
            · rcases Nat.eq_or_lt_of_le hk with rfl | hk
              · exact hs
              · exact h1 k hk (by omega)
            · rw [h2, ← hp, List.range_succ_eq_map, List.map_cons, List.map_map, Nat.add_zero, List.append_assoc]
              refine congrArg (acc ++ ·) (congrArg (_ :: ·) (List.map_congr_left fun k _ => ?_))
              simp [Nat.add_assoc, Nat.add_comm 1]

/-- A check of phases that have all been read does not ask for more. -/
theorem checkPhases_ne_more {image : List Byte} {got : Nat} : ∀ {n i : Nat} {acc : List Phase}, 8 + 8 * (i + n) ≤ got →
    checkPhases image got i n acc ≠ .more
  | 0, _, _, _ => by simp [checkPhases]
  | n + 1, i, acc, h => by
    rw [checkPhases, if_neg (by omega)]
    dsimp only
    split
    · simp
    · split
      · simp
      · exact checkPhases_ne_more (by omega)

/-! ### The image of a pattern copy (R53, R54) -/

/-- An image of which no more is needed holds its count. -/
theorem imageVerdict_length {src : Nat} {spans : List Byte} (h : imageVerdict src spans ≠ .more) : src % 16 + 8 ≤ spans.length := by
  by_contra hlt
  exact h (if_pos (by rw [List.length_drop]; omega))

/-- The verdict on the spans that have been read is that on the whole image, once it asks for no more. -/
theorem imageVerdict_counts {src : Nat} {spans rest : List Byte} (h : imageVerdict src spans ≠ .more) :
    let image := (spans ++ rest).drop (src % 16)
    (imageVerdict src spans = .bad 1 none ∧ (byteAt image 0 = 0 ∨ 16 < byteAt image 0)) ∨
      ((1 ≤ byteAt image 0 ∧ byteAt image 0 ≤ 16) ∧ PhasesVerdict image 0 (byteAt image 0) [] (imageVerdict src spans)) := by
  intro image
  have himage : image = spans.drop (src % 16) ++ rest := List.drop_append_of_le_length (by have := imageVerdict_length h; omega)
  unfold imageVerdict at h ⊢
  dsimp only at h ⊢
  split at h
  · exact absurd rfl h
  · next hlen =>
    have hcount : byteAt image 0 = byteAt (spans.drop (src % 16)) 0 := himage ▸ byteAt_append (by omega) rest
    rw [if_neg hlen, hcount]
    split
    · next hc => exact .inl ⟨rfl, hc⟩
    · next hc =>
      rw [himage]
      exact .inr ⟨by omega, checkPhases_verdict _ _ _ _ _⟩

/-- Nine spans hold a whole image. -/
theorem imageVerdict_whole {src : Nat} {spans : List Byte} (hs : src % 8 = 0) (h : spans.length = 144) :
    imageVerdict src spans ≠ .more := by
  have hlen : 136 ≤ (spans.drop (src % 16)).length := by
    rw [List.length_drop]
    omega
  unfold imageVerdict
  dsimp only
  rw [if_neg (by omega)]
  split
  · simp
  · exact checkPhases_ne_more (by omega)

/-! ### The reads of a pattern copy -/

/-- The state while a pattern is copied. -/
def State.copying (s : State) (n : Fin 16) (src : Nat) (o : Origin) (got : List Byte) (r : XmAgent) : State :=
  { s with fetch := .loading n src o got, rotation := r }

section
variable {s : State} {n : Fin 16} {src : Nat} {o : Origin} (hc : s.configRead = none)

theorem State.copying_self {got : List Byte} (hf : s.fetch = .loading n src o got) : s.copying n src o got s.rotation = s := by
  rw [State.copying, ← hf]

include hc

theorem State.copying_agent (got : List Byte) (r : XmAgent) :
    (s.copying n src o got r).fetchAgent = if imageVerdict src got = .more then some .loader else none := by
  simp only [State.copying, State.fetchAgent, hc]

theorem State.copying_readsSpans (hs : src % 8 = 0) :
    ReadsSpans (s.copying n src o) .loader s.xm (src / 16 * 16) 144 fun got => imageVerdict src got = .more where
  turn got r h := by
    refine ⟨by rw [State.copying_agent hc, if_pos h], ?_⟩
    simp only [State.copying, State.fetchTurn, hc, h, if_true, State.spanAt]
  stop got r h := by rw [State.copying_agent hc, if_neg h]
  enough got h := imageVerdict_whole hs h

end

/-- The end of a pattern copy, its image read (R54, R55). -/
def State.copied (s : State) (n : Fin 16) (o : Origin) : ImageVerdict → State
  | .good ps => (s.updSlot n fun x => { x with valid := true, phases := ps }).offer (neverStarted o .done none ps.length)
  | .bad detail phase => s.offer (badPattern o detail phase)
  | .more => s

theorem State.finishCopy_eq {s : State} {n : Fin 16} {src : Nat} {o : Origin} {got b : List Byte} {r : XmAgent} {waiting : List XmAgent}
    (hf : s.fetch = .loading n src o got) (hread : s.iterateTurns waiting maxTurns = s.copying n src o b r) :
    s.finishCopy waiting = (s.copying n src o b r).copied n o (imageVerdict src b) := by
  rw [State.finishCopy, hf]
  dsimp only
  rw [hread]
  change (match imageVerdict src b with
    | .good ps => _
    | .bad detail phase => _
    | .more => _) = _
  cases imageVerdict src b <;> rfl

/-- What a hand-over leaves as it is, the spans that were read for it aside. -/
theorem State.offer_afterReads (s : State) (f : FetchState) (r : XmAgent) (slots : Vector Slot 16) (c : Completion) :
    let t := ({ s with fetch := f, rotation := r, slots := slots } : State).offer c
    t = { s with
      fetch := t.fetch, pendingList := t.pendingList, engine := t.engine, slots := t.slots, rotation := t.rotation } := by
  intro t
  have ht : t = ({ s with fetch := f, rotation := r, slots := slots } : State).offer c := rfl
  rw [ht, State.offer_eq]
  split <;> rfl

/-- A pattern copy that fails a check (R54, R55). -/
theorem State.copied_bad (s : State) (n : Fin 16) (src : Nat) (o : Origin) (b : List Byte) (r : XmAgent) (d : Nat) (j : Option Nat) :
    let t := (s.copying n src o b r).copied n o (.bad d j)
    HandedOver s t { plainCompletion o .badPattern none d with lastPhase := j } ∧ t.slots = s.slots ∧
      t = { s with
        fetch := t.fetch, pendingList := t.pendingList, engine := t.engine, slots := t.slots, rotation := t.rotation } := by
  have hh := (State.offer_handedOver (s.copying n src o b r) (badPattern o d j)).congr (s' := s) rfl rfl
  have hslots : ((s.copying n src o b r).offer (badPattern o d j)).slots = s.slots := by rw [State.offer_frame]; rfl
  exact ⟨hh, hslots, s.offer_afterReads (.loading n src o b) r s.slots (badPattern o d j)⟩

/-- A pattern copy whose image passes every check (R55). -/
theorem State.copied_good (s : State) (n : Fin 16) (src : Nat) (o : Origin) (b : List Byte) (r : XmAgent) (ps : List Phase) :
    let t := (s.copying n src o b r).copied n o (.good ps)
    HandedOver s t (plainCompletion o .done none ps.length) ∧ t.slot n = { s.slot n with valid := true, phases := ps } ∧
      (∀ m : Fin 16, m ≠ n → t.slot m = s.slot m) ∧
      t = { s with
        fetch := t.fetch, pendingList := t.pendingList, engine := t.engine, slots := t.slots, rotation := t.rotation } := by
  let f := fun x : Slot => { x with valid := true, phases := ps }
  let v := (s.copying n src o b r).updSlot n f
  let c := neverStarted o .done none ps.length
  have hh : HandedOver s (v.offer c) c := (State.offer_handedOver v c).congr rfl rfl
  have hslot (m : Fin 16) : (v.offer c).slot m = ((s.copying n src o b r).updSlot n f).slot m := by
    rw [State.offer_frame]
    rfl
  refine ⟨hh, (hslot n).trans (State.updSlot_slot_self ..), fun m hm => (hslot m).trans (State.updSlot_slot_ne (h := hm) ..), ?_⟩
  exact s.offer_afterReads (.loading n src o b) r v.slots c

/-- Settles O42. -/
theorem patternCopyReplacesSlot : Obligations.PatternCopyReplacesSlot := by
  intro s n src o got waiting awake hc hf hsrc hmod hle span reads
  have hexec : exec (.patternCopyComplete waiting) s = .next (s.finishCopy waiting) := State.act_awake awake _
  have hagent : s.fetchAgent = if imageVerdict src got = .more then some .loader else none := by
    rw [← State.copying_self hf, State.copying_agent hc]
  have hreads : reads ↔ imageVerdict src got = .more := by
    change (s.fetchAgent == some .loader) = true ↔ _
    rw [beq_iff_eq, hagent]
    split <;> simp [*]
  have hspans := State.copying_readsSpans (s := s) (n := n) (o := o) hc hsrc
  have hmore {b : List Byte} {r : XmAgent} (hread : s.iterateTurns waiting maxTurns = s.copying n src o b r)
      (hm : imageVerdict src b = .more) : s.finishCopy waiting = s.copying n src o b r := by
    rw [State.finishCopy_eq hf hread, hm]
    rfl
  have hturn (hm : imageVerdict src got = .more) : s.fetchTurn = s.copying n src o (got ++ span) .loader := by
    have := (hspans.turn got s.rotation hm).2
    rwa [State.copying_self hf] at this
  refine ⟨fun hr hs => ?_, fun hr hs hn hm => ?_, fun h => ?_⟩
  · have hm := hreads.mp hr
    rw [if_pos hm] at hagent
    have hstop := State.iterateTurns_stop (s := s) (waiting := waiting) (by simp [State.fetchServed, hagent, hs]) maxTurns
    rw [hexec, hmore (hstop.trans (State.copying_self hf).symm) hm, State.copying_self hf]
  · have hm' := hreads.mp hr
    rw [if_pos hm'] at hagent
    rw [hexec, hmore ((State.iterateTurns_once hagent hs hn 8).trans (hturn hm')) hm]
    rfl
  · have hwhole : s.iterateTurns waiting maxTurns = s.iterateTurns [] maxTurns := by
      refine State.iterateTurns_whole (a := .loader) (by rw [hagent]; split <;> simp) ?_ maxTurns
      refine h.imp_right fun h => ?_
      by_cases hm : imageVerdict src got = .more
      · refine .inr ?_
        obtain ⟨hs, hv⟩ := h.resolve_left (not_not_intro (hreads.mpr hm))
        exact ⟨hs, by rw [hturn hm, State.copying_agent hc, if_neg hv]⟩
      · exact .inl (by rw [hagent, if_neg hm])
    obtain ⟨k, rot, hread, hstop, htotal, -⟩ := hspans.iterateTurns maxTurns got s.rotation hmod hle (by unfold maxTurns; omega)
    rw [State.copying_self hf] at hread
    rw [hexec, State.finishCopy_eq hf (hwhole.trans hread)]
    refine ⟨_, rfl, ?_⟩
    intro image count phase sound
    have hfull : image = (got ++ Memory.readBytes s.xm (src / 16 * 16 + got.length) (16 * k) ++
        Memory.readBytes s.xm (src / 16 * 16 + got.length + 16 * k) (144 - got.length - 16 * k)).drop (src % 16) := by
      rw [List.append_assoc, ← Memory.readBytes_add, Nat.add_sub_cancel' (by omega)]
    have hcounts := imageVerdict_counts (rest := Memory.readBytes s.xm (src / 16 * 16 + got.length + 16 * k) (144 - got.length - 16 * k))
      hstop
    rw [← hfull] at hcounts
    generalize got ++ Memory.readBytes s.xm (src / 16 * 16 + got.length) (16 * k) = b at hstop hcounts ⊢
    rcases hcounts with ⟨hv, hcount⟩ | ⟨⟨h1, h16⟩, hv⟩
    · rw [hv]
      obtain ⟨hh, hslots, hframe⟩ := State.copied_bad s n src o b rot 1 none
      exact ⟨fun _ => ⟨hh, hslots⟩, fun h1 h16 => absurd hcount (by change ¬(count = 0 ∨ 16 < count); omega), hframe⟩
    · revert hstop hv
      cases imageVerdict src b with
      | more => exact fun h => absurd rfl h
      | bad d j =>
        cases j with
        | none => exact fun _ h => h.elim
        | some j =>
          rintro - ⟨-, hj, hbefore, hns, hd⟩
          rw [Nat.zero_add] at hj
          obtain ⟨hh, hslots, hframe⟩ := State.copied_bad s n src o b rot d (some j)
          refine ⟨fun hc => absurd hc (by change ¬(byteAt image 0 = 0 ∨ _); omega), fun _ _ => ⟨fun i hi hprior hni => ?_, fun hall => absurd (hall j hj) hns⟩, hframe⟩
          obtain rfl : i = j := by
            rcases Nat.lt_trichotomy i j with hlt | heq | hgt
            · exact absurd (hbefore i (Nat.zero_le _) hlt) hni
            · exact heq
            · exact absurd (hprior j hgt) hns
          exact hd ▸ ⟨hh, hslots⟩
      | good ps =>
        rintro - ⟨hall, hps⟩
        have hps : ps = (List.range count).map phase := by
          rw [hps, List.nil_append]
          exact List.map_congr_left fun k _ => by rw [Nat.zero_add]
        have hlen : ps.length = count := by simp [hps]
        obtain ⟨hh, hslot, hne, hframe⟩ := State.copied_good s n src o b rot ps
        rw [hlen] at hh
        refine ⟨fun hc => absurd hc (by change ¬(byteAt image 0 = 0 ∨ _); omega), fun _ _ => ⟨fun i hi _ hni => ?_, fun _ => ?_⟩, hframe⟩
        · exact absurd (hall i (Nat.zero_le _) (by rwa [Nat.zero_add])) hni
        · exact ⟨hh, hps ▸ hslot, hne⟩

/-! ### The writes of a snapshot (R138) -/

theorem Memory.writeBytes_append : ∀ (x y : List Byte) (a : Nat) (m : Memory),
    m.writeBytes a (x ++ y) = (m.writeBytes a x).writeBytes (a + x.length) y
  | [], _, _, _ => rfl
  | b :: x, y, a, m => by
    rw [List.cons_append, Memory.writeBytes, Memory.writeBytes, Memory.writeBytes_append x y (a + 1), List.length_cons,
      Nat.add_assoc, Nat.add_comm 1]

/-- The state while a snapshot is written. -/
def State.writingSnapshot (s : State) (target : Nat) (o : Origin) (picture : List Byte) (taken : Nat) (m : Memory) (r : XmAgent) : State :=
  { s with xm := m, fetch := .snapshotting target o picture taken, rotation := r }

section
variable {s : State} {target : Nat} {o : Origin} {picture : List Byte} {taken : Nat} (hc : s.configRead = none)

theorem State.writingSnapshot_self (hf : s.fetch = .snapshotting target o picture taken) :
    s.writingSnapshot target o picture taken s.xm s.rotation = s := by
  rw [State.writingSnapshot, ← hf]

include hc

theorem State.writingSnapshot_agent (m : Memory) (r : XmAgent) :
    (s.writingSnapshot target o picture taken m r).fetchAgent = if taken < 8 then some .snapshot else none := by
  simp only [State.writingSnapshot, State.fetchAgent, hc]

theorem State.writingSnapshot_fetchTurn (hl : taken < 8) (m : Memory) (r : XmAgent) :
    (s.writingSnapshot target o picture taken m r).fetchTurn =
      s.writingSnapshot target o picture (taken + 1)
        (m.writeBytes (target + 16 * taken) ((picture.drop (16 * taken)).take 16)) .snapshot := by
  simp only [State.writingSnapshot, State.fetchTurn, hc, hl, if_true]

/-- The writes of a snapshot, one after another, write the rest of its picture. -/
theorem State.writingSnapshot_iterateTurns (hp : picture.length = 128) : ∀ (n taken : Nat) (m : Memory) (r : XmAgent),
    taken ≤ 8 → 8 ≤ taken + n →
    ∃ r', (s.writingSnapshot target o picture taken m r).iterateTurns [] n =
      s.writingSnapshot target o picture 8 (m.writeBytes (target + 16 * taken) (picture.drop (16 * taken))) r' := by
  have done (n : Nat) (m : Memory) (r : XmAgent) : (s.writingSnapshot target o picture 8 m r).iterateTurns [] n =
      s.writingSnapshot target o picture 8 (m.writeBytes (target + 16 * 8) (picture.drop (16 * 8))) r := by
    rw [State.iterateTurns_stop (by simp [State.fetchServed, State.writingSnapshot_agent hc]), List.drop_eq_nil_of_le (by omega)]
    rfl
  intro n
  induction n with
  | zero =>
    intro taken m r h1 h2
    obtain rfl : taken = 8 := by omega
    exact ⟨r, done 0 m r⟩
  | succ n ih =>
    intro taken m r h1 h2
    rcases Nat.eq_or_lt_of_le h1 with rfl | hl
    · exact ⟨r, done (n + 1) m r⟩
    · obtain ⟨r', hread⟩ := ih (taken + 1) (m.writeBytes (target + 16 * taken) ((picture.drop (16 * taken)).take 16)) .snapshot hl (by omega)
      refine ⟨r', ?_⟩
      have ha := State.writingSnapshot_agent (s := s) (target := target) (o := o) (picture := picture) (taken := taken) hc m r
      rw [if_pos hl] at ha
      have hrest : picture.drop (16 * taken) = (picture.drop (16 * taken)).take 16 ++ picture.drop (16 * (taken + 1)) := by
        rw [Nat.mul_succ, ← List.drop_drop, List.take_append_drop]
      have hlen : ((picture.drop (16 * taken)).take 16).length = 16 := by
        rw [List.length_take, List.length_drop]
        omega
      rw [State.iterateTurns, if_pos (State.fetchServed_iff.mpr ⟨_, ha, rfl⟩), State.writingSnapshot_fetchTurn hc hl, hread]
      conv_rhs => rw [hrest, Memory.writeBytes_append, hlen]
      rw [Nat.mul_succ, Nat.add_assoc]

end

/-- A snapshot of which every access has been made is completed DONE. -/
theorem State.writingSnapshot_offer (s : State) (target : Nat) (o : Origin) (picture : List Byte) (m : Memory) (r : XmAgent)
    (c : Completion) :
    let t := (s.writingSnapshot target o picture 8 m r).offer c
    t.xm = m ∧ HandedOver s t c ∧ t = { s with
      xm := t.xm, fetch := t.fetch, pendingList := t.pendingList, engine := t.engine, rotation := t.rotation } := by
  intro t
  have ht : t = (s.writingSnapshot target o picture 8 m r).offer c := rfl
  have hh := (State.offer_handedOver (s.writingSnapshot target o picture 8 m r) c).congr (s' := s) rfl rfl
  rw [ht]
  refine ⟨by rw [State.offer_frame]; rfl, hh, ?_⟩
  rw [State.offer_eq]
  split <;> rfl

/-- Settles O47. -/
theorem snapshotIsWrittenWhole : Obligations.SnapshotIsWrittenWhole := by
  intro s target o picture taken waiting awake hm hc hf hp htarget htaken
  have hexec : exec (.snapshotWriteComplete waiting) s = .next (s.finishSnapshot waiting) := State.act_awake awake _
  have hself := State.writingSnapshot_self hf
  have hagent : s.fetchAgent = if taken < 8 then some .snapshot else none := by
    rw [← hself, State.writingSnapshot_agent hc]
  have hfinish {k : Nat} {m : Memory} {r : XmAgent} (hread : s.iterateTurns waiting 8 = s.writingSnapshot target o picture k m r) :
      s.finishSnapshot waiting = if k < 8 then s.writingSnapshot target o picture k m r
        else (s.writingSnapshot target o picture k m r).offer (neverStarted o .done none 0) := by
    rw [State.finishSnapshot, hf]
    simp only [hread]
    rfl
  have hturn (hl : taken < 8) := State.writingSnapshot_fetchTurn (s := s) (target := target) (o := o) (picture := picture) hc hl s.xm s.rotation
  rw [hself] at hturn
  have hrest : (picture.drop (16 * taken)).length = 128 - 16 * taken := by rw [List.length_drop, hp]
  refine ⟨fun hl hs => ?_, fun hl hs hn => ?_, fun h => ?_⟩
  · rw [if_pos hl] at hagent
    have hstop := State.iterateTurns_stop (s := s) (waiting := waiting) (by simp [State.fetchServed, hagent, hs]) 8
    rw [hexec, hfinish (hstop.trans hself.symm), if_pos hl, hself]
  · rw [if_pos (by omega)] at hagent
    have hlen : ((picture.drop (16 * taken)).take 16).length = 16 := by
      rw [List.length_take, hrest]
      omega
    rw [hexec, hfinish ((State.iterateTurns_once hagent hs hn 7).trans (hturn (by omega))), if_pos (by omega)]
    refine ⟨_, rfl, fun i hi => ?_, fun a ha => ?_, rfl⟩
    · exact Memory.read_writeBytes_inside _ _ hm (by unfold Config.xmSize; omega) i hi
    · exact Memory.read_writeBytes_outside _ _ hm a (by rwa [hlen])
  · have hwhole : s.iterateTurns waiting 8 = s.iterateTurns [] 8 := by
      refine State.iterateTurns_whole (a := .snapshot) (by rw [hagent]; split <;> simp) ?_ 8
      refine h.imp_right (Or.imp (fun h8 => by rw [hagent, if_neg (by omega)]) fun ⟨h7, hs⟩ => ⟨hs, ?_⟩)
      rw [hturn (by omega), State.writingSnapshot_agent hc, if_neg (by omega)]
    obtain ⟨r, hread⟩ := State.writingSnapshot_iterateTurns (s := s) (target := target) (o := o) hc hp 8 taken s.xm s.rotation htaken
      (by omega)
    rw [hself] at hread
    obtain ⟨hxm, hh, hframe⟩ := s.writingSnapshot_offer target o picture
      (s.xm.writeBytes (target + 16 * taken) (picture.drop (16 * taken))) r (neverStarted o .done none 0)
    refine ⟨_, hexec.trans (congrArg _ (hfinish (hwhole.trans hread))), fun i hi => ?_, fun a ha => ?_, hh, hframe⟩
    · rw [if_neg (Nat.lt_irrefl 8), hxm]
      exact Memory.read_writeBytes_inside _ _ hm (by unfold Config.xmSize; omega) i hi
    · rw [if_neg (Nat.lt_irrefl 8), hxm]
      exact Memory.read_writeBytes_outside _ _ hm a (by omega)

end Sys2Proof.Machine
end


section
/-! PROOFS. What the posting engine writes into a CQ (R120, R121, R125, R130, R132, R133): O50. -/

namespace Sys2Proof.Machine

-- One declaration after another: so the whole text compiles within the memory of the check.
set_option Elab.async false

/-! ### Which item comes next (R125) -/

theorem fin2_cases (q p : Fin 2) : p = q + 1 ∨ p = q := by
  revert q p
  decide

theorem mem_allSources (e : Fin 12) : e ∈ allSources := by
  revert e
  decide

/-- The first event is the pending one of the lowest source. -/
theorem State.firstEvent_some {s : State} {e : Fin 12} (h : s.firstEvent = some e) :
    s.event e ≠ none ∧ ∀ f : Fin 12, f < e → s.event f = none := by
  obtain ⟨hp, before, after, hl, hb⟩ := List.find?_eq_some_iff_append.mp h
  refine ⟨Option.isSome_iff_ne_none.mp hp, fun f hf => ?_⟩
  have hsorted : allSources.Pairwise (· < ·) := by decide
  have hmem : f ∈ before := by
    have := mem_allSources f
    rw [hl, List.mem_append, List.mem_cons] at this
    rw [hl, List.pairwise_append, List.pairwise_cons] at hsorted
    rcases this with hm | rfl | hm
    · exact hm
    · exact absurd hf (lt_irrefl _)
    · exact absurd (hsorted.2.1.1 f hm) (lt_asymm hf)
  exact Option.not_isSome_iff_eq_none.mp (by simpa using hb f hmem)

theorem State.firstEvent_none {s : State} : s.firstEvent = none ↔ ∀ e : Fin 12, s.event e = none := by
  simp [State.firstEvent, List.find?_eq_none, mem_allSources]

/-- The oldest completion tied to a CQ. -/
theorem oldestFor_some {q : Fin 2} {cs : List Completion} {c : Completion} (h : oldestFor q cs = some c) :
    c.origin.cq = q ∧ ∃ before after, cs = before ++ c :: after ∧ (∀ x ∈ before, x.origin.cq ≠ q) ∧
      (cs.eraseP fun x => x.origin.cq == q) = before ++ after := by
  obtain ⟨hp, before, after, hl, hb⟩ := List.find?_eq_some_iff_append.mp h
  have hne (x : Completion) (hx : x ∈ before) : x.origin.cq ≠ q := by simpa using hb x hx
  refine ⟨eq_of_beq hp, before, after, hl, hne, ?_⟩
  rw [hl, List.eraseP_append_right _ fun x hx => by simpa using hne x hx, List.eraseP_cons_of_pos (p := fun x : Completion => x.origin.cq == q) hp]

theorem oldestFor_none {q : Fin 2} {cs : List Completion} : oldestFor q cs = none ↔ ∀ c ∈ cs, c.origin.cq ≠ q := by
  simp [oldestFor, List.find?_eq_none]

/-- A CQ has a geometry and room (R120). -/
theorem Cq.room_iff {x : Cq} : (x.hasGeometry && x.hasRoom) = true ↔ x.size ≠ 0 ∧ (x.tail + 1) % x.size ≠ x.hostHead := by
  simp [Cq.hasGeometry, Cq.hasRoom]

/-- What a CQ has to write when it writes a completion. -/
theorem State.itemFor_completion {s : State} {q : Fin 2} {c : Completion} (h : s.itemFor q = some (.completion c)) :
    (s.eventCq = some q → ∀ e : Fin 12, s.event e = none) ∧ oldestFor q s.pendingList = some c := by
  unfold State.itemFor at h
  split at h
  · simp at h
  · next hn =>
    refine ⟨fun hq => ?_, by simpa using h⟩
    rw [if_pos hq] at hn
    exact State.firstEvent_none.mp hn

/-- What a CQ has to write when it writes an event. -/
theorem State.itemFor_event {s : State} {q : Fin 2} {e : Fin 12} (h : s.itemFor q = some (.event e)) :
    s.eventCq = some q ∧ s.firstEvent = some e := by
  unfold State.itemFor at h
  split at h
  · next e' he =>
    obtain rfl : e' = e := by simpa using h
    split at he
    · next hq => exact ⟨hq, he⟩
    · cases he
  · simp at h

/-- A CQ has nothing to write (R125). -/
theorem State.itemFor_none {s : State} {q : Fin 2} :
    s.itemFor q = none ↔ (∀ c ∈ s.pendingList, c.origin.cq ≠ q) ∧ (s.eventCq = some q → ∀ e : Fin 12, s.event e = none) := by
  rw [← oldestFor_none, ← State.firstEvent_none]
  unfold State.itemFor
  split
  · next e he =>
    split at he
    · next hq => simp [hq, he]
    · cases he
  · next hn =>
    simp only [Option.map_eq_none_iff, iff_self_and]
    intro _ hq
    rwa [if_pos hq] at hn

/-- What a CQ must have to be written: a geometry and room, and something to write (R120, R125). -/
def State.Writable (s : State) (q : Fin 2) : Prop :=
  ((s.cq q).size ≠ 0 ∧ ((s.cq q).tail + 1) % (s.cq q).size ≠ (s.cq q).hostHead) ∧
    ((∃ c ∈ s.pendingList, c.origin.cq = q) ∨ (s.eventCq = some q ∧ ∃ e : Fin 12, s.event e ≠ none))

theorem State.candidate_some {s : State} {q : Fin 2} {i : PostItem} (h : s.candidate q = some i) :
    s.itemFor q = some i ∧ s.Writable q := by
  unfold State.candidate at h
  split at h
  · next hr =>
    refine ⟨h, Cq.room_iff.mp hr, ?_⟩
    have hn : s.itemFor q ≠ none := by rw [h]; simp
    rw [Ne, State.itemFor_none, not_and_or] at hn
    simpa using hn
  · cases h

theorem State.candidate_none {s : State} {q : Fin 2} (h : s.candidate q = none) : ¬s.Writable q := by
  unfold State.candidate at h
  rintro ⟨hroom, hwork⟩
  rw [if_pos (Cq.room_iff.mpr hroom), State.itemFor_none] at h
  obtain ⟨hl, he⟩ := h
  rcases hwork with ⟨c, hc, hq⟩ | ⟨hq, e, hne⟩
  · exact hl c hc hq
  · exact hne (he hq e)

theorem State.nextPost_some {s : State} {q : Fin 2} {i : PostItem} (h : s.nextPost = some (q, i)) : s.candidate q = some i := by
  unfold State.nextPost at h
  split at h
  · cases h
  · split at h
    · next hi => cases h; exact hi
    · next hi => cases h; exact hi
    · cases h

/-! ### Writing into a CQ -/

/-- A CQ context after a record has been written, at its tail's place in its ring (R120, R132, R133). -/
theorem Cq.advance_eq {x : Cq} (h : x.tail < x.size) :
    x.advance =
      { x with
        tail := (x.tail + 1) % x.size, phaseTag := x.phaseTag != (x.tail + 1 == x.size)
        unsignalled := if x.unsignalled + 1 = x.coalCount then 0 else x.unsignalled + 1
        delayTimer :=
          if x.unsignalled + 1 = x.coalCount then none
          else if x.unsignalled = 0 ∧ x.coalDelay ≠ 0 then some (10 * x.coalDelay)
          else x.delayTimer } := by
  have htag : (if (x.tail + 1) % x.size = 0 then !x.phaseTag else x.phaseTag) = (x.phaseTag != (x.tail + 1 == x.size)) := by
    by_cases hw : x.tail + 1 = x.size
    · rw [hw, Nat.mod_self]
      simp
    · rw [Nat.mod_eq_of_lt (by omega)]
      simp [beq_eq_false_iff_ne.mpr hw]
  simp only [Cq.advance, htag]

/-- The CAUSE bits once a record has been written (R132). -/
def State.signalled (s : State) (q : Fin 2) : BitVec 3 :=
  if (s.cq q).unsignalled + 1 = (s.cq q).coalCount then s.cause ||| cqCause q else s.cause

theorem State.writeCq_eq (s : State) (q : Fin 2) (record : List Byte) :
    let f := Cq.advance
    s.writeCq q record = { s.updCq q f with
      xm := Memory.writeBytes s.xm ((s.cq q).base + 16 * (s.cq q).tail) record, rotation := .posting, cqTurn := q
      cause := s.signalled q } := by
  unfold State.writeCq State.signalled
  dsimp only
  split <;> rfl

/-- What O50 says of a written record, of the state `u` after the accesses before it. -/
theorem State.writeCq_written {u : State} {q : Fin 2} {record : List Byte} (hm : u.MemoryOk)
    (hring : (u.cq q).base + 16 * (u.cq q).size ≤ 16384) (ht : (u.cq q).tail < (u.cq q).size) (hl : record.length = 16) :
    let t := u.writeCq q record
    let at_ := (u.cq q).base + 16 * (u.cq q).tail
    memoryHolds t at_ record ∧ (∀ a, (a < at_ ∨ at_ + 16 ≤ a) → Memory.read t.xm a = Memory.read u.xm a) ∧
      t.cq q = (u.cq q).advance ∧ (∀ p : Fin 2, p ≠ q → t.cq p = u.cq p) ∧
      ∀ b : Fin 3, t.cause.getLsbD b.val =
        (u.cause.getLsbD b.val || (decide ((u.cq q).unsignalled + 1 = (u.cq q).coalCount) && b.val == q.val)) := by
  intro t at_
  have hw : t = _ := State.writeCq_eq u q record
  have hxm : t.xm = Memory.writeBytes u.xm at_ record := by rw [hw]
  have hcq (p : Fin 2) : t.cq p = (u.updCq q Cq.advance).cq p := by rw [hw]; rfl
  refine ⟨fun i hi => ?_, fun a ha => ?_, (hcq q).trans (State.updCq_cq_self ..), fun p hp => (hcq p).trans (State.updCq_cq_ne (h := hp) ..),
    fun b => ?_⟩
  · rw [hxm]
    exact Memory.read_writeBytes_inside record at_ hm (by unfold Config.xmSize; omega) i hi
  · rw [hxm]
    exact Memory.read_writeBytes_outside record at_ hm a (by rwa [hl])
  · have hcause : t.cause = u.signalled q := by rw [hw]
    rw [hcause, State.signalled]
    split
    · next h => rw [BitVec.getLsbD_or, cqCause_getLsbD]; simp [h]
    · next h => simp [h]

/-- What O50 says of a row that writes a record of a CQ, apart from the list and the events; `u` is the state after the accesses
before it. -/
def Written (s u t : State) (q : Fin 2) (bytes : List Byte) : Prop :=
  let at_ := (s.cq q).base + 16 * (s.cq q).tail
  let full := (s.cq q).unsignalled + 1 = (s.cq q).coalCount
  memoryHolds t at_ bytes ∧ bytes.length = 16 ∧
    (∀ a, (a < at_ ∨ at_ + 16 ≤ a) → Memory.read t.xm a = Memory.read u.xm a) ∧
    t.cq q =
      { s.cq q with
        tail := ((s.cq q).tail + 1) % (s.cq q).size
        phaseTag := (s.cq q).phaseTag != ((s.cq q).tail + 1 == (s.cq q).size)
        unsignalled := if full then 0 else (s.cq q).unsignalled + 1
        delayTimer :=
          if full then none
          else if (s.cq q).unsignalled = 0 ∧ (s.cq q).coalDelay ≠ 0 then some (10 * (s.cq q).coalDelay)
          else (s.cq q).delayTimer } ∧
    (∀ p : Fin 2, p ≠ q → t.cq p = s.cq p) ∧ t.cqTurn = q ∧
    (∀ b : Fin 3, t.cause.getLsbD b.val = (s.cause.getLsbD b.val || (decide full && b.val == q.val)))

theorem Written.congr {s u t t' : State} {q : Fin 2} {bytes : List Byte} (h : Written s u t q bytes) (hx : t'.xm = t.xm)
    (hq : t'.cqs = t.cqs) (ht : t'.cqTurn = t.cqTurn) (hc : t'.cause = t.cause) : Written s u t' q bytes := by
  unfold Written memoryHolds State.cq at *
  rw [hx, hq, ht, hc]
  exact h

/-- A record is written after accesses of the fetch side, which leave the CQs as they are. -/
theorem State.writeCq_after {s : State} {q : Fin 2} {record : List Byte} (n : Nat) (hm : s.MemoryOk)
    (hring : (s.cq q).base + 16 * (s.cq q).size ≤ 16384) (ht : (s.cq q).tail < (s.cq q).size) (hl : record.length = 16) :
    Written s (s.fetchTurns n) ((s.fetchTurns n).writeCq q record) q record := by
  have hq (p : Fin 2) : (s.fetchTurns n).cq p = s.cq p := by simp
  obtain ⟨h1, h2, h3, h4, h5⟩ := State.writeCq_written (u := s.fetchTurns n) (q := q) (record := record) (State.fetchTurns_memoryOk hm _)
    (by rwa [hq]) (by rwa [hq]) hl
  have hturn : ((s.fetchTurns n).writeCq q record).cqTurn = q := by rw [State.writeCq_eq]
  simp only [hq, State.fetchTurns_cause] at h1 h2 h3 h4 h5
  exact ⟨h1, hl, h2, h3.trans (Cq.advance_eq ht), h4, hturn, h5⟩

theorem completionBytes_length (c : Completion) (tag : Bool) : (completionBytes c tag).length = 16 := by
  simp [completionBytes]

theorem eventBytes_length (e : Fin 12) (n : Nat) (d : EventDetail) (k : Tick) (tag : Bool) : (eventBytes e n d k tag).length = 16 := by
  simp [eventBytes]

/-- The CQ that is written next, unless none may be written (R125). -/
theorem State.nextPost_next {s : State} {i : PostItem} (hh : s.postingHeld = false) (h : s.candidate (s.cqTurn + 1) = some i) :
    s.nextPost = some (s.cqTurn + 1, i) := by
  rw [State.nextPost, hh, h]
  rfl

theorem State.nextPost_isSome {s : State} {q : Fin 2} (hh : s.postingHeld = false) (h : s.Writable q) :
    ∃ p i, s.nextPost = some (p, i) := by
  cases hn : s.candidate (s.cqTurn + 1) with
  | some i => exact ⟨_, i, State.nextPost_next hh hn⟩
  | none =>
    cases hl : s.candidate s.cqTurn with
    | some i =>
      refine ⟨s.cqTurn, i, ?_⟩
      rw [State.nextPost, hh, hn, hl]
      rfl
    | none =>
      rcases fin2_cases s.cqTurn q with rfl | rfl
      · exact absurd h (State.candidate_none hn)
      · exact absurd h (State.candidate_none hl)

/-- Into the event CQ a pending event goes before any completion, the one of the lowest source first (R125). -/
theorem State.itemFor_eventFirst {s : State} {q : Fin 2} {i : PostItem} {e : Fin 12} (h : s.itemFor q = some i)
    (hq : s.eventCq = some q) (he : s.event e ≠ none) : ∃ f, f ≤ e ∧ i = .event f := by
  cases hf : s.firstEvent with
  | none => exact absurd (State.firstEvent_none.mp hf e) he
  | some f =>
    refine ⟨f, not_lt.mp fun hlt => he ((State.firstEvent_some hf).2 e hlt), ?_⟩
    rw [State.itemFor, if_pos hq, hf] at h
    exact (Option.some.inj h).symm

/-- The posting engine is not held (R113, R126). -/
theorem State.postingHeld_eq_false {s : State} (h : s.engine ≠ .starting ∨ (s.configRead = none ∧ s.drained = false)) :
    s.postingHeld = false := by
  rcases h with h | ⟨hc, hd⟩
  · simp [State.postingHeld, h]
  · simp [State.postingHeld, hc, hd]

theorem State.writeCompletion_eq (s : State) (q : Fin 2) (c : Completion) :
    s.writeCompletion q c = { s.writeCq q (completionBytes c (s.cq q).phaseTag) with
      pendingList := s.pendingList.eraseP fun x => x.origin.cq == q } := by
  have hl : (s.writeCq q (completionBytes c (s.cq q).phaseTag)).pendingList = s.pendingList := by rw [State.writeCq_eq]; rfl
  rw [State.writeCompletion, hl]

theorem State.writeEvent_eq {s : State} {q : Fin 2} {e : Fin 12} {o : Occurrence} (h : s.event e = some o) :
    s.writeEvent q e =
      (s.writeCq q (eventBytes e o.count (s.eventDetail e o.detail) o.first (s.cq q).phaseTag)).updEvent e fun _ => none := by
  rw [State.writeEvent, h]

theorem State.fetchTurns_eventDetail (s : State) (n : Nat) (e : Fin 12) (d : EventDetail) :
    (s.fetchTurns n).eventDetail e d = s.eventDetail e d := by
  rw [State.fetchTurns_frame]
  rfl

/-- The rows that write do nothing while another waiting agent comes first, and write else. -/
theorem exec_completionWrite {s : State} (awake : s.Awake) {q : Fin 2} {c : Completion} (h : s.nextPost = some (q, .completion c))
    (x : Access) : exec (.completionWrite x) s = .next (s.withAccess .posting x fun s => s.writeCompletion q c) := by
  have : exec (.completionWrite x) s = s.act fun s => s.postCompletion x := rfl
  rw [this, State.act_awake awake, State.postCompletion, h]

theorem exec_eventWrite {s : State} (awake : s.Awake) {q : Fin 2} {e : Fin 12} (h : s.nextPost = some (q, .event e))
    (x : Access) : exec (.eventWrite x) s = .next (s.withAccess .posting x fun s => s.writeEvent q e) := by
  have : exec (.eventWrite x) s = s.act fun s => s.postEvent x := rfl
  rw [this, State.act_awake awake, State.postEvent, h]

/-- A completion that is written leaves the list (R125). -/
theorem State.writeCompletion_after {s : State} {q : Fin 2} {c : Completion} (n : Nat) (hm : s.MemoryOk)
    (hring : (s.cq q).base + 16 * (s.cq q).size ≤ 16384) (ht : (s.cq q).tail < (s.cq q).size) :
    let u := s.fetchTurns n
    let t := u.writeCompletion q c
    Written s u t q (completionBytes c (s.cq q).phaseTag) ∧
      t.pendingList = s.pendingList.eraseP (fun x => x.origin.cq == q) ∧
      t = { u with
        xm := t.xm, cqs := t.cqs, cqTurn := q, rotation := .posting, cause := t.cause, pendingList := t.pendingList } := by
  intro u t
  have hw := State.writeCq_after n hm hring ht (completionBytes_length c (s.cq q).phaseTag)
  have ht : t = _ := State.writeCompletion_eq u q c
  rw [s.fetchTurns_cq, State.fetchTurns_pendingList] at ht
  rw [ht]
  refine ⟨hw.congr rfl rfl rfl rfl, rfl, ?_⟩
  rw [State.writeCq_eq]
  rfl

/-- An event that is written is no longer pending (R130). -/
theorem State.writeEvent_after {s : State} {q : Fin 2} {e : Fin 12} {o : Occurrence} (n : Nat) (hm : s.MemoryOk)
    (hring : (s.cq q).base + 16 * (s.cq q).size ≤ 16384) (ht : (s.cq q).tail < (s.cq q).size) (ho : s.event e = some o) :
    let u := s.fetchTurns n
    let t := u.writeEvent q e
    Written s u t q (eventBytes e o.count (s.eventDetail e o.detail) o.first (s.cq q).phaseTag) ∧
      t.event e = none ∧ (∀ f : Fin 12, f ≠ e → t.event f = s.event f) ∧
      t = { u with xm := t.xm, cqs := t.cqs, cqTurn := q, rotation := .posting, cause := t.cause, events := t.events } := by
  intro u t
  have hw := State.writeCq_after n hm hring ht
    (eventBytes_length e o.count (s.eventDetail e o.detail) o.first (s.cq q).phaseTag)
  have ht : t = _ := State.writeEvent_eq (s := u) (q := q) (o := o) (by simpa [u] using ho)
  rw [s.fetchTurns_cq, State.fetchTurns_eventDetail] at ht
  generalize hv : u.writeCq q _ = v at ht hw
  have hevent (f : Fin 12) : v.event f = s.event f := by
    rw [← hv, State.writeCq_eq]
    exact State.fetchTurns_event ..
  rw [ht]
  have hframe : v = { u with xm := v.xm, cqs := v.cqs, cqTurn := q, rotation := .posting, cause := v.cause } := by
    rw [← hv, State.writeCq_eq]
    rfl
  refine ⟨hw.congr (v.updEvent_xm e _) (v.updEvent_cqs e _) (v.updEvent_cqTurn e _) (v.updEvent_cause e _),
    v.updEvent_event_self e _, fun f hf => (State.updEvent_event_ne (h := hf) ..).trans (hevent f), ?_⟩
  rw [hframe]
  rfl

/-- Settles O50. -/
theorem postedRecordStandsInRing : Obligations.PostedRecordStandsInRing := by
  refine ⟨fun s q x awake hm hring ht => ⟨fun c hc => ⟨fun hs => ?_, fun hs => ?_⟩, fun e he => ⟨fun hs => ?_, fun hs => ?_⟩⟩,
    fun s hfree => ?_⟩
  · rw [exec_completionWrite awake hc, State.withAccess_later hs]
  · obtain ⟨hevents, hold⟩ := State.itemFor_completion (State.candidate_some (State.nextPost_some hc)).1
    obtain ⟨hcq, before, after, hlist, hbefore, herase⟩ := oldestFor_some hold
    obtain ⟨hw, hl, hframe⟩ := State.writeCompletion_after (c := c) x.turns hm hring ht
    rw [exec_completionWrite awake hc, State.withAccess_served hs]
    exact ⟨_, rfl, hw, ⟨before, after, hlist, hbefore, hl.trans herase⟩, hcq, hevents, hframe⟩
  · rw [exec_eventWrite awake he, State.withAccess_later hs]
  · obtain ⟨hq, hfirst⟩ := State.itemFor_event (State.candidate_some (State.nextPost_some he)).1
    obtain ⟨hsome, hlower⟩ := State.firstEvent_some hfirst
    obtain ⟨o, ho⟩ := Option.ne_none_iff_exists'.mp hsome
    obtain ⟨hw, hnone, hne, hframe⟩ := State.writeEvent_after x.turns hm hring ht ho
    rw [exec_eventWrite awake he, State.withAccess_served hs]
    exact ⟨_, o, ho, hq, hlower, rfl, hw, hnone, hne, hframe⟩
  · have hh := State.postingHeld_eq_false hfree
    refine ⟨fun q i h => (State.candidate_some (State.nextPost_some h)).2, fun q hr hw => State.nextPost_isSome hh ⟨hr, hw⟩,
      fun hall => ?_, fun q i e h hq he => State.itemFor_eventFirst (State.candidate_some (State.nextPost_some h)).1 hq he, fun hno x => ?_⟩
    · cases hn : s.candidate (s.cqTurn + 1) with
      | some i => exact ⟨i, State.nextPost_next hh hn⟩
      | none => exact absurd (hall _) (State.candidate_none hn)
    · refine exec_post_none ?_ x
      cases hn : s.nextPost with
      | none => rfl
      | some y => exact absurd (State.candidate_some (State.nextPost_some hn)).2 (hno y.1)

end Sys2Proof.Machine
end


section
/-! PROOFS. The start of segments (R13, R28, R60 to R63), said once: a lane that starts the head of its queue, a set of lanes that
do, and the start test. -/

namespace Sys2Proof.Machine

-- One declaration after another: so the whole text compiles within the memory of the check.
set_option Elab.async false

/-! ### Arrivals and permission -/

/-- A gate's arrival set holds only lanes that are GATED on it (R58). -/
def State.ArrivalsOk (s : State) : Prop := ∀ g l : Fin 4, (s.gate g).arrivals.getLsbD l.val = true → (s.lane l).gatedOn g = true

/-- A lane is RUNNING or GATED only while the permit is on and its domains are ARMED (R13, R61). -/
def State.PermittedOk (s : State) : Prop := ∀ l : Fin 4, (s.lane l).atWork = true → s.permitOn = true ∧ s.domainsArmed l = true

theorem State.lanesOk_iff {s : State} : s.LanesOk ↔ s.PermittedOk ∧ s.ArrivalsOk := Iff.rfl

/-- A lane that is GATED on a gate has a head segment that carries it. -/
theorem Lane.gatedOn_iff {ln : Lane} {g : Fin 4} :
    ln.gatedOn g = true ↔ ln.state = .gated ∧ ∃ x rest, ln.queue = x :: rest ∧ x.gate = some g := by
  unfold Lane.gatedOn Lane.headGate
  rw [Bool.and_eq_true, beq_iff_eq, beq_iff_eq]
  refine and_congr_right fun _ => ?_
  cases ln.queue with
  | nil => simp
  | cons x rest => simp

theorem laneBit_getLsbD (l k : Fin 4) : (laneBit l).getLsbD k.val = (k == l) := by
  revert l k
  decide

/-! ### A phase as it is applied -/

/-- What a phase makes of a channel of the lane (R9, R10). -/
theorem Channel.applyPhase_spec (ch : Channel) (now : Tick) (c : Fin 6) (p : Phase) (period : Nat) :
    let d := ch.applyPhase false now c p period
    d.code = p.codeFor c ch.code ∧
      ((p.codeFor c ch.code).isPwm = true → d.duty = p.duty ∧ d.period = period ∧ d.carrierStart = now) := by
  unfold Channel.applyPhase
  simp only [Bool.false_eq_true, if_false]
  split
  · exact ⟨rfl, fun _ => ⟨rfl, rfl, rfl⟩⟩
  · next hn =>
    refine ⟨?_, fun h => absurd h hn⟩
    split
    · next he => exact he.symm
    · rfl

theorem State.applyPhase_channel (s : State) (l : Fin 4) (p : Phase) (period : Nat) (c : Fin 6) :
    (s.applyPhase l p period).channel c =
      if (s.channel c).owner = some l then (s.channel c).applyPhase (s.forcedOff c) s.tick c p period else s.channel c :=
  State.mapChannels_channel ..

theorem State.applyPhase_applied (s : State) (l : Fin 4) (p : Phase) (period : Nat) : PhaseApplied s (s.applyPhase l p period) l p period := by
  intro c ho
  rw [State.applyPhase_channel, if_pos ho]
  refine ⟨fun hf => ?_, fun hf => ?_⟩
  · rw [hf]
    exact Channel.applyPhase_forced ..
  · rw [hf]
    exact Channel.applyPhase_spec ..

/-! ### One lane starts its head -/

/-- Readiness notices of the lanes that a test picks have reached the fetch engine. -/
def NoticedBy (s t : State) (p : Fin 4 → Bool) : Prop :=
  ∀ q : Fin 4,
    let told := ∃ l k, (s.sq q).state = .blocked l k ∧ p l = true ∧ (t.lane l).readyFor k = true
    (told → t.sq q = { s.sq q with state := if (s.sq q).head = (s.sq q).tail then .empty else .ready }) ∧
      (¬told → t.sq q = s.sq q)

theorem noticed_iff {s t : State} {set : LaneSet} : Noticed s t set ↔ NoticedBy s t fun l => set.getLsbD l.val := Iff.rfl

/-- The lanes that a test picks have started the heads of their queues. -/
def StartsHeadsBy (s t : State) (p : Fin 4 → Bool) : Prop :=
  (∀ (l : Fin 4) (g : Segment) (rest : List Segment), p l = true → (s.lane l).queue = g :: rest →
      t.lane l = { s.lane l with state := .running (freshRun s g), queue := rest, holdTimer := none } ∧
        PhaseApplied s t l ((segmentPhases s g).headD Phase.none) g.period) ∧
    (∀ l : Fin 4, p l = false → t.lane l = s.lane l) ∧
    (∀ c : Fin 6, (∀ l, (s.channel c).owner = some l → p l = false) → t.channel c = s.channel c) ∧
    (∀ n : Fin 2,
      let triggered := (s.stream n).state = .armed ∧ ∃ l : Fin 4, (s.stream n).trigger = .laneStart l ∧ p l = true
      (triggered → t.stream n = { s.stream n with state := .running, nextInstant := some s.tick }) ∧
        (¬triggered → t.stream n = s.stream n)) ∧
    NoticedBy s t p ∧ t = { s with lanes := t.lanes, channels := t.channels, streams := t.streams, sqs := t.sqs, gates := t.gates }

theorem startsHeads_iff {s t : State} {set : LaneSet} : StartsHeads s t set ↔ StartsHeadsBy s t fun l => set.getLsbD l.val := Iff.rfl

/-- A readiness notice of one lane (R111). -/
theorem State.readinessNotice_noticed (s : State) (l : Fin 4) : NoticedBy s (s.readinessNotice l) (· == l) := by
  intro q
  have hq : (s.readinessNotice l).sq q = (s.sq q).unblock l fun k => (s.lane l).readyFor k := State.mapSqs_sq ..
  have hl (k : Fin 4) : (s.readinessNotice l).lane k = s.lane k := rfl
  simp only [hq, hl, beq_iff_eq]
  unfold Sq.unblock
  split
  · next l' k hb =>
    split
    · next h =>
      refine ⟨fun _ => rfl, fun hn => absurd ⟨l', k, hb, h.1, ?_⟩ hn⟩
      rw [h.1]
      exact h.2
    · next h =>
      refine ⟨?_, fun _ => rfl⟩
      rintro ⟨l'', k', hb', rfl, hr⟩
      obtain ⟨rfl, rfl⟩ : l' = l'' ∧ k = k' := by simpa [hb] using hb'
      exact absurd ⟨rfl, hr⟩ h
  · next hb =>
    refine ⟨?_, fun _ => rfl⟩
    rintro ⟨l', k, hb', -⟩
    exact absurd hb' (hb l' k)

theorem State.readinessNotice_stream (s : State) (l : Fin 4) (n : Fin 2) : (s.readinessNotice l).stream n = s.stream n := rfl

/-- A stream whose trigger the start of a lane meets. -/
def CaptureStream.triggeredBy (c : CaptureStream) (l : Fin 4) : Prop := c.state = .armed ∧ c.trigger = .laneStart l

theorem State.triggerStream_stream (s : State) (n : Fin 2) (l : Fin 4) (m : Fin 2) :
    (s.triggerStream n l).stream m =
      if m = n ∧ (s.stream m).state = .armed ∧ (s.stream m).trigger = .laneStart l then
        { s.stream m with state := .running, nextInstant := some s.tick }
      else s.stream m := by
  unfold State.triggerStream
  dsimp only
  by_cases hm : m = n
  · subst hm
    by_cases h : (s.stream m).state = .armed ∧ (s.stream m).trigger = .laneStart l
    · rw [if_pos h, State.updStream_stream_self, if_pos ⟨rfl, h⟩]
    · rw [if_neg h, if_neg fun k => h k.2]
  · have hne : ¬(m = n ∧ (s.stream m).state = .armed ∧ (s.stream m).trigger = .laneStart l) := fun k => hm k.1
    rw [if_neg hne]
    split
    · exact State.updStream_stream_ne (h := hm) ..
    · rfl

theorem State.triggerStream_frame (s : State) (n : Fin 2) (l : Fin 4) : ∃ v, s.triggerStream n l = { s with streams := v } := by
  unfold State.triggerStream
  dsimp only
  split
  · exact ⟨_, rfl⟩
  · exact ⟨_, rfl⟩

/-- The streams that the start of a lane triggers (R147). -/
theorem State.laneEntered_stream (s : State) (l : Fin 4) (n : Fin 2) :
    (s.laneEntered l).stream n =
      if (s.stream n).state = .armed ∧ (s.stream n).trigger = .laneStart l then
        { s.stream n with state := .running, nextInstant := some s.tick }
      else s.stream n := by
  have htick : (s.triggerStream 0 l).tick = s.tick := by
    obtain ⟨v, hv⟩ := s.triggerStream_frame 0 l
    rw [hv]
  unfold State.laneEntered
  rw [State.triggerStream_stream, htick, State.triggerStream_stream]
  match n with
  | 0 => simp
  | 1 => simp

theorem State.laneEntered_frame (s : State) (l : Fin 4) : ∃ v, s.laneEntered l = { s with streams := v } := by
  obtain ⟨v, hv⟩ := s.triggerStream_frame 0 l
  obtain ⟨w, hw⟩ := (s.triggerStream 0 l).triggerStream_frame 1 l
  exact ⟨w, by rw [State.laneEntered, hw, hv]⟩

/-- The running lane that a start makes of a lane (R28). -/
def Lane.started (ln : Lane) (r : Running) (rest : List Segment) : Lane :=
  { ln with state := .running r, queue := rest, holdTimer := none }

/-- A start, up to the streams that it triggers and the notice of readiness. -/
def State.startedLane (s : State) (l : Fin 4) (g : Segment) (rest : List Segment) : State :=
  (s.updLane l fun ln => ln.started (freshRun s g) rest).applyPhase l ((segmentPhases s g).headD Phase.none) g.period

section
variable {s : State} {l : Fin 4} {g : Segment} {rest : List Segment} (h : (s.lane l).queue = g :: rest)
include h

theorem State.startHead_eq : s.startHead l = ((s.startedLane l g rest).laneEntered l).readinessNotice l := by
  rw [State.startHead, h]
  rfl

theorem State.startHead_withStreams : ∃ v, s.startHead l = ({ s.startedLane l g rest with streams := v }).readinessNotice l := by
  obtain ⟨v, hv⟩ := (s.startedLane l g rest).laneEntered_frame l
  exact ⟨v, by rw [State.startHead_eq h, hv]⟩

theorem State.startHead_lane (k : Fin 4) :
    (s.startHead l).lane k = if k = l then (s.lane l).started (freshRun s g) rest else s.lane k := by
  obtain ⟨v, hv⟩ := State.startHead_withStreams h
  rw [hv]
  exact s.updLane_lane l (fun ln => ln.started (freshRun s g) rest) k

theorem State.startHead_channel (c : Fin 6) :
    (s.startHead l).channel c = (s.applyPhase l ((segmentPhases s g).headD Phase.none) g.period).channel c := by
  obtain ⟨v, hv⟩ := State.startHead_withStreams h
  rw [hv]
  change (State.applyPhase _ l _ _).channel c = _
  rw [State.applyPhase_channel, State.applyPhase_channel]
  rfl

theorem State.startHead_stream (n : Fin 2) : (s.startHead l).stream n =
    if (s.stream n).state = .armed ∧ (s.stream n).trigger = .laneStart l then
      { s.stream n with state := .running, nextInstant := some s.tick }
    else s.stream n := by
  rw [State.startHead_eq h]
  rw [State.readinessNotice_stream, State.laneEntered_stream]
  rfl

theorem State.startHead_frame : s.startHead l =
    { s with
      lanes := (s.startHead l).lanes, channels := (s.startHead l).channels, streams := (s.startHead l).streams
      sqs := (s.startHead l).sqs } := by
  obtain ⟨v, hv⟩ := State.startHead_withStreams h
  rw [hv]
  rfl

theorem State.startHead_gates : (s.startHead l).gates = s.gates := by
  rw [State.startHead_frame h]

theorem State.startHead_noticed : NoticedBy s (s.startHead l) (· == l) := by
  obtain ⟨v, hv⟩ := State.startHead_withStreams h
  rw [hv]
  exact fun q => State.readinessNotice_noticed { s.startedLane l g rest with streams := v } l q

/-- A lane that starts the head of its queue (R28). -/
theorem State.startHead_starts : StartsHeadsBy s (s.startHead l) (· == l) := by
  refine ⟨fun k g' rest' hk hq => ?_, fun k hk => ?_, fun c hc => ?_, fun n => ?_, State.startHead_noticed h, ?_⟩
  · obtain rfl := beq_iff_eq.mp hk
    obtain ⟨rfl, rfl⟩ : g = g' ∧ rest = rest' := by simpa [h] using hq
    refine ⟨(State.startHead_lane h k).trans (if_pos rfl), fun c ho => ?_⟩
    rw [State.startHead_channel h]
    exact s.applyPhase_applied k _ _ c ho
  · rw [State.startHead_lane h, if_neg (beq_eq_false_iff_ne.mp hk)]
  · rw [State.startHead_channel h, State.applyPhase_channel, if_neg]
    exact fun ho => absurd (hc l ho) (by simp)
  · rw [State.startHead_stream h]
    refine ⟨fun ht => if_pos ?_, fun ht => if_neg fun k => ht ⟨k.1, l, k.2, beq_self_eq_true l⟩⟩
    obtain ⟨ha, k, hk, hkl⟩ := ht
    obtain rfl := beq_iff_eq.mp hkl
    exact ⟨ha, hk⟩
  · rw [State.startHead_gates h]
    exact State.startHead_frame h

end

/-! ### Several lanes start their heads -/

theorem PhaseApplied.congr {s s' t t' : State} {l : Fin 4} {p : Phase} {period : Nat} (h : PhaseApplied s t l p period)
    (hs : ∀ c : Fin 6, (s'.channel c).owner = some l → s'.channel c = s.channel c ∧ s'.forcedOff c = s.forcedOff c)
    (ht : ∀ c : Fin 6, (s'.channel c).owner = some l → t'.channel c = t.channel c) (htick : s'.tick = s.tick) :
    PhaseApplied s' t' l p period := by
  intro c ho
  obtain ⟨hch, hf⟩ := hs c ho
  have := h c (hch ▸ ho)
  rwa [← hch, ← hf, ← ht c ho, ← htick] at this

theorem NoticedBy.trans {s u t : State} {p q : Fin 4 → Bool} (h : NoticedBy s u p) (k : NoticedBy u t q)
    (hp : ∀ l, p l = true → (t.lane l).outbox = (u.lane l).outbox ∧ (t.lane l).queue = (u.lane l).queue) :
    NoticedBy s t fun l => p l || q l := by
  have hready (l : Fin 4) (hl : p l = true) (kind : LaneKind) : (t.lane l).readyFor kind = (u.lane l).readyFor kind := by
    obtain ⟨ho, hq⟩ := hp l hl
    cases kind <;> simp only [Lane.readyFor, Lane.holdsHalt, ho, hq]
  intro n
  obtain ⟨h1, h2⟩ := h n
  obtain ⟨k1, k2⟩ := k n
  refine ⟨?_, fun hn => ?_⟩
  · rintro ⟨l, kind, hb, hl, hr⟩
    by_cases hpl : ∃ l kind, (s.sq n).state = .blocked l kind ∧ p l = true ∧ (u.lane l).readyFor kind = true
    · have hu := h1 hpl
      rw [← hu]
      refine k2 ?_
      rintro ⟨l', kind', hb', -⟩
      rw [hu] at hb'
      dsimp only at hb'
      split at hb' <;> cases hb'
    · have hu := h2 hpl
      rw [← hu] at hb ⊢
      refine k1 ⟨l, kind, hb, ?_, hr⟩
      by_contra hql
      have hl : p l = true := by simpa [hql] using hl
      exact hpl ⟨l, kind, hu ▸ hb, hl, by rwa [← hready l hl]⟩
  · have hu : u.sq n = s.sq n := h2 fun ⟨l, kind, hb, hl, hr⟩ => hn ⟨l, kind, hb, by simp [hl], by rwa [hready l hl]⟩
    refine (k2 ?_).trans hu
    rintro ⟨l, kind, hb, hl, hr⟩
    exact hn ⟨l, kind, hu ▸ hb, by simp [hl], hr⟩

theorem freshRun_congr {s u : State} (hs : u.slots = s.slots) (ht : u.tick = s.tick) (g : Segment) : freshRun u g = freshRun s g := by
  simp only [freshRun, segmentPhases, State.slot, hs, ht]

theorem segmentPhases_congr {s u : State} (hs : u.slots = s.slots) (g : Segment) : segmentPhases u g = segmentPhases s g := by
  simp only [segmentPhases, State.slot, hs]

/-- Starts of disjoint sets of lanes, one after the other. -/
theorem StartsHeadsBy.trans {s u t : State} {p q : Fin 4 → Bool} (h : StartsHeadsBy s u p) (k : StartsHeadsBy u t q)
    (hstep : LaneStep s u) (hpq : ∀ l, p l = true → q l = false) : StartsHeadsBy s t fun l => p l || q l := by
  obtain ⟨hstart, hlane, hchannel, hstream, hnotice, hframe⟩ := h
  obtain ⟨kstart, klane, kchannel, kstream, knotice, kframe⟩ := k
  have hslots : u.slots = s.slots := by rw [hframe]
  have htick : u.tick = s.tick := by rw [hframe]
  refine ⟨fun l g rest hl hqueue => ?_, fun l hl => ?_, fun c hc => ?_, fun n => ?_, hnotice.trans knotice ?_, ?_⟩
  · by_cases hp : p l = true
    · obtain ⟨h1, h2⟩ := hstart l g rest hp hqueue
      refine ⟨(klane l (hpq l hp)).trans h1, h2.congr (fun c _ => ⟨rfl, rfl⟩) (fun c ho => kchannel c fun l' ho' => ?_) rfl⟩
      rw [hstep.owner c, ho] at ho'
      exact Option.some.inj ho' ▸ hpq l hp
    · have hp := Bool.not_eq_true _ ▸ hp
      have hul := hlane l hp
      obtain ⟨k1, k2⟩ := kstart l g rest (by simpa [hp] using hl) (hul ▸ hqueue)
      rw [hul, freshRun_congr hslots htick] at k1
      rw [segmentPhases_congr hslots] at k2
      refine ⟨k1, k2.congr (fun c ho => ⟨(hchannel c fun l' ho' => ?_).symm, (hstep.forcedOff c).symm⟩) (fun c _ => rfl) htick.symm⟩
      rw [ho] at ho'
      exact Option.some.inj ho' ▸ hp
  · obtain ⟨hp, hq⟩ := Bool.or_eq_false_iff.mp hl
    exact (klane l hq).trans (hlane l hp)
  · refine (kchannel c fun l ho => ?_).trans (hchannel c fun l ho => (Bool.or_eq_false_iff.mp (hc l ho)).1)
    rw [hstep.owner c] at ho
    exact (Bool.or_eq_false_iff.mp (hc l ho)).2
  · obtain ⟨h1, h2⟩ := hstream n
    obtain ⟨k1, k2⟩ := kstream n
    by_cases hp : (s.stream n).state = .armed ∧ ∃ l : Fin 4, (s.stream n).trigger = .laneStart l ∧ p l = true
    · have hu := h1 hp
      have ht : t.stream n = u.stream n := k2 fun ⟨ha, _⟩ => by rw [hu] at ha; cases ha
      rw [ht, hu]
      obtain ⟨ha, l, hl, hpl⟩ := hp
      exact ⟨fun _ => rfl, fun hn => absurd ⟨ha, l, hl, by simp [hpl]⟩ hn⟩
    · have hu := h2 hp
      rw [hu, htick] at k1
      rw [hu] at k2
      refine ⟨fun ⟨ha, l, hl, hpq⟩ => k1 ⟨ha, l, hl, ?_⟩, fun hn => k2 fun ⟨ha, l, hl, hq⟩ => hn ⟨ha, l, hl, by simp [hq]⟩⟩
      by_contra hq
      exact hp ⟨ha, l, hl, by simpa [hq] using hpq⟩
  · intro l hl
    rw [klane l (hpq l hl)]
    exact ⟨rfl, rfl⟩
  · refine kframe.trans ?_
    rw [hframe]

/-- Nothing starts where no lane is picked. -/
theorem StartsHeadsBy.none (s : State) : StartsHeadsBy s s fun _ => false :=
  ⟨fun _ _ _ hl => absurd hl Bool.false_ne_true, fun _ _ => rfl, fun _ _ => rfl,
    fun _ => ⟨fun ⟨_, _, _, h⟩ => absurd h Bool.false_ne_true, fun _ => rfl⟩,
    fun _ => ⟨fun ⟨_, _, _, h, _⟩ => absurd h Bool.false_ne_true, fun _ => rfl⟩, rfl⟩

/-- The start of the lanes of a list that a set holds, one after another. -/
def State.startAll (set : LaneSet) (ls : List (Fin 4)) (s : State) : State :=
  ls.foldl (fun s l => if set.getLsbD l.val then s.startHead l else s) s

theorem State.startAll_starts (set : LaneSet) : ∀ (ls : List (Fin 4)) (s : State), ls.Nodup →
    (∀ l ∈ ls, set.getLsbD l.val = true → (s.lane l).queue ≠ []) →
    StartsHeadsBy s (s.startAll set ls) (fun l => decide (l ∈ ls) && set.getLsbD l.val) ∧ (s.startAll set ls).gates = s.gates
  | [], s, _, _ => ⟨by simpa [State.startAll] using StartsHeadsBy.none s, rfl⟩
  | l :: ls, s, hnd, hq => by
    obtain ⟨hl, hnd⟩ := List.nodup_cons.mp hnd
    by_cases hset : set.getLsbD l.val = true
    · obtain ⟨g, rest, hqueue⟩ := List.exists_cons_of_ne_nil (hq l (.head ls) hset)
      have hlane (k : Fin 4) (hk : k ∈ ls) : (s.startHead l).lane k = s.lane k := by
        rw [State.startHead_lane hqueue, if_neg]
        rintro rfl
        exact hl hk
      obtain ⟨ih, hg⟩ := State.startAll_starts set ls (s.startHead l) hnd fun k hk hs => by
        rw [hlane k hk]
        exact hq k (.tail l hk) hs
      have hcons : s.startAll set (l :: ls) = (s.startHead l).startAll set ls := by
        rw [State.startAll, List.foldl_cons, if_pos hset]
        rfl
      have hpick : (fun k => decide (k ∈ l :: ls) && set.getLsbD k.val) = fun k => (k == l) || (decide (k ∈ ls) && set.getLsbD k.val) := by
        funext k
        by_cases hk : k = l
        · simp [hk, hset]
        · simp [hk]
      rw [hcons, hpick]
      refine ⟨(State.startHead_starts hqueue).trans ih (LaneStep.startHead s l) fun k hk => ?_, hg.trans (State.startHead_gates hqueue)⟩
      obtain rfl := beq_iff_eq.mp hk
      simp [hl]
    · have hcons : s.startAll set (l :: ls) = s.startAll set ls := by
        rw [State.startAll, List.foldl_cons, if_neg hset]
        rfl
      have hpick : (fun k => decide (k ∈ l :: ls) && set.getLsbD k.val) = fun k => decide (k ∈ ls) && set.getLsbD k.val := by
        funext k
        by_cases hk : k = l
        · have hoff : set.getLsbD l.val = false := Bool.not_eq_true _ ▸ hset
          rw [hk, hoff, Bool.and_false, Bool.and_false]
        · simp [hk]
      rw [hcons, hpick]
      exact State.startAll_starts set ls s hnd fun k hk => hq k (.tail l hk)

/-- The lanes of a set that all have a head start (R62). -/
theorem State.startSet_starts {s : State} {set : LaneSet} (hq : ∀ l : Fin 4, set.getLsbD l.val = true → (s.lane l).queue ≠ []) :
    StartsHeads s (s.startSet set) set ∧ (s.startSet set).gates = s.gates := by
  obtain ⟨h, hg⟩ := State.startAll_starts set allLanes s (by decide) fun l _ => hq l
  simp only [mem_allLanes, decide_true, Bool.true_and] at h
  exact ⟨h, hg⟩

/-! ### The start test (R13, R60 to R63) -/

/-- A gate fires (R62). -/
theorem State.fireGate_starts {s : State} {x : Fin 4} (hq : ∀ l : Fin 4, (s.gate x).members.getLsbD l.val = true → (s.lane l).queue ≠ []) :
    StartsHeads s (s.fireGate x) (s.gate x).members ∧
      (s.fireGate x).gates = s.gates.set x { s.gate x with arrivals := 0, waitTimer := none } := by
  obtain ⟨h, hg⟩ := State.startSet_starts (s := s.updGate x fun y => { y with arrivals := 0, waitTimer := none })
    (set := (s.gate x).members) hq
  exact ⟨h, hg⟩

/-- A lane that enters GATED (R13, R61). -/
def State.gatedLane (s : State) (l : Fin 4) : State :=
  { s with lanes := s.lanes.set l { s.lane l with state := .gated, resume := if (s.lane l).state = .holding then .holding else .idle } }

theorem State.enterGated_queue (s : State) (l k : Fin 4) : ((s.enterGated l).lane k).queue = (s.lane k).queue := by
  rw [State.enterGated, State.updLane_lane]
  split
  · next h => rw [h]
  · rfl

/-- A lane that is no member of its gate is stranded (R60). -/
theorem State.arrive_stranded {s : State} {l x : Fin 4} (hm : (s.gate x).members.getLsbD l.val = false) : s.arrive l x = s := by
  simp only [State.arrive, hm, Bool.not_false, if_true]

/-- A member that is not the last to arrive joins the arrival set; the first starts the wait timer (R61, R63). -/
theorem State.arrive_waits {s : State} {l x : Fin 4} (hm : (s.gate x).members.getLsbD l.val = true)
    (hne : (s.gate x).arrivals ||| laneBit l ≠ (s.gate x).members) :
    s.arrive l x = { s with
      gates := s.gates.set x
        { s.gate x with
          arrivals := (s.gate x).arrivals ||| laneBit l
          waitTimer :=
            if (s.gate x).arrivals = 0 ∧ (s.gate x).timeout ≠ 0 then some (100 * (s.gate x).timeout) else (s.gate x).waitTimer } } := by
  simp only [State.arrive, hm, Bool.not_true, Bool.false_eq_true, if_false, if_neg hne]
  rfl

/-- The last member to arrive fires the gate (R62). -/
theorem State.arrive_fires {s : State} {l x : Fin 4} (hm : (s.gate x).members.getLsbD l.val = true)
    (he : (s.gate x).arrivals ||| laneBit l = (s.gate x).members) : s.arrive l x = s.fireGate x := by
  simp only [State.arrive, hm, Bool.not_true, Bool.false_eq_true, if_false, if_pos he]

section
variable {s : State} {l : Fin 4} {g : Segment} {rest : List Segment} (hm : s.mayStart l = true) (hq : (s.lane l).queue = g :: rest)
include hm hq

theorem State.startTest_ungated (hg : g.gate = none) : s.startTest l = s.startHead l := by
  rw [State.startTest, if_pos hm, hq]
  simp only [hg]

theorem State.startTest_gated {x : Fin 4} (hg : g.gate = some x) : s.startTest l = (s.enterGated l).arrive l x := by
  rw [State.startTest, if_pos hm, hq]
  simp only [hg]

end

/-- A lane that may start takes the head of its queue (R13). -/
theorem State.startTest_takesHead {s : State} {l : Fin 4} {g : Segment} {rest : List Segment} (ha : s.ArrivalsOk)
    (hm : s.mayStart l = true) (hq : (s.lane l).queue = g :: rest) : TakesHead s (s.startTest l) l g := by
  unfold TakesHead
  cases hg : g.gate with
  | none =>
    rw [State.startTest_ungated hm hq hg]
    dsimp only
    refine ⟨?_, State.startHead_gates hq⟩
    have := State.startHead_starts hq
    rw [startsHeads_iff]
    simpa only [laneBit_getLsbD] using this
  | some x =>
    rw [State.startTest_gated hm hq hg]
    dsimp only
    refine ⟨fun hmem => State.arrive_stranded hmem, fun hmem hne => State.arrive_waits hmem hne, fun hmem heq => ?_⟩
    rw [State.arrive_fires (s := s.enterGated l) hmem heq]
    refine State.fireGate_starts (s := s.gatedLane l) fun k hk => ?_
    have hlane : ((s.gatedLane l).lane k).queue = (s.lane k).queue := State.enterGated_queue s l k
    have hk : ((s.gate x).arrivals ||| laneBit l).getLsbD k.val = true := heq ▸ hk
    rw [hlane]
    rw [BitVec.getLsbD_or, laneBit_getLsbD, Bool.or_eq_true, beq_iff_eq] at hk
    rcases hk with hk | rfl
    · obtain ⟨-, y, ys, hy, -⟩ := Lane.gatedOn_iff.mp (ha x k hk)
      simp [hy]
    · simp [hq]

/-- Where a lane may not start, or has no head, nothing happens. -/
theorem State.startTest_none {s : State} {l : Fin 4} (h : (s.lane l).queue = [] ∨ s.mayStart l = false) : s.startTest l = s := by
  unfold State.startTest
  split
  · next hm =>
    rw [h.resolve_right (by simp [hm])]
  · rfl

end Sys2Proof.Machine
end


section
/-! PROOFS. What the start test may do to any lane and to the arrival sets (R13, R58, R60 to R62). -/

namespace Sys2Proof.Machine

-- One declaration after another: so the whole text compiles within the memory of the check.
set_option Elab.async false

/-! ### What a start makes of a lane -/

/-- A lane waits: neither RUNNING nor HELD nor UNBOUND. -/
def Lane.waits (ln : Lane) : Prop := ln.state = .idle ∨ ln.state = .holding ∨ ln.state = .gated

/-- A start has made `b` of a lane: nothing, or it waited with a head segment, which has started or awaits its gate. -/
inductive LaneStart (a : Lane) : Lane → Prop
  | same : LaneStart a a
  | started (g : Segment) (rest : List Segment) (r : Running) (res : Resume) (hw : a.waits) (hq : a.queue = g :: rest)
      (hr : r.seg = g) : LaneStart a { a.started r rest with resume := res }
  | gated (res : Resume) (hw : a.waits) : LaneStart a { a with state := .gated, resume := res }

theorem LaneStart.outbox {a b : Lane} (h : LaneStart a b) : b.outbox = a.outbox := by cases h <;> rfl

theorem Lane.segments_of_waits {ln : Lane} (h : ln.waits) : ln.segments = ln.queue := by
  unfold Lane.segments
  rcases h with h | h | h <;> rw [h]

/-- A start keeps the segments of a lane, the running one first. -/
theorem LaneStart.segments {a b : Lane} (h : LaneStart a b) : b.segments = a.segments := by
  cases h with
  | same => rfl
  | started g rest r res hw hq hr =>
    rw [Lane.segments_of_waits hw, hq, ← hr]
    rfl
  | gated res hw =>
    rw [Lane.segments_of_waits hw]
    rfl

/-- What the start test of lane l may do to the lanes: only that lane, if it may start, and lanes that are GATED start. -/
structure StartsOnly (s t : State) (l : Fin 4) : Prop where
  arrivals : t.ArrivalsOk
  slots : t.slots = s.slots
  lane (k : Fin 4) : LaneStart (s.lane k) (t.lane k)
  allowed (k : Fin 4) : t.lane k ≠ s.lane k → (s.lane k).state = .gated ∨ (k = l ∧ s.mayStart l = true)

theorem State.mayStart_iff {s : State} {l : Fin 4} :
    s.mayStart l = true ↔ ((s.lane l).state = .idle ∨ (s.lane l).state = .holding) ∧ (s.lane l).outbox = [] ∧
      s.permitOn = true ∧ s.domainsArmed l = true := by
  simp only [State.mayStart, Bool.and_eq_true, Bool.or_eq_true, beq_iff_eq, List.isEmpty_iff, and_assoc]

theorem State.waits_of_mayStart {s : State} {l : Fin 4} (h : s.mayStart l = true) : (s.lane l).waits := by
  obtain ⟨h, -⟩ := State.mayStart_iff.mp h
  exact h.imp_right .inl

/-- A lane that may start has arrived at no gate. -/
theorem State.not_arrived_of_mayStart {s : State} {l : Fin 4} (ha : s.ArrivalsOk) (h : s.mayStart l = true) (g : Fin 4) :
    (s.gate g).arrivals.getLsbD l.val = false := by
  by_contra hn
  obtain ⟨hg, -⟩ := Lane.gatedOn_iff.mp (ha g l (Bool.not_eq_false _ ▸ hn))
  obtain ⟨hs, -⟩ := State.mayStart_iff.mp h
  rw [hg] at hs
  rcases hs with hs | hs <;> cases hs

theorem StartsOnly.refl {s : State} (ha : s.ArrivalsOk) (l : Fin 4) : StartsOnly s s l :=
  ⟨ha, rfl, fun _ => .same, fun _ h => absurd rfl h⟩

/-- The lanes that have started their heads. -/
theorem StartsHeadsBy.laneStart {s t : State} {p : Fin 4 → Bool} (h : StartsHeadsBy s t p) {k : Fin 4}
    (hw : p k = true → (s.lane k).waits ∧ (s.lane k).queue ≠ []) : LaneStart (s.lane k) (t.lane k) := by
  obtain ⟨hstart, hlane, -⟩ := h
  by_cases hk : p k = true
  · obtain ⟨hw, hq⟩ := hw hk
    obtain ⟨g, rest, hq⟩ := List.exists_cons_of_ne_nil hq
    rw [(hstart k g rest hk hq).1]
    exact .started g rest (freshRun s g) (s.lane k).resume hw hq rfl
  · rw [hlane k (Bool.not_eq_true _ ▸ hk)]
    exact .same

theorem StartsHeadsBy.slots {s t : State} {p : Fin 4 → Bool} (h : StartsHeadsBy s t p) : t.slots = s.slots := by
  obtain ⟨-, -, -, -, -, hframe⟩ := h
  rw [hframe]

theorem State.gatedLane_lane (s : State) (l k : Fin 4) : (s.gatedLane l).lane k =
    if k = l then { s.lane l with state := .gated, resume := if (s.lane l).state = .holding then .holding else .idle }
    else s.lane k :=
  s.updLane_lane l (fun ln => { ln with state := .gated, resume := if ln.state = .holding then .holding else .idle }) k


/-- Lanes that have started leave every arrival set that does not name them in order. -/
theorem State.ArrivalsOk.of_lanes {s t : State} (ha : s.ArrivalsOk) (hg : ∀ g k : Fin 4,
    (t.gate g).arrivals.getLsbD k.val = true → (s.gate g).arrivals.getLsbD k.val = true ∧ t.lane k = s.lane k) : t.ArrivalsOk := by
  intro g k hk
  obtain ⟨h, hl⟩ := hg g k hk
  rw [hl]
  exact ha g k h

/-- A lane that is alone to start the head of its queue. -/
theorem State.startTest_startsOnly_ungated {s : State} {l : Fin 4} {g : Segment} {rest : List Segment} (ha : s.ArrivalsOk)
    (hm : s.mayStart l = true) (hq : (s.lane l).queue = g :: rest) (hg : g.gate = none) : StartsOnly s (s.startTest l) l := by
  have htake := State.startTest_takesHead ha hm hq
  rw [TakesHead, hg] at htake
  obtain ⟨hstarts, hgates⟩ := htake
  have hstarts := startsHeads_iff.mp hstarts
  have hlane (k : Fin 4) (hk : k ≠ l) : (s.startTest l).lane k = s.lane k :=
    hstarts.2.1 k ((laneBit_getLsbD l k).trans (beq_eq_false_iff_ne.mpr hk))
  refine ⟨ha.of_lanes fun x k hx => ?_, hstarts.slots, fun k => hstarts.laneStart fun hk => ?_, fun k hk => .inr ⟨?_, hm⟩⟩
  · have hx : (s.gate x).arrivals.getLsbD k.val = true := by rwa [State.gate, hgates] at hx
    refine ⟨hx, hlane k fun hkl => ?_⟩
    rw [hkl, State.not_arrived_of_mayStart ha hm] at hx
    cases hx
  · rw [laneBit_getLsbD, beq_iff_eq] at hk
    rw [hk, hq]
    exact ⟨State.waits_of_mayStart hm, List.cons_ne_nil _ _⟩
  · by_contra hkl
    exact hk (hlane k hkl)

theorem State.gatedLane_lane_self (s : State) (l : Fin 4) : (s.gatedLane l).lane l =
    { s.lane l with state := .gated, resume := if (s.lane l).state = .holding then .holding else .idle } := by
  rw [State.gatedLane_lane, if_pos rfl]

theorem State.gatedLane_lane_ne (s : State) {l k : Fin 4} (h : k ≠ l) : (s.gatedLane l).lane k = s.lane k := by
  rw [State.gatedLane_lane, if_neg h]

/-- A lane that has only entered GATED, whatever arrival set it has joined. -/
theorem StartsOnly.of_gated {s t : State} {l : Fin 4} (hm : s.mayStart l = true) (hlane : ∀ k, t.lane k = (s.gatedLane l).lane k)
    (hslots : t.slots = s.slots) (ha : t.ArrivalsOk) : StartsOnly s t l := by
  refine ⟨ha, hslots, fun k => ?_, fun k hk => .inr ⟨?_, hm⟩⟩
  · rw [hlane]
    by_cases hkl : k = l
    · rw [hkl, State.gatedLane_lane_self]
      exact .gated _ (State.waits_of_mayStart hm)
    · rw [State.gatedLane_lane_ne s hkl]
      exact .same
  · by_contra hkl
    rw [hlane, State.gatedLane_lane_ne s hkl] at hk
    exact hk rfl

/-- A lane that enters GATED has been in no arrival set. -/
theorem State.gatedLane_arrivalsOk {s : State} {l : Fin 4} (ha : s.ArrivalsOk) (hm : s.mayStart l = true) : (s.gatedLane l).ArrivalsOk :=
  ha.of_lanes fun x k hx => ⟨hx, State.gatedLane_lane_ne s fun hkl => by
    have hx : (s.gate x).arrivals.getLsbD k.val = true := hx
    rw [hkl, State.not_arrived_of_mayStart ha hm] at hx
    cases hx⟩

/-- A lane that joins the arrival set of the gate of its head. -/
theorem State.gatedOn_gatedLane {s : State} {l x : Fin 4} {g : Segment} {rest : List Segment} (hq : (s.lane l).queue = g :: rest)
    (hg : g.gate = some x) : ((s.gatedLane l).lane l).gatedOn x = true := by
  rw [State.gatedLane_lane_self]
  exact Lane.gatedOn_iff.mpr ⟨rfl, g, rest, hq, hg⟩

/-- A lane joins the arrival set of the gate that it is GATED on. -/
theorem State.ArrivalsOk.joins {s t : State} {l x : Fin 4} {timer : Option Nat} (ha : s.ArrivalsOk) (hl : (s.lane l).gatedOn x = true)
    (hlane : ∀ k, t.lane k = s.lane k)
    (hgates : t.gates = s.gates.set x { s.gate x with arrivals := (s.gate x).arrivals ||| laneBit l, waitTimer := timer }) :
    t.ArrivalsOk := by
  intro y k hk
  have hgate : t.gate y = if y = x then { s.gate x with arrivals := (s.gate x).arrivals ||| laneBit l, waitTimer := timer } else s.gate y := by
    rw [State.gate, hgates]
    exact s.updGate_gate x (fun z => { z with arrivals := (s.gate x).arrivals ||| laneBit l, waitTimer := timer }) y
  rw [hlane]
  rw [hgate] at hk
  split at hk
  · next hyx =>
    rw [BitVec.getLsbD_or, laneBit_getLsbD, Bool.or_eq_true, beq_iff_eq] at hk
    rcases hk with hk | rfl
    · exact hyx ▸ ha x k hk
    · exact hyx ▸ hl
  · exact ha y k hk

/-- A gate whose last member has arrived fires: every member starts, and no lane that has arrived elsewhere is one of them. -/
theorem StartsOnly.of_fires {s t : State} {l x : Fin 4} {g : Segment} {rest : List Segment} (ha : s.ArrivalsOk)
    (hm : s.mayStart l = true) (hq : (s.lane l).queue = g :: rest) (hg : g.gate = some x)
    (hall : (s.gate x).arrivals ||| laneBit l = (s.gate x).members)
    (hstarts : StartsHeads (s.gatedLane l) t (s.gate x).members)
    (hgates : t.gates = s.gates.set x { s.gate x with arrivals := 0, waitTimer := none }) : StartsOnly s t l := by
  have hstarts := startsHeads_iff.mp hstarts
  have hmember (k : Fin 4) (hk : (s.gate x).members.getLsbD k.val = true) : ((s.gatedLane l).lane k).gatedOn x = true := by
    rw [← hall, BitVec.getLsbD_or, laneBit_getLsbD, Bool.or_eq_true, beq_iff_eq] at hk
    by_cases hkl : k = l
    · rw [hkl]
      exact State.gatedOn_gatedLane hq hg
    · rw [State.gatedLane_lane_ne s hkl]
      exact ha x k (hk.resolve_right hkl)
  have hother (k : Fin 4) (hk : (s.gate x).members.getLsbD k.val = false) : k ≠ l ∧ t.lane k = s.lane k := by
    have hkl : k ≠ l := fun hkl => by
      rw [← hall, BitVec.getLsbD_or, laneBit_getLsbD, hkl] at hk
      simp at hk
    exact ⟨hkl, (hstarts.2.1 k hk).trans (State.gatedLane_lane_ne s hkl)⟩
  have hwaits (k : Fin 4) : (s.gate x).members.getLsbD k.val = true → ((s.gatedLane l).lane k).waits ∧ ((s.gatedLane l).lane k).queue ≠ [] := by
    intro hk
    obtain ⟨hs, y, ys, hy, -⟩ := Lane.gatedOn_iff.mp (hmember k hk)
    exact ⟨.inr (.inr hs), by rw [hy]; exact List.cons_ne_nil _ _⟩
  refine ⟨fun y k hy => ?_, hstarts.slots, fun k => ?_, fun k hk => ?_⟩
  · have hgate : t.gate y = if y = x then { s.gate x with arrivals := 0, waitTimer := none } else s.gate y := by
      rw [State.gate, hgates]
      exact s.updGate_gate x (fun z => { z with arrivals := 0, waitTimer := none }) y
    rw [hgate] at hy
    split at hy
    · simp at hy
    · next hyx =>
      have hk := ha y k hy
      rw [(hother k ?_).2]
      · exact hk
      · by_contra hmem
        obtain ⟨hs, z, zs, hz, hzx⟩ := Lane.gatedOn_iff.mp (hmember k (Bool.not_eq_false _ ▸ hmem))
        obtain ⟨-, w, ws, hw, hwy⟩ := Lane.gatedOn_iff.mp hk
        have hkl : k ≠ l := fun hkl => by
          rw [hkl, State.not_arrived_of_mayStart ha hm] at hy
          cases hy
        rw [State.gatedLane_lane_ne s hkl, hw] at hz
        obtain ⟨rfl, rfl⟩ : w = z ∧ ws = zs := by simpa using hz
        exact hyx (Option.some.inj (hwy.symm.trans hzx))
  · have := hstarts.laneStart (hwaits k)
    by_cases hkl : k = l
    · subst hkl
      have hmem : (s.gate x).members.getLsbD k.val = true := by
        by_contra hn
        exact (hother k (Bool.not_eq_true _ ▸ hn)).1 rfl
      rw [(hstarts.1 k g rest hmem ((State.enterGated_queue s k k).trans hq)).1, State.gatedLane_lane_self]
      exact .started g rest (freshRun (s.gatedLane k) g) _ (State.waits_of_mayStart hm) hq rfl
    · rwa [State.gatedLane_lane_ne s hkl] at this
  · by_cases hkl : k = l
    · exact .inr ⟨hkl, hm⟩
    · refine .inl ?_
      have hmem : (s.gate x).members.getLsbD k.val = true := by
        by_contra hn
        exact hk (hother k (Bool.not_eq_true _ ▸ hn)).2
      have := hmember k hmem
      rw [State.gatedLane_lane_ne s hkl] at this
      exact (Lane.gatedOn_iff.mp this).1

/-- What the start test of a lane may do (R13). -/
theorem State.startTest_startsOnly {s : State} (ha : s.ArrivalsOk) (l : Fin 4) : StartsOnly s (s.startTest l) l := by
  by_cases hnone : (s.lane l).queue = [] ∨ s.mayStart l = false
  · rw [State.startTest_none hnone]
    exact .refl ha l
  obtain ⟨hne, hm⟩ := not_or.mp hnone
  have hm := Bool.not_eq_false _ ▸ hm
  obtain ⟨g, rest, hq⟩ := List.exists_cons_of_ne_nil hne
  cases hg : g.gate with
  | none => exact State.startTest_startsOnly_ungated ha hm hq hg
  | some x =>
    have htake := State.startTest_takesHead ha hm hq
    rw [TakesHead, hg] at htake
    obtain ⟨hstranded, hwaits, hfires⟩ := htake
    by_cases hmem : (s.gate x).members.getLsbD l.val = true
    · by_cases hall : (s.gate x).arrivals ||| laneBit l = (s.gate x).members
      · obtain ⟨hstarts, hgates⟩ := hfires hmem hall
        exact .of_fires ha hm hq hg hall hstarts hgates
      · rw [hwaits hmem hall]
        exact .of_gated hm (fun k => rfl) rfl
          ((State.gatedLane_arrivalsOk ha hm).joins (State.gatedOn_gatedLane hq hg) (fun _ => rfl) rfl)
    · rw [hstranded (Bool.not_eq_true _ ▸ hmem)]
      exact .of_gated hm (fun _ => rfl) rfl (State.gatedLane_arrivalsOk ha hm)

end Sys2Proof.Machine
end


section
/-! PROOFS. One rule for each operation of the lane sequencer: what it makes of each lane, gate, slot and channel, and what it leaves
as it is. -/

namespace Sys2Proof.Machine

-- One declaration after another: so the whole text compiles within the memory of the check.
set_option Elab.async false

/-! ### Slots -/

theorem State.releaseSlot_slot (s : State) (g : Segment) (n : Fin 16) : (s.releaseSlot g).slot n =
    { s.slot n with useCount := if g.uses n then (s.slot n).useCount - 1 else (s.slot n).useCount } := by
  unfold State.releaseSlot Segment.uses
  split
  · next h => simp [h]
  · next m h =>
    rw [State.updSlot_slot, h]
    by_cases hn : n = m
    · simp [hn]
    · simp [hn, Ne.symm hn]

theorem State.holdSlot_slot (s : State) (g : Segment) (n : Fin 16) : (s.holdSlot g).slot n =
    { s.slot n with useCount := if g.uses n then (s.slot n).useCount + 1 else (s.slot n).useCount } := by
  unfold State.holdSlot Segment.uses
  split
  · next h => simp [h]
  · next m h =>
    rw [State.updSlot_slot, h]
    by_cases hn : n = m
    · simp [hn]
    · simp [hn, Ne.symm hn]

theorem State.releaseSlots_slot (n : Fin 16) : ∀ (gs : List Segment) (s : State), (s.releaseSlots gs).slot n =
    { s.slot n with useCount := (s.slot n).useCount - gs.countP fun g => g.uses n }
  | [], _ => rfl
  | g :: gs, s => by
    rw [State.releaseSlots, State.releaseSlots_slot n gs, State.releaseSlot_slot, List.countP_cons]
    split <;> simp [Nat.sub_sub, Nat.add_comm]

theorem State.releaseSlot_frame (s : State) (g : Segment) : ∃ v, s.releaseSlot g = { s with slots := v } := by
  unfold State.releaseSlot
  split
  · exact ⟨_, rfl⟩
  · exact ⟨_, rfl⟩

theorem State.holdSlot_frame (s : State) (g : Segment) : ∃ v, s.holdSlot g = { s with slots := v } := by
  unfold State.holdSlot
  split
  · exact ⟨_, rfl⟩
  · exact ⟨_, rfl⟩

theorem State.releaseSlots_frame : ∀ (gs : List Segment) (s : State), ∃ v, s.releaseSlots gs = { s with slots := v }
  | [], _ => ⟨_, rfl⟩
  | g :: gs, s => by
    obtain ⟨v, hv⟩ := s.releaseSlot_frame g
    obtain ⟨w, hw⟩ := State.releaseSlots_frame gs (s.releaseSlot g)
    exact ⟨w, by rw [State.releaseSlots, hw, hv]⟩

/-! ### Channels and arrival sets -/

theorem State.laneOff_channel (s : State) (l : Fin 4) (offset : Nat) (c : Fin 6) : (s.laneOff l offset).channel c =
    if (s.channel c).owner = some l then (s.channel c).turnOff s.tick offset else s.channel c :=
  State.mapChannels_channel ..

/-- A gate without a lane in its arrival set (R64). -/
def Gate.without (g : Gate) (l : Fin 4) : Gate :=
  if g.arrivals.getLsbD l.val then
    { g with
      arrivals := g.arrivals &&& ~~~laneBit l
      waitTimer := if g.arrivals &&& ~~~laneBit l = 0 then none else g.waitTimer }
  else g

theorem State.leaveGates_gate (s : State) (l g : Fin 4) : (s.leaveGates l).gate g = (s.gate g).without l := State.mapGates_gate ..

theorem Gate.without_of_absent {g : Gate} {l : Fin 4} (h : g.arrivals.getLsbD l.val = false) : g.without l = g := by
  rw [Gate.without, h, if_neg Bool.false_ne_true]

theorem Gate.without_arrivals (g : Gate) (l k : Fin 4) :
    (g.without l).arrivals.getLsbD k.val = (g.arrivals.getLsbD k.val && k != l) := by
  unfold Gate.without
  split
  · rw [BitVec.getLsbD_and, BitVec.getLsbD_not, laneBit_getLsbD]
    simp [k.isLt, bne]
  · next h =>
    have habsent : g.arrivals.getLsbD l.val = false := Bool.not_eq_true _ ▸ h
    by_cases hk : k = l
    · rw [hk, habsent, Bool.false_and]
    · simp [hk]

/-! ### The flush of a lane (R41, R89) -/

/-- A lane that has given up all its work. -/
def Lane.flushed (ln : Lane) (cs : List Completion) : Lane :=
  { ln with state := ln.state.afterFlush, queue := [], holdTimer := none, outbox := ln.outbox ++ cs }

section
variable (s : State) (l : Fin 4) (st : Status) (offset : Nat)

theorem State.flushLane_eq : ∃ v, s.flushLane l st offset =
    State.updLane { (s.leaveGates l).laneOff l offset with slots := v } l fun ln => ln.flushed (s.flushCompletions l st) := by
  obtain ⟨v, hv⟩ := State.releaseSlots_frame (s.lane l).segments ((s.leaveGates l).laneOff l offset)
  exact ⟨v, by rw [State.flushLane, hv]; rfl⟩

theorem State.flushLane_lane (k : Fin 4) : (s.flushLane l st offset).lane k =
    if k = l then (s.lane l).flushed (s.flushCompletions l st) else s.lane k := by
  obtain ⟨v, hv⟩ := s.flushLane_eq l st offset
  rw [hv, State.updLane_lane]
  rfl

theorem State.flushLane_channel (c : Fin 6) : (s.flushLane l st offset).channel c = (s.laneOff l offset).channel c := by
  obtain ⟨v, hv⟩ := s.flushLane_eq l st offset
  rw [hv]
  rfl

theorem State.flushLane_gate (g : Fin 4) : (s.flushLane l st offset).gate g = (s.gate g).without l := by
  obtain ⟨v, hv⟩ := s.flushLane_eq l st offset
  rw [hv, ← State.leaveGates_gate]
  rfl

theorem State.flushLane_slot (n : Fin 16) : (s.flushLane l st offset).slot n =
    { s.slot n with useCount := (s.slot n).useCount - (s.lane l).segments.countP fun g => g.uses n } :=
  State.releaseSlots_slot n (s.lane l).segments ((s.leaveGates l).laneOff l offset)

theorem State.flushLane_frame : ∃ ch la sl ga,
    s.flushLane l st offset = { s with channels := ch, lanes := la, slots := sl, gates := ga } := by
  obtain ⟨v, hv⟩ := s.flushLane_eq l st offset
  exact ⟨_, _, _, _, hv⟩

end

theorem LaneState.afterFlush_not_running (x : LaneState) (r : Running) : x.afterFlush ≠ .running r := by
  cases x <;> exact LaneState.noConfusion

theorem LaneState.afterFlush_not_gated (x : LaneState) : x.afterFlush ≠ .gated := by
  cases x <;> exact LaneState.noConfusion

theorem Lane.isRunning_eq_false {ln : Lane} (h : ∀ r, ln.state ≠ .running r) : ln.isRunning = false := by
  unfold Lane.isRunning
  split
  · next r hr => exact absurd hr (h r)
  · rfl

/-- A lane that runs nothing holds the segments of its queue. -/
theorem Lane.segments_of_not_running {ln : Lane} (h : ∀ r, ln.state ≠ .running r) : ln.segments = ln.queue := by
  unfold Lane.segments
  split
  · next r hr => exact absurd hr (h r)
  · rfl

theorem Lane.segments_of_running {ln : Lane} {r : Running} (h : ln.state = .running r) : ln.segments = r.seg :: ln.queue := by
  unfold Lane.segments
  rw [h]

theorem Lane.flushed_segments (ln : Lane) (cs : List Completion) : (ln.flushed cs).segments = [] :=
  Lane.segments_of_not_running fun r => ln.state.afterFlush_not_running r

theorem Lane.flushed_atWork (ln : Lane) (cs : List Completion) : (ln.flushed cs).atWork = false := by
  rw [Lane.atWork, Lane.isRunning_eq_false fun r => ln.state.afterFlush_not_running r, Bool.false_or]
  exact beq_eq_false_iff_ne.mpr ln.state.afterFlush_not_gated

/-- The completions of a flush are those of the lane's segments, one for each. -/
theorem State.flushCompletions_origins (s : State) (l : Fin 4) (st : Status) :
    (s.flushCompletions l st).map (·.origin) = (s.lane l).segments.map (·.origin) := by
  unfold State.flushCompletions Lane.segments
  dsimp only
  cases (s.lane l).state with
  | running r => simp [State.ranCompletion, neverStarted, Function.comp_def]
  | gated => cases (s.lane l).queue <;> simp [neverStarted, Function.comp_def]
  | _ => simp [neverStarted, Function.comp_def]

/-! ### The ending of a segment (R35) -/

section
variable (s : State) (l : Fin 4) (r : Running) (st : Status)

/-- A lane whose segment has ended. -/
def Lane.ended (ln : Lane) (a : EndAction) (c : Completion) : Lane :=
  { ln with
    state := a.nextState
    holdTimer := if a = .hold then holdStart ln.holdLimit else none
    outbox := ln.outbox ++ [c] }

theorem State.updLane_updLane (s : State) (l : Fin 4) (f g : Lane → Lane) :
    (s.updLane l f).updLane l g = s.updLane l (g ∘ f) := by
  have h : (s.updLane l f).updLane l g = { s with lanes := (s.lanes.set l (f (s.lane l))).set l (g ((s.updLane l f).lane l)) } := rfl
  rw [h, Vector.set_set, State.updLane_lane_self]
  rfl

/-- The channels of a lane after an end action (R35). -/
def State.endActionOff (s : State) (l : Fin 4) (a : EndAction) : State := if a = .coast then s.laneOff l else s

theorem State.endActionOff_frame (s : State) (l : Fin 4) (a : EndAction) : ∃ v, s.endActionOff l a = { s with channels := v } := by
  unfold State.endActionOff
  split
  · exact ⟨_, rfl⟩
  · exact ⟨_, rfl⟩

theorem State.ended_eq : s.ended l r st =
    ((s.endActionOff l r.seg.endAction).releaseSlot r.seg).updLane l fun ln =>
      ln.ended r.seg.endAction (s.ranCompletion l r st (endDetail r.seg st)) :=
  State.updLane_updLane ((s.endActionOff l r.seg.endAction).releaseSlot r.seg) l
    (fun ln => { ln with outbox := ln.outbox ++ [s.ranCompletion l r st (endDetail r.seg st)] })
    fun ln => { ln with
      state := r.seg.endAction.nextState
      holdTimer := if r.seg.endAction = .hold then holdStart ln.holdLimit else none }

theorem State.ended_slot (n : Fin 16) : (s.ended l r st).slot n =
    { s.slot n with useCount := if r.seg.uses n then (s.slot n).useCount - 1 else (s.slot n).useCount } := by
  obtain ⟨v, hv⟩ := s.endActionOff_frame l r.seg.endAction
  rw [State.ended_eq, hv]
  exact State.releaseSlot_slot { s with channels := v } r.seg n

theorem State.ended_frame : ∃ ch sl, s.ended l r st =
    State.updLane { s with channels := ch, slots := sl } l fun ln =>
      ln.ended r.seg.endAction (s.ranCompletion l r st (endDetail r.seg st)) := by
  obtain ⟨v, hv⟩ := s.endActionOff_frame l r.seg.endAction
  obtain ⟨w, hw⟩ := State.releaseSlot_frame { s with channels := v } r.seg
  exact ⟨v, w, by rw [State.ended_eq, hv, hw]⟩

theorem State.ended_lane (k : Fin 4) : (s.ended l r st).lane k =
    if k = l then (s.lane l).ended r.seg.endAction (s.ranCompletion l r st (endDetail r.seg st)) else s.lane k := by
  obtain ⟨ch, sl, h⟩ := s.ended_frame l r st
  rw [h, State.updLane_lane]
  rfl

theorem State.ended_gates : (s.ended l r st).gates = s.gates := by
  obtain ⟨ch, sl, h⟩ := s.ended_frame l r st
  rw [h]
  rfl

theorem State.ended_channel (c : Fin 6) : (s.ended l r st).channel c = (s.endActionOff l r.seg.endAction).channel c := by
  obtain ⟨v, hv⟩ := State.releaseSlot_frame (s.endActionOff l r.seg.endAction) r.seg
  rw [State.ended_eq, hv]
  rfl

end

theorem EndAction.nextState_not_running (a : EndAction) (r : Running) : a.nextState ≠ .running r := by
  cases a <;> exact LaneState.noConfusion

theorem EndAction.nextState_not_gated (a : EndAction) : a.nextState ≠ .gated := by
  cases a <;> exact LaneState.noConfusion

/-- A lane with a completion in its outbox starts nothing. -/
theorem State.startTest_of_outbox {s : State} {l : Fin 4} (h : (s.lane l).outbox ≠ []) : s.startTest l = s :=
  State.startTest_none (.inr (Bool.eq_false_iff.mpr fun hm => h (State.mayStart_iff.mp hm).2.1))

/-! ### The expiry of a gate's wait timer, as a lane takes it (R65) -/

/-- A lane whose head has timed out at its gate. -/
def Lane.timedOut (ln : Lane) (rest : List Segment) (c : Completion) : Lane :=
  { ln with queue := rest, outbox := ln.outbox ++ [c], state := ln.resume.state }

theorem Resume.state_not_running (x : Resume) (r : Running) : x.state ≠ .running r := by
  cases x <;> exact LaneState.noConfusion

theorem Resume.state_not_gated (x : Resume) : x.state ≠ .gated := by
  cases x <;> exact LaneState.noConfusion

section
variable {s : State} {g l : Fin 4} {x : Segment} {rest : List Segment} (h : (s.lane l).queue = x :: rest)
include h

theorem State.gateTimeoutLane_eq : s.gateTimeoutLane g l =
    ((s.releaseSlot x).updLane l fun ln =>
      ln.timedOut rest (neverStarted x.origin .gateTimeout (some l) (g.val + 1))).readinessNotice l := by
  have heq : s.gateTimeoutLane g l = (((s.releaseSlot x).updLane l fun ln =>
      ln.timedOut rest (neverStarted x.origin .gateTimeout (some l) (g.val + 1))).startTest l).readinessNotice l := by
    rw [State.gateTimeoutLane, h]
    rfl
  rw [heq, State.startTest_of_outbox]
  rw [State.updLane_lane_self]
  exact List.append_ne_nil_of_right_ne_nil _ (List.cons_ne_nil _ _)

theorem State.gateTimeoutLane_lane (k : Fin 4) : (s.gateTimeoutLane g l).lane k =
    if k = l then (s.lane l).timedOut rest (neverStarted x.origin .gateTimeout (some l) (g.val + 1)) else s.lane k := by
  obtain ⟨v, hv⟩ := s.releaseSlot_frame x
  rw [State.gateTimeoutLane_eq h, hv]
  exact s.updLane_lane l (fun ln => ln.timedOut rest (neverStarted x.origin .gateTimeout (some l) (g.val + 1))) k

theorem State.gateTimeoutLane_slot (n : Fin 16) : (s.gateTimeoutLane g l).slot n =
    { s.slot n with useCount := if x.uses n then (s.slot n).useCount - 1 else (s.slot n).useCount } := by
  rw [State.gateTimeoutLane_eq h]
  exact State.releaseSlot_slot s x n

theorem State.gateTimeoutLane_frame : ∃ la sl sq, s.gateTimeoutLane g l = { s with lanes := la, slots := sl, sqs := sq } := by
  obtain ⟨v, hv⟩ := s.releaseSlot_frame x
  rw [State.gateTimeoutLane_eq h, hv]
  exact ⟨_, _, _, rfl⟩

end

/-! ### The loss of the permit, as a lane takes it (R89) -/

theorem State.disableLane_minor {s : State} {l : Fin 4} (h : (s.lane l).state ≠ .unbound) :
    ∃ u, Minor (s.flushLane l .disabled) u ∧ s.disableLane l = u.readinessNotice l := by
  rw [State.disableLane, if_neg h]
  exact ⟨_, .ite (fun _ => .laneFault _ l) fun _ => .refl _, rfl⟩

theorem State.disableLane_lane (s : State) (l k : Fin 4) : (s.disableLane l).lane k =
    if k = l ∧ (s.lane l).state ≠ .unbound then (s.lane l).flushed (s.flushCompletions l .disabled) else s.lane k := by
  by_cases h : (s.lane l).state = .unbound
  · rw [State.disableLane, if_pos h, if_neg fun hk => hk.2 h]
  · obtain ⟨u, hu, he⟩ := State.disableLane_minor h
    have hlane : (s.disableLane l).lane k = (s.flushLane l .disabled).lane k := by
      rw [he]
      exact congrArg (·[k]) hu.lanes
    rw [hlane, State.flushLane_lane]
    simp only [h, ne_eq, not_false_eq_true, and_true]

/-! ### A trip, as a lane takes it (R78) -/

/-- A lane that a trip has left HELD. -/
def Lane.tripped (ln : Lane) (cs : List Completion) : Lane :=
  { ln with
    state := .held
    holdTimer := if ln.state = .idle ∨ ln.state = .held then ln.holdTimer else none
    outbox := ln.outbox ++ cs }

/-- What a trip completes: the running segment (R78). -/
def State.tripCompletions (s : State) (l : Fin 4) (c : Fin 6) : List Completion :=
  match (s.lane l).state with
  | .running r => [s.ranCompletion l r .tripped c.val]
  | _ => []

/-- The segments that a trip completes. -/
def Lane.runningSegments (ln : Lane) : List Segment :=
  match ln.state with
  | .running r => [r.seg]
  | _ => []

/-- A lane whose channels a trip of its domain turns OFF: it has work or a hold (R78). -/
def Lane.working (ln : Lane) : Bool :=
  match ln.state with
  | .holding => true
  | .gated => true
  | .running _ => true
  | _ => false

/-- The arrival sets as a lane that trips leaves them (R78). -/
def State.tripGates (s : State) (l : Fin 4) : State := if (s.lane l).state = .gated then s.leaveGates l else s

/-- The channels of a lane that trips (R78). -/
def State.tripOff (s : State) (l : Fin 4) (offset : Nat) : State := if (s.lane l).working then s.laneOff l offset else s

/-- A lane that a trip leaves HELD, up to its fault. -/
def State.trippedLane (s : State) (l : Fin 4) (c : Fin 6) (offset : Nat) : State :=
  (((s.tripGates l).tripOff l offset).releaseSlots (s.lane l).runningSegments).updLane l fun ln => ln.tripped (s.tripCompletions l c)

theorem State.updLane_congr {s : State} {l : Fin 4} {f g : Lane → Lane} (h : f (s.lane l) = g (s.lane l)) :
    s.updLane l f = s.updLane l g := by
  have hf (f : Lane → Lane) : s.updLane l f = { s with lanes := s.lanes.set l (f (s.lane l)) } := rfl
  rw [hf, hf, h]

theorem State.updLane_releaseSlot (s : State) (l : Fin 4) (f : Lane → Lane) (g : Segment) :
    (s.updLane l f).releaseSlot g = (s.releaseSlot g).updLane l f := by
  unfold State.releaseSlot
  split <;> rfl

section
variable (s : State) (l : Fin 4) (c : Fin 6) (offset : Nat)

/-- A trip, as a lane takes it (R78); an UNBOUND and a HELD lane take nothing. -/
theorem State.laneTrip_eq : s.laneTrip l c offset =
    if (s.lane l).state = .unbound ∨ (s.lane l).state = .held then s
    else if (s.lane l).isRunning then (s.trippedLane l c offset).laneFault l else s.trippedLane l c offset := by
  unfold State.laneTrip State.trippedLane State.tripGates State.tripOff Lane.runningSegments State.tripCompletions Lane.isRunning Lane.working
  cases h : (s.lane l).state with
  | unbound => simp
  | held => simp
  | idle =>
    simp only [reduceCtorEq, or_self, if_false, Bool.false_eq_true, State.releaseSlots, h]
    exact State.updLane_congr (by simp [Lane.tripped, h])
  | holding =>
    simp only [reduceCtorEq, or_self, if_false, if_true, Bool.false_eq_true, State.releaseSlots, State.holdLane, h]
    refine State.updLane_congr ?_
    have hl : (s.laneOff l offset).lane l = s.lane l := rfl
    rw [hl]
    simp [Lane.tripped, h]
  | gated =>
    have hg : ((s.leaveGates l).lane l).state = .gated := h
    simp only [reduceCtorEq, or_self, if_false, if_true, Bool.false_eq_true, State.releaseSlots, State.holdLane, hg]
    refine State.updLane_congr ?_
    have hl : ((s.leaveGates l).laneOff l offset).lane l = s.lane l := rfl
    rw [hl]
    simp [Lane.tripped, h]
  | running r =>
    simp only [reduceCtorEq, or_self, if_false, if_true, State.releaseSlots, State.holdLane, State.addOutbox,
      State.updLane_releaseSlot, State.updLane_updLane, h]
    refine congrArg (State.laneFault · l) (State.updLane_congr ?_)
    obtain ⟨v, hv⟩ := (s.laneOff l offset).releaseSlot_frame r.seg
    have hl : ((s.laneOff l offset).releaseSlot r.seg).lane l = s.lane l := by
      rw [hv]
      rfl
    rw [hl]
    simp [Lane.tripped, h]

theorem State.tripGates_frame : ∃ v, s.tripGates l = { s with gates := v } := by
  unfold State.tripGates
  split
  · exact ⟨_, rfl⟩
  · exact ⟨_, rfl⟩

theorem State.tripOff_frame : ∃ v, s.tripOff l offset = { s with channels := v } := by
  unfold State.tripOff
  split
  · exact ⟨_, rfl⟩
  · exact ⟨_, rfl⟩

theorem State.trippedLane_frame : ∃ ch sl, s.trippedLane l c offset =
    State.updLane { s.tripGates l with channels := ch, slots := sl } l fun ln => ln.tripped (s.tripCompletions l c) := by
  obtain ⟨v, hv⟩ := (s.tripGates l).tripOff_frame l offset
  obtain ⟨w, hw⟩ := State.releaseSlots_frame (s.lane l).runningSegments { s.tripGates l with channels := v }
  exact ⟨v, w, by rw [State.trippedLane, hv, hw]⟩

theorem State.trippedLane_lane (k : Fin 4) : (s.trippedLane l c offset).lane k =
    if k = l then (s.lane l).tripped (s.tripCompletions l c) else s.lane k := by
  obtain ⟨ch, sl, h⟩ := s.trippedLane_frame l c offset
  obtain ⟨v, hv⟩ := s.tripGates_frame l
  rw [h, hv, State.updLane_lane]
  rfl

theorem State.trippedLane_gate (g : Fin 4) : (s.trippedLane l c offset).gate g =
    if (s.lane l).state = .gated then (s.gate g).without l else s.gate g := by
  obtain ⟨ch, sl, h⟩ := s.trippedLane_frame l c offset
  rw [h]
  have hg : (State.updLane { s.tripGates l with channels := ch, slots := sl } l fun ln =>
      ln.tripped (s.tripCompletions l c)).gate g = (s.tripGates l).gate g := rfl
  rw [hg, State.tripGates]
  split
  · exact s.leaveGates_gate l g
  · rfl

theorem State.trippedLane_slot (n : Fin 16) : (s.trippedLane l c offset).slot n =
    { s.slot n with useCount := (s.slot n).useCount - (s.lane l).runningSegments.countP fun g => g.uses n } := by
  obtain ⟨v, hv⟩ := s.tripGates_frame l
  obtain ⟨w, hw⟩ := (s.tripGates l).tripOff_frame l offset
  have := State.releaseSlots_slot n (s.lane l).runningSegments ((s.tripGates l).tripOff l offset)
  rw [hw, hv] at this
  rw [State.trippedLane, hw, hv]
  exact this

theorem State.trippedLane_channel (k : Fin 6) : (s.trippedLane l c offset).channel k = (s.tripOff l offset).channel k := by
  obtain ⟨v, hv⟩ := s.tripGates_frame l
  obtain ⟨w, hw⟩ := State.releaseSlots_frame (s.lane l).runningSegments ((s.tripGates l).tripOff l offset)
  rw [State.trippedLane, hw, hv]
  unfold State.tripOff
  have hl : State.lane { s with gates := v } l = s.lane l := rfl
  rw [hl]
  split
  · rfl
  · rfl

end

/-- A HELD lane stays as a trip would leave it. -/
theorem Lane.tripped_held {ln : Lane} (h : ln.state = .held) : ln.tripped [] = ln := by
  rw [Lane.tripped, List.append_nil, if_pos (.inr h), ← h]

theorem State.laneTrip_lane (s : State) (l : Fin 4) (c : Fin 6) (offset : Nat) (k : Fin 4) : (s.laneTrip l c offset).lane k =
    if k = l ∧ (s.lane l).state ≠ .unbound then (s.lane l).tripped (s.tripCompletions l c) else s.lane k := by
  rw [State.laneTrip_eq]
  by_cases hu : (s.lane l).state = .unbound
  · simp [hu]
  by_cases hh : (s.lane l).state = .held
  · have hcs : s.tripCompletions l c = [] := by rw [State.tripCompletions, hh]
    rw [if_pos (.inr hh), hcs, Lane.tripped_held hh]
    split
    · next hk => rw [hk.1]
    · rfl
  · rw [if_neg (not_or.mpr ⟨hu, hh⟩)]
    have hlane (u : State) (hm : Minor (s.trippedLane l c offset) u) :
        u.lane k = if k = l ∧ (s.lane l).state ≠ .unbound then (s.lane l).tripped (s.tripCompletions l c) else s.lane k := by
      rw [show u.lane k = (s.trippedLane l c offset).lane k from congrArg (·[k]) hm.lanes, State.trippedLane_lane]
      simp [hu]
    split
    · exact hlane _ (.laneFault _ l)
    · exact hlane _ (.refl _)

/-! ### Lanes that take something one after another -/

/-- The lanes' work leaves the phases of every slot. -/
structure PhasesKept (s t : State) : Prop where
  step : LaneStep s t
  phases (n : Fin 16) : (t.slot n).phases = (s.slot n).phases

theorem PhasesKept.refl (s : State) : PhasesKept s s := ⟨.refl s, fun _ => rfl⟩

theorem PhasesKept.trans {s t u : State} (h : PhasesKept s t) (k : PhasesKept t u) : PhasesKept s u :=
  ⟨h.step.trans k.step, fun n => (k.phases n).trans (h.phases n)⟩

theorem LaneStep.tick {s t : State} (h : LaneStep s t) : t.tick = s.tick := by
  obtain ⟨_, _, _, _, _, _, _, rfl⟩ := h.work
  rfl

theorem PhasesKept.phasesOf {s t : State} (h : PhasesKept s t) (g : Segment) : t.phasesOf g = s.phasesOf g := by
  unfold State.phasesOf
  split
  · rfl
  · exact h.phases _

theorem PhasesKept.ranCompletion {s t : State} (h : PhasesKept s t) (l : Fin 4) (r : Running) (st : Status) (detail : Nat) :
    t.ranCompletion l r st detail = s.ranCompletion l r st detail := by
  unfold State.ranCompletion State.repeatsNow State.atLastPhase
  rw [h.phasesOf, h.step.tick]

theorem PhasesKept.tripCompletions {s t : State} (h : PhasesKept s t) {l : Fin 4} (hl : t.lane l = s.lane l) (c : Fin 6) :
    t.tripCompletions l c = s.tripCompletions l c := by
  unfold State.tripCompletions
  rw [hl]
  split
  · rw [h.ranCompletion]
  · rfl

theorem PhasesKept.flushCompletions {s t : State} (h : PhasesKept s t) {l : Fin 4} (hl : t.lane l = s.lane l) (st : Status) :
    t.flushCompletions l st = s.flushCompletions l st := by
  unfold State.flushCompletions
  dsimp only
  rw [hl]
  split
  · rw [h.ranCompletion]
  · rfl
  · rfl

theorem PhasesKept.laneTrip (s : State) (l : Fin 4) (c : Fin 6) (offset : Nat) : PhasesKept s (s.laneTrip l c offset) := by
  refine ⟨.laneTrip s l c offset, fun n => ?_⟩
  have hslot (u : State) (hm : Minor (s.trippedLane l c offset) u) : (u.slot n).phases = (s.slot n).phases := by
    rw [show u.slot n = (s.trippedLane l c offset).slot n from congrArg (·[n]) hm.slots, State.trippedLane_slot]
  rw [State.laneTrip_eq]
  split
  · rfl
  · split
    · exact hslot _ (.laneFault _ l)
    · exact hslot _ (.refl _)

theorem State.disableLane_slot (s : State) (l : Fin 4) (n : Fin 16) : (s.disableLane l).slot n =
    { s.slot n with useCount := (s.slot n).useCount -
        if (s.lane l).state = .unbound then 0 else (s.lane l).segments.countP fun g => g.uses n } := by
  by_cases h : (s.lane l).state = .unbound
  · rw [State.disableLane, if_pos h, if_pos h, Nat.sub_zero]
  · obtain ⟨u, hu, he⟩ := State.disableLane_minor h
    have hslot : (s.disableLane l).slot n = (s.flushLane l .disabled).slot n := by
      rw [he]
      exact congrArg (·[n]) hu.slots
    rw [hslot, State.flushLane_slot, if_neg h]

theorem State.disableLane_gate (s : State) (l g : Fin 4) : (s.disableLane l).gate g =
    if (s.lane l).state = .unbound then s.gate g else (s.gate g).without l := by
  by_cases h : (s.lane l).state = .unbound
  · rw [State.disableLane, if_pos h, if_pos h]
  · obtain ⟨u, hu, he⟩ := State.disableLane_minor h
    rw [if_neg h, ← State.flushLane_gate, he]
    exact congrArg (·[g]) hu.gates

theorem PhasesKept.disableLane (s : State) (l : Fin 4) : PhasesKept s (s.disableLane l) :=
  ⟨.disableLane s l, fun n => by rw [State.disableLane_slot]⟩

section
variable {f : State → Fin 4 → State} {R : State → State → Prop} (hrefl : ∀ s, R s s) (htrans : ∀ {s t u}, R s t → R t u → R s u)
  (hf : ∀ s l, R s (f s l)) (hlane : ∀ s l k, k ≠ l → (f s l).lane k = s.lane k)
include hlane

/-- A lane that is not in the list keeps its state. -/
theorem State.foldl_lane_ne : ∀ (ls : List (Fin 4)) (s : State) (l : Fin 4), l ∉ ls → (ls.foldl f s).lane l = s.lane l
  | [], _, _, _ => rfl
  | k :: ls, s, l, h => by
    obtain ⟨hk, hls⟩ := not_or.mp (mt List.mem_cons.mpr h)
    exact (State.foldl_lane_ne ls (f s k) l hls).trans (hlane s k l hk)

include hrefl htrans hf

/-- A lane of the list takes its turn in a state in which it stands as it did at first. -/
theorem State.foldl_lane (ls : List (Fin 4)) (s : State) (l : Fin 4) (hnd : ls.Nodup) (h : l ∈ ls) :
    ∃ u, R s u ∧ u.lane l = s.lane l ∧ (ls.foldl f s).lane l = (f u l).lane l := by
  induction ls generalizing s with
  | nil => cases h
  | cons k ls ih =>
    obtain ⟨hk, hnd⟩ := List.nodup_cons.mp hnd
    by_cases hlk : l = k
    · subst hlk
      exact ⟨s, hrefl s, rfl, State.foldl_lane_ne hlane ls (f s l) l hk⟩
    · obtain ⟨u, hu, hul, hend⟩ := ih (f s k) hnd ((List.mem_cons.mp h).resolve_left hlk)
      exact ⟨u, htrans (hf s k) hu, hul.trans (hlane s k l hlk), hend⟩

end

theorem State.meetsDomain_congr {s t : State} {l : Fin 4} (hl : t.lane l = s.lane l) (h : LaneStep s t) (d : Fin 3) :
    t.meetsDomain l d = s.meetsDomain l d := by
  rw [State.meetsDomain, State.meetsDomain, hl, h.domain]

/-- What a trip of a domain makes of each lane (R78). -/
theorem State.tripLanes_lane (s : State) (d : Fin 3) (c : Fin 6) (offset : Nat) (l : Fin 4) : (s.tripLanes d c offset).lane l =
    if s.meetsDomain l d = true ∧ (s.lane l).state ≠ .unbound then (s.lane l).tripped (s.tripCompletions l c) else s.lane l := by
  obtain ⟨u, hu, hul, hend⟩ := State.foldl_lane (R := PhasesKept) (f := fun s l => if s.meetsDomain l d then s.laneTrip l c offset else s)
    PhasesKept.refl PhasesKept.trans (fun s l => by split; exacts [.laneTrip s l c offset, .refl s])
    (fun s l k hk => by
      split
      · rw [State.laneTrip_lane, if_neg fun h => hk h.1]
      · rfl) allLanes s l (by decide) (mem_allLanes l)
  rw [State.tripLanes, hend, State.meetsDomain_congr hul hu.step]
  split
  · next h => rw [State.laneTrip_lane, hu.tripCompletions hul, hul]; simp [h]
  · next h => simp [h, hul]

/-- What the loss of the permit makes of each lane (R89). -/
theorem State.disableLanes_lane (s : State) (l : Fin 4) : (allLanes.foldl (fun s l => s.disableLane l) s).lane l =
    if (s.lane l).state = .unbound then s.lane l else (s.lane l).flushed (s.flushCompletions l .disabled) := by
  obtain ⟨u, hu, hul, hend⟩ := State.foldl_lane (R := PhasesKept) (f := fun s l => s.disableLane l) PhasesKept.refl PhasesKept.trans
    PhasesKept.disableLane (fun s l k hk => by rw [State.disableLane_lane, if_neg fun h => hk h.1]) allLanes s l (by decide) (mem_allLanes l)
  rw [hend, State.disableLane_lane, hu.flushCompletions hul, hul]
  by_cases h : (s.lane l).state = .unbound
  · simp [h]
  · simp [h]

end Sys2Proof.Machine
end


section
/-! PROOFS. The laws of the lanes: arrival sets, permission to run (O54), the bounds of queues and outboxes (O55) and the use counts
of the slots (O56), each kept by every move. -/

namespace Sys2Proof.Machine

-- One declaration after another: so the whole text compiles within the memory of the check.
set_option Elab.async false

/-! ### What a move leaves of a lane -/

theorem Lane.gatedOn_advance (ln : Lane) (t : Option Nat) (g : Fin 4) :
    Lane.gatedOn { ln with state := ln.state.advance, holdTimer := t } g = ln.gatedOn g := by
  unfold Lane.gatedOn
  cases ln.state <;> rfl

theorem Lane.gatedOn_sample (ln : Lane) (v : Vector Int 6) (set : ChannelSet) (g : Fin 4) :
    Lane.gatedOn { ln with state := ln.state.sample v set } g = ln.gatedOn g := by
  unfold Lane.gatedOn
  cases ln.state <;> rfl

/-- A lane that advances a tick keeps its segments. -/
theorem Lane.segments_advance (ln : Lane) (t : Option Nat) : Lane.segments { ln with state := ln.state.advance, holdTimer := t } = ln.segments := by
  unfold Lane.segments
  cases ln.state <;> rfl

theorem Lane.segments_sample (ln : Lane) (v : Vector Int 6) (set : ChannelSet) :
    Lane.segments { ln with state := ln.state.sample v set } = ln.segments := by
  unfold Lane.segments
  cases ln.state <;> rfl

theorem Lane.segments_length (ln : Lane) : ln.segments.length = ln.queue.length + ln.runningCount := by
  unfold Lane.segments Lane.runningCount Lane.isRunning
  cases ln.state <;> rfl

/-- A lane with a segment at the tail of its queue. -/
def Lane.joined (ln : Lane) (g : Segment) : Lane := { ln with queue := ln.queue ++ [g] }

theorem Lane.joined_segments (ln : Lane) (g : Segment) : (ln.joined g).segments = ln.segments ++ [g] := by
  unfold Lane.segments Lane.joined
  cases ln.state <;> rfl

theorem State.joined_lane (s : State) (l : Fin 4) (g : Segment) (k : Fin 4) :
    ((s.holdSlot g).updLane l (Lane.joined · g)).lane k = if k = l then (s.lane l).joined g else s.lane k := by
  obtain ⟨v, hv⟩ := s.holdSlot_frame g
  rw [hv, State.updLane_lane]
  rfl

/-! ### Arrival sets (R58) -/

/-- A change that only shrinks the arrival sets, of lanes that stay GATED on the gates they have arrived at. -/
theorem State.ArrivalsOk.of_gatedOn {s t : State} (ha : s.ArrivalsOk)
    (hg : ∀ g k : Fin 4, (t.gate g).arrivals.getLsbD k.val = true →
      (s.gate g).arrivals.getLsbD k.val = true ∧ ((s.lane k).gatedOn g = true → (t.lane k).gatedOn g = true)) : t.ArrivalsOk :=
  fun g k hk => (hg g k hk).2 (ha g k (hg g k hk).1)

/-- A change of one lane, with the arrival sets as they were. -/
theorem State.ArrivalsOk.of_lane {s t : State} (ha : s.ArrivalsOk) (l : Fin 4) (hgates : t.gates = s.gates)
    (hlane : ∀ k, k ≠ l → t.lane k = s.lane k) (hl : ∀ g, (s.lane l).gatedOn g = true → (t.lane l).gatedOn g = true) : t.ArrivalsOk :=
  ha.of_gatedOn fun g k hk => by
    have hgate : t.gate g = s.gate g := congrArg (·[g]) hgates
    refine ⟨hgate ▸ hk, fun h => ?_⟩
    by_cases hkl : k = l
    · exact hkl ▸ hl g (hkl ▸ h)
    · rwa [hlane k hkl]

/-- A lane that is not GATED is GATED on no gate. -/
theorem Lane.gatedOn_of_not_gated {ln : Lane} (h : ln.state ≠ .gated) (g : Fin 4) : ¬ln.gatedOn g = true :=
  fun hg => h (Lane.gatedOn_iff.mp hg).1

/-- A lane that leaves its arrival set, whatever becomes of it. -/
theorem State.ArrivalsOk.of_leaves {s t : State} (ha : s.ArrivalsOk) (l : Fin 4) (hgates : ∀ g, t.gate g = (s.gate g).without l)
    (hlane : ∀ k, k ≠ l → t.lane k = s.lane k) : t.ArrivalsOk :=
  ha.of_lanes fun g k hk => by
    rw [hgates, Gate.without_arrivals, Bool.and_eq_true, bne_iff_ne] at hk
    exact ⟨hk.1, hlane k hk.2⟩

theorem Minor.arrivalsOk {s t : State} (h : Minor s t) (ha : s.ArrivalsOk) : t.ArrivalsOk := by
  unfold State.ArrivalsOk State.gate State.lane at *
  rwa [h.gates, h.lanes]

/-- A fold over the lanes keeps what each lane's turn keeps. -/
theorem State.foldl_keeps {α : Type} {f : State → α → State} {P : State → Prop} (hf : ∀ s a, P s → P (f s a)) :
    ∀ (as : List α) (s : State), P s → P (as.foldl f s)
  | [], _, h => h
  | a :: as, s, h => State.foldl_keeps hf as (f s a) (hf s a h)

theorem State.disableLane_arrivalsOk {s : State} {l : Fin 4} (ha : s.ArrivalsOk) : (s.disableLane l).ArrivalsOk := by
  by_cases h : (s.lane l).state = .unbound
  · rwa [State.disableLane, if_pos h]
  · exact ha.of_leaves l (fun g => by rw [State.disableLane_gate, if_neg h])
      fun k hk => by rw [State.disableLane_lane, if_neg fun j => hk j.1]

theorem State.laneTrip_gate (s : State) (l : Fin 4) (c : Fin 6) (offset : Nat) (g : Fin 4) : (s.laneTrip l c offset).gate g =
    if (s.lane l).state = .gated then (s.gate g).without l else s.gate g := by
  have hgate (u : State) (hm : Minor (s.trippedLane l c offset) u) :
      u.gate g = if (s.lane l).state = .gated then (s.gate g).without l else s.gate g :=
    (congrArg (·[g]) hm.gates : u.gate g = (s.trippedLane l c offset).gate g).trans (s.trippedLane_gate l c offset g)
  rw [State.laneTrip_eq]
  split
  · next h =>
    rw [if_neg]
    intro hg
    rw [hg] at h
    rcases h with h | h <;> cases h
  · split
    · exact hgate _ (.laneFault _ l)
    · exact hgate _ (.refl _)

theorem State.laneTrip_arrivalsOk {s : State} {l : Fin 4} {c : Fin 6} {offset : Nat} (ha : s.ArrivalsOk) :
    (s.laneTrip l c offset).ArrivalsOk := by
  have hlane (k : Fin 4) (hk : k ≠ l) : (s.laneTrip l c offset).lane k = s.lane k := by
    rw [State.laneTrip_lane, if_neg fun h => hk h.1]
  by_cases hg : (s.lane l).state = .gated
  · exact ha.of_leaves l (fun g => by rw [State.laneTrip_gate, if_pos hg]) hlane
  · refine ha.of_gatedOn fun g k hk => ?_
    rw [State.laneTrip_gate, if_neg hg] at hk
    refine ⟨hk, fun h => ?_⟩
    by_cases hkl : k = l
    · exact absurd (hkl ▸ h) (Lane.gatedOn_of_not_gated hg g)
    · rwa [hlane k hkl]

/-! ### The expiry of a gate's wait timer (R65) -/

theorem State.gateTimeoutLane_none {s : State} {g l : Fin 4} (h : (s.lane l).queue = []) : s.gateTimeoutLane g l = s := by
  rw [State.gateTimeoutLane, h]

theorem State.gateTimeoutLane_lane_ne (s : State) (g : Fin 4) {l k : Fin 4} (hk : k ≠ l) : (s.gateTimeoutLane g l).lane k = s.lane k := by
  cases h : (s.lane l).queue with
  | nil => rw [State.gateTimeoutLane_none h]
  | cons x rest => rw [State.gateTimeoutLane_lane h, if_neg hk]

theorem State.gateTimeoutLane_gates (s : State) (g l : Fin 4) : (s.gateTimeoutLane g l).gates = s.gates := by
  cases h : (s.lane l).queue with
  | nil => rw [State.gateTimeoutLane_none h]
  | cons x rest =>
    obtain ⟨la, sl, sq, hf⟩ := State.gateTimeoutLane_frame (g := g) h
    rw [hf]

/-- The turn of a lane at the expiry of a gate's wait timer. -/
def State.timeoutTurn (g : Fin 4) (set : LaneSet) (s : State) (l : Fin 4) : State :=
  if set.getLsbD l.val then s.gateTimeoutLane g l else s

theorem State.timeoutTurn_lane_ne (g : Fin 4) (set : LaneSet) (s : State) (l k : Fin 4) (hk : k ≠ l) :
    (s.timeoutTurn g set l).lane k = s.lane k := by
  unfold State.timeoutTurn
  split
  · exact s.gateTimeoutLane_lane_ne g hk
  · rfl

theorem State.timeoutLanes_turn (s : State) (g : Fin 4) (set : LaneSet) (l : Fin 4) :
    ∃ u : State, u.lane l = s.lane l ∧ (s.timeoutLanes g set).lane l = (u.timeoutTurn g set l).lane l := by
  obtain ⟨u, -, hul, hend⟩ := State.foldl_lane (R := fun _ _ => True) (f := State.timeoutTurn g set) (fun _ => trivial)
    (fun _ _ => trivial) (fun _ _ => trivial) (State.timeoutTurn_lane_ne g set) allLanes s l (by decide) (mem_allLanes l)
  exact ⟨u, hul, hend⟩

/-- What the expiry makes of a lane that had arrived. -/
theorem State.timeoutLanes_lane_in {s : State} {g : Fin 4} {set : LaneSet} {l : Fin 4} {x : Segment} {rest : List Segment}
    (hl : set.getLsbD l.val = true) (hq : (s.lane l).queue = x :: rest) :
    (s.timeoutLanes g set).lane l = (s.lane l).timedOut rest (neverStarted x.origin .gateTimeout (some l) (g.val + 1)) := by
  obtain ⟨u, hul, hend⟩ := s.timeoutLanes_turn g set l
  rw [hend, State.timeoutTurn, if_pos hl, State.gateTimeoutLane_lane (hul ▸ hq), if_pos rfl, hul]

theorem State.timeoutLanes_lane_out {s : State} {g : Fin 4} {set : LaneSet} {l : Fin 4} (hl : set.getLsbD l.val = false) :
    (s.timeoutLanes g set).lane l = s.lane l := by
  obtain ⟨u, hul, hend⟩ := s.timeoutLanes_turn g set l
  rw [hend, State.timeoutTurn, hl, if_neg Bool.false_ne_true, hul]

theorem State.timeoutLanes_gates (s : State) (g : Fin 4) (set : LaneSet) : (s.timeoutLanes g set).gates = s.gates :=
  State.foldl_keeps (P := fun t => t.gates = s.gates) (f := State.timeoutTurn g set) (fun t l h => by
    unfold State.timeoutTurn
    split
    · exact (t.gateTimeoutLane_gates g l).trans h
    · exact h) allLanes s rfl

/-- The gate that a lane's head carries is the only one that it can have arrived at. -/
theorem State.ArrivalsOk.unique {s : State} (ha : s.ArrivalsOk) {g g' l : Fin 4} (h : (s.gate g).arrivals.getLsbD l.val = true)
    (h' : (s.gate g').arrivals.getLsbD l.val = true) : g = g' := by
  obtain ⟨-, x, xs, hx, hg⟩ := Lane.gatedOn_iff.mp (ha g l h)
  obtain ⟨-, y, ys, hy, hg'⟩ := Lane.gatedOn_iff.mp (ha g' l h')
  obtain ⟨rfl, -⟩ : x = y ∧ xs = ys := by simpa [hx] using hy
  exact Option.some.inj (hg.symm.trans hg')

theorem State.gateTimeout_arrivalsOk {s : State} {g : Fin 4} (ha : s.ArrivalsOk) : (s.gateTimeout g).ArrivalsOk := by
  rw [State.gateTimeout_eq]
  split
  · refine ha.of_lanes fun x k hk => ?_
    have hgate : (State.timeoutLanes (s.updGate g fun x => { x with arrivals := 0, waitTimer := none }) g (s.gate g).arrivals).gate x =
        if x = g then { s.gate g with arrivals := 0, waitTimer := none } else s.gate x :=
      (congrArg (·[x]) (State.timeoutLanes_gates _ g _)).trans (s.updGate_gate g _ x)
    rw [hgate] at hk
    split at hk
    · simp at hk
    · next hx =>
      refine ⟨hk, State.timeoutLanes_lane_out ?_⟩
      by_contra h
      exact hx (ha.unique hk (Bool.not_eq_false _ ▸ h))
  · exact ha

/-! ### The moves keep the arrival sets -/

/-- A segment that joins a queue leaves the head of a queue that has one. -/
theorem State.joined_arrivalsOk {s : State} {l : Fin 4} {g : Segment} (ha : s.ArrivalsOk) :
    ((s.holdSlot g).updLane l (Lane.joined · g)).ArrivalsOk := by
  obtain ⟨v, hv⟩ := s.holdSlot_frame g
  refine ha.of_lane l (by rw [hv]; rfl) (fun k hk => by rw [State.joined_lane, if_neg hk]) fun x hx => ?_
  obtain ⟨hs, y, ys, hy, hg⟩ := Lane.gatedOn_iff.mp hx
  rw [State.joined_lane, if_pos rfl]
  exact Lane.gatedOn_iff.mpr ⟨hs, y, ys ++ [g], congrArg (· ++ [g]) hy, hg⟩

theorem Lane.no_work {ln : Lane} (h : ln.hasWork = false) :
    (∀ r, ln.state ≠ .running r) ∧ ln.state ≠ .gated ∧ ln.queue = [] ∧ ln.outbox = [] := by
  simp only [Lane.hasWork, Bool.or_eq_false_iff, beq_eq_false_iff_ne, Bool.not_eq_false', List.isEmpty_iff] at h
  obtain ⟨⟨⟨hr, hg⟩, hq⟩, ho⟩ := h
  refine ⟨fun r hs => ?_, hg, hq, ho⟩
  rw [Lane.isRunning, hs] at hr
  cases hr

theorem State.slot_of_reset {t : State} (h : t.slots = State.reset.slots) (n : Fin 16) : (t.slot n).useCount = 0 := by
  rw [State.slot, h]
  revert n
  decide

theorem State.gate_of_reset {t : State} (h : t.gates = State.reset.gates) (g : Fin 4) : (t.gate g).arrivals = 0 := by
  rw [State.gate, h]
  revert g
  decide

theorem Move.keeps_arrivalsOk {s t : State} (m : Move s t) (ha : s.ArrivalsOk) : t.ArrivalsOk := by
  cases m with
  | minor k => exact k.arrivalsOk ha
  | start l => exact (State.startTest_startsOnly ha l).arrivals
  | ended l r st h =>
    refine ha.of_lane l (s.ended_gates l r st) (fun k hk => by rw [State.ended_lane, if_neg hk]) fun g hg => ?_
    exact absurd hg (Lane.gatedOn_of_not_gated (h ▸ LaneState.noConfusion) g)
  | phase l r n p period h =>
    refine ha.of_lane l rfl (fun k hk => s.updLane_lane_ne l (fun ln => { ln with state := .running n }) k hk) fun g hg => ?_
    exact absurd hg (Lane.gatedOn_of_not_gated (h ▸ LaneState.noConfusion) g)
  | holdOver l h =>
    refine ha.of_lane l rfl (fun k hk => State.updLane_lane_ne (h := hk) ..) fun g hg => ?_
    exact absurd hg (Lane.gatedOn_of_not_gated (h ▸ LaneState.noConfusion) g)
  | gatedHoldOver l =>
    refine ha.of_lane l rfl (fun k hk => State.updLane_lane_ne (h := hk) ..) fun g hg => ?_
    rw [State.updLane_lane_self]
    exact hg
  | gateTimeout g => exact State.gateTimeout_arrivalsOk ha
  | halted l o offset n =>
    refine ha.of_leaves l (s.flushLane_gate l .aborted offset) fun k hk => ?_
    rw [State.addOutbox, State.updLane_lane_ne (h := hk), State.flushLane_lane, if_neg hk]
  | permitLoss p => exact State.foldl_keeps (P := State.ArrivalsOk) (fun _ _ => State.disableLane_arrivalsOk) allLanes _ ha
  | queued l g =>
    exact State.joined_arrivalsOk ha
  | disabledAtOnce l c =>
    refine ha.of_lane l rfl (fun k hk => State.updLane_lane_ne (h := hk) ..) fun g hg => ?_
    rw [State.addOutbox, State.updLane_lane_self]
    exact hg
  | trip d c offset =>
    refine State.foldl_keeps (P := State.ArrivalsOk) (fun s l h => ?_) allLanes _ ha
    split
    · exact State.laneTrip_arrivalsOk h
    · exact h
  | released l h =>
    refine ha.of_lane l rfl (fun k hk => State.updLane_lane_ne (h := hk) ..) fun g hg => ?_
    exact absurd hg (Lane.gatedOn_of_not_gated (h ▸ LaneState.noConfusion) g)
  | bound l set limit hu ho =>
    refine ha.of_lane l rfl (fun k hk => s.bindLane_lane_ne l set limit hk) fun g hg => ?_
    exact absurd hg (Lane.gatedOn_of_not_gated (hu ▸ LaneState.noConfusion) g)
  | unbound l offset hw =>
    refine ha.of_lane l rfl (fun k hk => by rw [State.unbindLane_lane, if_neg hk]) fun g hg => ?_
    exact absurd hg (Lane.gatedOn_of_not_gated (Lane.no_work hw).2.1 g)
  | outboxTaken l c rest =>
    refine ha.of_lane l rfl (fun k hk => State.updLane_lane_ne (h := hk) ..) fun g hg => ?_
    rw [State.updLane_lane_self]
    exact hg
  | gateSet g set timeout =>
    refine ha.of_gatedOn fun x k hk => ⟨?_, fun h => h⟩
    rw [State.updGate_gate] at hk
    split at hk
    · next hx => exact hx ▸ hk
    · exact hk
  | advance =>
    refine ha.of_gatedOn fun g k hk => ?_
    rw [State.advance_gate] at hk
    rw [State.advance_lane]
    exact ⟨hk, fun h => (Lane.gatedOn_advance ..).trans h⟩
  | observe p =>
    refine ha.of_gatedOn fun g k hk => ⟨hk, ?_⟩
    rw [State.observe_lane]
    exact fun h => (Lane.gatedOn_sample ..).trans h
  | reset _ _ _ _ hg =>
    intro g k hk
    rw [State.gate_of_reset hg] at hk
    simp at hk
  | _ => exact ha

/-! ### Use counts (R50) -/

/-- Each slot's use count is the number of segments that reference it. -/
def State.CountsOk (s : State) : Prop := ∀ n : Fin 16, (s.slot n).useCount = s.usesOf n

theorem State.useCountsOk_iff {s : State} : s.UseCountsOk ↔ s.CountsOk ∧ s.ArrivalsOk := Iff.rfl

theorem State.usesOf_of_lane {s t : State} (l : Fin 4) (hlane : ∀ k, k ≠ l → t.lane k = s.lane k) (n : Fin 16) :
    t.usesOf n + (s.lane l).segments.countP (·.uses n) = s.usesOf n + (t.lane l).segments.countP (·.uses n) := by
  have hsum (u : State) : u.usesOf n = (u.lane 0).segments.countP (·.uses n) + ((u.lane 1).segments.countP (·.uses n) +
      ((u.lane 2).segments.countP (·.uses n) + (u.lane 3).segments.countP (·.uses n))) := rfl
  rw [hsum, hsum]
  match l with
  | 0 => rw [hlane 1 (by decide), hlane 2 (by decide), hlane 3 (by decide)]; omega
  | 1 => rw [hlane 0 (by decide), hlane 2 (by decide), hlane 3 (by decide)]; omega
  | 2 => rw [hlane 0 (by decide), hlane 1 (by decide), hlane 3 (by decide)]; omega
  | 3 => rw [hlane 0 (by decide), hlane 1 (by decide), hlane 2 (by decide)]; omega

/-- A lane gives up segments, and with them their slots. -/
theorem State.CountsOk.gives {s t : State} (h : s.CountsOk) (l : Fin 4) (gs : List Segment)
    (hlane : ∀ k, k ≠ l → t.lane k = s.lane k)
    (hslot : ∀ n, (t.slot n).useCount = (s.slot n).useCount - gs.countP (·.uses n))
    (hseg : ∀ n, (s.lane l).segments.countP (·.uses n) = (t.lane l).segments.countP (·.uses n) + gs.countP (·.uses n)) :
    t.CountsOk := by
  intro n
  have := State.usesOf_of_lane l hlane n
  have := hseg n
  rw [hslot, h]
  omega

/-- Every lane keeps its segments, and every slot its count. -/
theorem State.CountsOk.same {s t : State} (h : s.CountsOk) (hseg : ∀ l, (t.lane l).segments = (s.lane l).segments)
    (hslot : ∀ n, (t.slot n).useCount = (s.slot n).useCount) : t.CountsOk := fun n => by
  rw [hslot, h]
  unfold State.usesOf
  simp only [hseg]

/-- One lane changes and keeps its segments. -/
theorem State.CountsOk.of_lane {s t : State} (h : s.CountsOk) (l : Fin 4) (hlane : ∀ k, k ≠ l → t.lane k = s.lane k)
    (hslot : t.slots = s.slots) (hseg : (t.lane l).segments = (s.lane l).segments) : t.CountsOk :=
  h.same (fun k => by
    by_cases hk : k = l
    · exact hk ▸ hseg
    · rw [hlane k hk]) fun n => congrArg (fun v => (v[n] : Slot).useCount) hslot

theorem Minor.countsOk {s t : State} (h : Minor s t) (hc : s.CountsOk) : t.CountsOk :=
  hc.same (fun l => congrArg (fun v => (v[l] : Lane).segments) h.lanes) fun n => congrArg (fun v => (v[n] : Slot).useCount) h.slots

theorem State.flushLane_countsOk {s : State} {l : Fin 4} {st : Status} {offset : Nat} (h : s.CountsOk) :
    (s.flushLane l st offset).CountsOk :=
  h.gives l (s.lane l).segments (fun k hk => by rw [State.flushLane_lane, if_neg hk]) (fun n => by rw [State.flushLane_slot])
    fun n => by rw [State.flushLane_lane, if_pos rfl, Lane.flushed_segments, List.countP_nil, Nat.zero_add]

theorem State.disableLane_countsOk {s : State} {l : Fin 4} (h : s.CountsOk) : (s.disableLane l).CountsOk := by
  by_cases hu : (s.lane l).state = .unbound
  · rwa [State.disableLane, if_pos hu]
  · obtain ⟨u, hm, he⟩ := State.disableLane_minor hu
    rw [he]
    exact hm.countsOk (State.flushLane_countsOk h)

theorem Lane.tripped_segments (ln : Lane) (cs : List Completion) : (ln.tripped cs).segments = ln.queue :=
  Lane.segments_of_not_running fun _ => LaneState.noConfusion

theorem Lane.segments_eq (ln : Lane) : ln.segments = ln.runningSegments ++ ln.queue := by
  unfold Lane.segments Lane.runningSegments
  cases ln.state <;> rfl

theorem State.trippedLane_countsOk {s : State} {l : Fin 4} {c : Fin 6} {offset : Nat} (h : s.CountsOk) :
    (s.trippedLane l c offset).CountsOk :=
  h.gives l (s.lane l).runningSegments (fun k hk => by rw [State.trippedLane_lane, if_neg hk]) (fun n => by rw [State.trippedLane_slot])
    fun n => by
      rw [State.trippedLane_lane, if_pos rfl, Lane.tripped_segments, Lane.segments_eq, List.countP_append, Nat.add_comm]

theorem State.laneTrip_countsOk {s : State} {l : Fin 4} {c : Fin 6} {offset : Nat} (h : s.CountsOk) :
    (s.laneTrip l c offset).CountsOk := by
  rw [State.laneTrip_eq]
  split
  · exact h
  · split
    · exact (Minor.laneFault _ l).countsOk (State.trippedLane_countsOk h)
    · exact State.trippedLane_countsOk h

theorem State.gateTimeoutLane_countsOk {s : State} {g l : Fin 4} (hg : (s.lane l).state = .gated) (h : s.CountsOk) :
    (s.gateTimeoutLane g l).CountsOk := by
  cases hq : (s.lane l).queue with
  | nil => rwa [State.gateTimeoutLane_none hq]
  | cons x rest =>
    refine h.gives l [x] (fun k hk => s.gateTimeoutLane_lane_ne g hk) (fun n => ?_) fun n => ?_
    · rw [State.gateTimeoutLane_slot hq, List.countP_singleton]
      dsimp only
      split <;> rfl
    · rw [State.gateTimeoutLane_lane hq, if_pos rfl, Lane.segments_of_not_running (hg ▸ fun _ => LaneState.noConfusion), hq,
        Lane.segments_of_not_running fun r => (s.lane l).resume.state_not_running r]
      exact List.countP_append (l₁ := [x]) ▸ Nat.add_comm _ _

/-- The lanes that have arrived, one after another: each is still GATED at its turn. -/
theorem State.timeoutTurns_countsOk {g : Fin 4} {set : LaneSet} : ∀ (ls : List (Fin 4)) (s : State), ls.Nodup →
    (∀ l ∈ ls, set.getLsbD l.val = true → (s.lane l).state = .gated) → s.CountsOk → (ls.foldl (State.timeoutTurn g set) s).CountsOk
  | [], _, _, _, h => h
  | l :: ls, s, hnd, hg, h => by
    obtain ⟨hl, hnd⟩ := List.nodup_cons.mp hnd
    refine State.timeoutTurns_countsOk ls (s.timeoutTurn g set l) hnd (fun k hk hset => ?_) ?_
    · rw [State.timeoutTurn_lane_ne]
      · exact hg k (.tail l hk) hset
      · rintro rfl
        exact hl hk
    · unfold State.timeoutTurn
      split
      · exact State.gateTimeoutLane_countsOk (hg l (.head ls) ‹_›) h
      · exact h

theorem State.gateTimeout_countsOk {s : State} {g : Fin 4} (ha : s.ArrivalsOk) (h : s.CountsOk) : (s.gateTimeout g).CountsOk := by
  rw [State.gateTimeout_eq]
  split
  · exact State.timeoutTurns_countsOk allLanes _ (by decide) (fun l _ hl => (Lane.gatedOn_iff.mp (ha g l hl)).1) h
  · exact h

/-- A segment that joins a queue holds its slot in use (R25, R50). -/
theorem State.joined_countsOk {s : State} {l : Fin 4} {g : Segment} (h : s.CountsOk) :
    ((s.holdSlot g).updLane l (Lane.joined · g)).CountsOk := by
  intro n
  have hsum := State.usesOf_of_lane (s := s) (t := (s.holdSlot g).updLane l (Lane.joined · g)) l
    (fun k hk => by rw [State.joined_lane, if_neg hk]) n
  rw [State.joined_lane, if_pos rfl, Lane.joined_segments, List.countP_append, List.countP_singleton] at hsum
  have hcount : (((s.holdSlot g).updLane l (Lane.joined · g)).slot n).useCount = (s.slot n).useCount + if g.uses n then 1 else 0 := by
    rw [State.updLane_slot, State.holdSlot_slot]
    dsimp only
    split <;> rfl
  rw [hcount, h n]
  omega

theorem Move.keeps_countsOk {s t : State} (m : Move s t) (ha : s.ArrivalsOk) (h : s.CountsOk) : t.CountsOk := by
  cases m with
  | minor k => exact k.countsOk h
  | start l =>
    have hs := State.startTest_startsOnly ha l
    exact h.same (fun k => (hs.lane k).segments) fun n => congrArg (fun v => (v[n] : Slot).useCount) hs.slots
  | ended l r st hr =>
    refine h.gives l [r.seg] (fun k hk => by rw [State.ended_lane, if_neg hk]) (fun n => ?_) fun n => ?_
    · rw [State.ended_slot, List.countP_singleton]
      dsimp only
      split <;> rfl
    · rw [State.ended_lane, if_pos rfl, Lane.segments_of_running hr, Lane.segments_of_not_running fun x => r.seg.endAction.nextState_not_running x]
      exact List.countP_append (l₁ := [r.seg]) ▸ Nat.add_comm _ _
  | phase l r n p period hr hn =>
    refine h.of_lane l (fun k hk => s.updLane_lane_ne l (fun ln => { ln with state := .running n }) k hk) rfl ?_
    have hl := s.updLane_lane_self l fun ln => { ln with state := .running n }
    rw [Lane.segments_of_running hr, ← hn]
    exact Lane.segments_of_running (congrArg Lane.state hl) ▸ congrArg (n.seg :: ·.queue) hl
  | holdOver l hs =>
    refine h.of_lane l (fun k hk => State.updLane_lane_ne (h := hk) ..) rfl ?_
    rw [State.updLane_lane_self, Lane.segments_of_not_running fun _ => LaneState.noConfusion,
      Lane.segments_of_not_running (hs ▸ fun _ => LaneState.noConfusion)]
    rfl
  | gatedHoldOver l =>
    refine h.of_lane l (fun k hk => State.updLane_lane_ne (h := hk) ..) rfl ?_
    rw [State.updLane_lane_self]
    rfl
  | gateTimeout g => exact State.gateTimeout_countsOk ha h
  | halted l o offset n =>
    refine (State.flushLane_countsOk h).of_lane l (fun k hk => State.updLane_lane_ne (h := hk) ..) rfl ?_
    rw [State.addOutbox, State.updLane_lane_self]
    rfl
  | permitLoss p => exact State.foldl_keeps (P := State.CountsOk) (fun _ _ => State.disableLane_countsOk) allLanes _ h
  | queued l g hb => exact State.joined_countsOk h
  | disabledAtOnce l c =>
    refine h.of_lane l (fun k hk => State.updLane_lane_ne (h := hk) ..) rfl ?_
    rw [State.addOutbox, State.updLane_lane_self]
    rfl
  | trip d c offset =>
    refine State.foldl_keeps (P := State.CountsOk) (fun s l h => ?_) allLanes _ h
    split
    · exact State.laneTrip_countsOk h
    · exact h
  | released l hs =>
    refine h.of_lane l (fun k hk => State.updLane_lane_ne (h := hk) ..) rfl ?_
    rw [State.updLane_lane_self, Lane.segments_of_not_running fun _ => LaneState.noConfusion,
      Lane.segments_of_not_running (hs ▸ fun _ => LaneState.noConfusion)]
  | bound l set limit hu ho =>
    refine h.of_lane l (fun k hk => s.bindLane_lane_ne l set limit hk) rfl ?_
    rw [State.bindLane_lane_self, Lane.segments_of_not_running (ln := s.lane l) (hu ▸ fun _ => LaneState.noConfusion),
      Lane.segments_of_not_running fun r => by split <;> exact LaneState.noConfusion]
  | unbound l offset hw =>
    refine h.of_lane l (fun k hk => by rw [State.unbindLane_lane, if_neg hk]) rfl ?_
    rw [State.unbindLane_lane, if_pos rfl, Lane.segments_of_not_running (Lane.no_work hw).1,
      Lane.segments_of_not_running fun _ => LaneState.noConfusion]
  | outboxTaken l c rest =>
    refine h.of_lane l (fun k hk => State.updLane_lane_ne (h := hk) ..) rfl ?_
    rw [State.updLane_lane_self]
    rfl
  | slotLoaded n ps =>
    refine h.same (fun _ => rfl) fun m => ?_
    rw [State.updSlot_slot]
    split
    · next hm => rw [hm]
    · rfl
  | advance =>
    refine h.same (fun l => ?_) fun _ => rfl
    rw [State.advance_lane, Lane.segments_advance]
  | observe p =>
    refine h.same (fun l => ?_) fun _ => rfl
    rw [State.observe_lane, Lane.segments_sample]
  | reset _ _ hl hs =>
    intro n
    unfold State.usesOf
    simp only [State.slot_of_reset hs, State.lane_of_reset hl]
    rfl
  | _ => exact h

theorem Move.keeps_useCountsOk {s t : State} (m : Move s t) (h : s.UseCountsOk) : t.UseCountsOk :=
  ⟨m.keeps_countsOk h.2 h.1, m.keeps_arrivalsOk h.2⟩

/-- Settles O56: what a lane gives up it gives up with its slot, and a lane whose gate times out is still GATED at its turn. -/
theorem stepKeepsUseCounts : Obligations.StepKeepsUseCounts :=
  fun _ _ => step_keeps (fun _ _ h => h) Move.keeps_useCountsOk

/-! ### Permission to run (R13, R61) -/

theorem Lane.atWork_iff {ln : Lane} : ln.atWork = true ↔ (∃ r, ln.state = .running r) ∨ ln.state = .gated := by
  unfold Lane.atWork Lane.isRunning
  cases ln.state <;> simp

theorem State.domainsArmed_iff_meets {s : State} {l : Fin 4} :
    s.domainsArmed l = true ↔ ∀ d : Fin 3, s.meetsDomain l d = true → (s.domain d).state = .armed := by
  rw [State.domainsArmed_iff]
  simp only [State.meetsDomain, bne_iff_ne, not_exists, not_and, not_not]

theorem Lane.atWork_eq_false {ln : Lane} (hr : ∀ r, ln.state ≠ .running r) (hg : ln.state ≠ .gated) : ln.atWork = false := by
  rw [Lane.atWork, Lane.isRunning_eq_false hr, Bool.false_or]
  exact beq_eq_false_iff_ne.mpr hg

/-- Permission depends on the permit, the domains and the lanes' channels. -/
theorem State.PermittedOk.of {s t : State} (h : s.PermittedOk)
    (hw : ∀ l, (t.lane l).atWork = true → (s.lane l).atWork = true)
    (hk : ∀ l, (t.lane l).atWork = true → s.permitOn = true → s.domainsArmed l = true → t.permitOn = true ∧ t.domainsArmed l = true) :
    t.PermittedOk := fun l hl => hk l hl (h l (hw l hl)).1 (h l (hw l hl)).2

theorem LaneStep.keeps_permittedOk {s t : State} (k : LaneStep s t) (h : s.PermittedOk)
    (hw : ∀ l, (t.lane l).atWork = true → (s.lane l).atWork = true) : t.PermittedOk :=
  h.of hw fun l _ hp hd => ⟨k.permitOn.trans hp, (k.domainsArmed l).trans hd⟩

theorem Lane.atWork_advance (ln : Lane) (t : Option Nat) : Lane.atWork { ln with state := ln.state.advance, holdTimer := t } = ln.atWork := by
  unfold Lane.atWork Lane.isRunning
  cases ln.state <;> rfl

theorem Lane.atWork_sample (ln : Lane) (v : Vector Int 6) (set : ChannelSet) :
    Lane.atWork { ln with state := ln.state.sample v set } = ln.atWork := by
  unfold Lane.atWork Lane.isRunning
  cases ln.state <;> rfl

/-- One lane is left that is neither RUNNING nor GATED, or as it was. -/
theorem State.atWork_of_lane {s t : State} (l : Fin 4) (hlane : ∀ k, k ≠ l → t.lane k = s.lane k)
    (hl : (t.lane l).atWork = true → (s.lane l).atWork = true) (k : Fin 4) (h : (t.lane k).atWork = true) : (s.lane k).atWork = true := by
  by_cases hk : k = l
  · exact hk ▸ hl (hk ▸ h)
  · rwa [hlane k hk] at h

theorem Lane.tripped_atWork (ln : Lane) (cs : List Completion) : (ln.tripped cs).atWork = false := rfl

theorem Lane.working_of_atWork {ln : Lane} (h : ln.atWork = true) : ln.state ≠ .unbound := fun hu => by
  rcases Lane.atWork_iff.mp h with ⟨r, hr⟩ | hg
  · rw [hr] at hu
    cases hu
  · rw [hg] at hu
    cases hu

/-- A trip leaves no lane that meets its domain RUNNING or GATED, and the other domains as they were (R77, R78). -/
theorem State.trip_permittedOk {s : State} (h : s.PermittedOk) (d : Fin 3) (c : Fin 6) (offset : Nat) :
    (((s.updDomain d Domain.trip).setOff (s.domain d).members offset).tripLanes d c offset).PermittedOk := by
  have hstep := LaneStep.tripLanes ((s.updDomain d Domain.trip).setOff (s.domain d).members offset) d c offset
  have hmembers : ((s.updDomain d Domain.trip).domain d).members = (s.domain d).members := by
    rw [State.updDomain_domain_self]
    rfl
  have hmeets (l : Fin 4) (e : Fin 3) : ((s.updDomain d Domain.trip).setOff (s.domain d).members offset).meetsDomain l e = s.meetsDomain l e := by
    have hm : ((s.updDomain d Domain.trip).domain e).members = (s.domain e).members := by
      by_cases he : e = d
      · exact he ▸ hmembers
      · rw [State.updDomain_domain_ne (h := he)]
    change ((s.lane l).owned &&& ((s.updDomain d Domain.trip).domain e).members != 0) = _
    rw [hm]
    rfl
  intro l hl
  rw [State.tripLanes_lane] at hl
  split at hl
  · rw [Lane.tripped_atWork] at hl
    cases hl
  · next hn =>
    have hmd : s.meetsDomain l d = false := by
      rw [hmeets] at hn
      by_contra hm
      exact hn ⟨Bool.not_eq_false _ ▸ hm, Lane.working_of_atWork hl⟩
    obtain ⟨hp, hd⟩ := h l hl
    refine ⟨hstep.permitOn.trans hp, (hstep.domainsArmed l).trans ?_⟩
    rw [State.domainsArmed_iff_meets] at hd ⊢
    intro e he
    rw [hmeets] at he
    have hed : e ≠ d := fun hed => by
      rw [hed, hmd] at he
      cases he
    change ((s.updDomain d Domain.trip).domain e).state = .armed
    rw [State.updDomain_domain_ne (h := hed)]
    exact hd e he

theorem State.startTest_permittedOk {s : State} (ha : s.ArrivalsOk) (h : s.PermittedOk) (l : Fin 4) : (s.startTest l).PermittedOk := by
  have hs := State.startTest_startsOnly ha l
  have hstep := LaneStep.startTest s l
  intro k hk
  rw [hstep.permitOn, hstep.domainsArmed]
  by_cases hsame : (s.startTest l).lane k = s.lane k
  · exact h k (hsame ▸ hk)
  · rcases hs.allowed k hsame with hg | ⟨rfl, hm⟩
    · exact h k (Lane.atWork_iff.mpr (.inr hg))
    · exact (State.mayStart_iff.mp hm).2.2

theorem State.gateTimeout_permittedOk {s : State} {g : Fin 4} (h : s.PermittedOk) : (s.gateTimeout g).PermittedOk := by
  refine (LaneStep.gateTimeout s g).keeps_permittedOk h fun l hl => ?_
  rw [State.gateTimeout_eq] at hl
  split at hl
  · by_cases hset : (s.gate g).arrivals.getLsbD l.val = true
    · cases hq : (s.lane l).queue with
      | nil =>
        obtain ⟨u, hul, hend⟩ := State.timeoutLanes_turn (s.updGate g fun x => { x with arrivals := 0, waitTimer := none }) g (s.gate g).arrivals l
        rw [hend, State.timeoutTurn, if_pos hset, State.gateTimeoutLane_none ((congrArg Lane.queue hul).trans hq), hul] at hl
        exact hl
      | cons x rest =>
        rw [State.timeoutLanes_lane_in (s := s.updGate g fun x => { x with arrivals := 0, waitTimer := none }) hset hq,
          Lane.atWork_eq_false (fun r => (s.lane l).resume.state_not_running r) (s.lane l).resume.state_not_gated] at hl
        cases hl
    · rw [State.timeoutLanes_lane_out (Bool.not_eq_true _ ▸ hset)] at hl
      exact hl
  · exact hl

theorem Move.keeps_permittedOk {s t : State} (m : Move s t) (ha : s.ArrivalsOk) (h : s.PermittedOk) : t.PermittedOk := by
  cases m with
  | minor k =>
    unfold State.PermittedOk State.domainsArmed State.meetsDomain State.permitOn State.lane State.domain at *
    rwa [k.lanes, k.domains, k.permit]
  | start l => exact State.startTest_permittedOk ha h l
  | ended l r st =>
    refine (LaneStep.ended s l r st).keeps_permittedOk h (State.atWork_of_lane l (fun k hk => by rw [State.ended_lane, if_neg hk]) fun hl => ?_)
    rw [State.ended_lane, if_pos rfl,
      Lane.atWork_eq_false (fun x => r.seg.endAction.nextState_not_running x) r.seg.endAction.nextState_not_gated] at hl
    cases hl
  | phase l r n p period hr =>
    exact (LaneStep.phase s l n p period).keeps_permittedOk h
      (State.atWork_of_lane l (fun k hk => s.updLane_lane_ne l (fun ln => { ln with state := .running n }) k hk)
        fun _ => Lane.atWork_iff.mpr (.inl ⟨r, hr⟩))
  | holdOver l =>
    refine (LaneStep.holdOver s l).keeps_permittedOk h
      (State.atWork_of_lane l (fun k hk => State.updLane_lane_ne (h := hk) ..) fun hl => ?_)
    rw [State.updLane_lane_self] at hl
    cases hl
  | gatedHoldOver l =>
    refine (LaneStep.gatedHoldOver s l).keeps_permittedOk h
      (State.atWork_of_lane l (fun k hk => State.updLane_lane_ne (h := hk) ..) fun hl => ?_)
    rw [State.updLane_lane_self] at hl
    exact hl
  | gateTimeout g => exact State.gateTimeout_permittedOk h
  | halted l o offset n =>
    refine (LaneStep.halted s l o offset n).keeps_permittedOk h (State.atWork_of_lane l (fun k hk => ?_) fun hl => ?_)
    · rw [State.addOutbox, State.updLane_lane_ne (h := hk), State.flushLane_lane, if_neg hk]
    · rw [State.addOutbox, State.updLane_lane_self, State.flushLane_lane, if_pos rfl] at hl
      rw [Lane.atWork_eq_false (fun r => (s.lane l).state.afterFlush_not_running r) (s.lane l).state.afterFlush_not_gated] at hl
      cases hl
  | permitLoss p =>
    intro l hl
    rw [State.disableLanes_lane] at hl
    split at hl
    · next hu => exact absurd hu (Lane.working_of_atWork hl)
    · exact absurd hl (Bool.eq_false_iff.mp (Lane.flushed_atWork _ _))
  | permitKept p hp => exact h.of (fun _ k => k) fun l _ hon hd => ⟨hp hon, hd⟩
  | queued l g =>
    refine (LaneStep.queued s l g).keeps_permittedOk h (State.atWork_of_lane l (fun k hk => ?_) fun hl => ?_)
    · exact (s.joined_lane l g k).trans (if_neg hk)
    · exact (congrArg Lane.atWork ((s.joined_lane l g l).trans (if_pos rfl))).symm.trans hl
  | disabledAtOnce l c =>
    refine (LaneStep.addOutbox s l [c]).keeps_permittedOk h
      (State.atWork_of_lane l (fun k hk => State.updLane_lane_ne (h := hk) ..) fun hl => ?_)
    rw [State.addOutbox, State.updLane_lane_self] at hl
    exact hl
  | trip d c offset => exact State.trip_permittedOk h d c offset
  | released l =>
    refine (LaneStep.released s l).keeps_permittedOk h
      (State.atWork_of_lane l (fun k hk => State.updLane_lane_ne (h := hk) ..) fun hl => ?_)
    rw [State.updLane_lane_self] at hl
    cases hl
  | domainsSet r =>
    refine h.of (fun _ k => k) fun l _ hon _ => ⟨hon, State.domainsArmed_iff_meets.mpr fun d _ => ?_⟩
    rw [State.mapDomains_domain]
  | domainRearmed d =>
    refine h.of (fun _ k => k) fun l _ hon hd => ⟨hon, State.domainsArmed_iff_meets.mpr fun e he => ?_⟩
    by_cases hed : e = d
    · rw [hed, State.updDomain_domain_self]
    · have hne := s.updDomain_domain_ne d (fun x => { x with state := .armed }) e hed
      rw [hne]
      exact State.domainsArmed_iff_meets.mp hd e (by rwa [State.meetsDomain, hne] at he)
  | bound l set limit hu ho =>
    have hidle : ((s.bindLane l set limit).lane l).atWork = false := by
      rw [State.bindLane_lane_self]
      exact Lane.atWork_eq_false (fun r => by dsimp only; split <;> exact LaneState.noConfusion) (by dsimp only; split <;> exact LaneState.noConfusion)
    intro k hk
    by_cases hkl : k = l
    · rw [hkl, hidle] at hk
      cases hk
    · rw [State.bindLane_lane_ne _ _ _ _ hkl] at hk
      obtain ⟨hp, hd⟩ := h k hk
      refine ⟨hp, State.domainsArmed_iff_meets.mpr fun e he => State.domainsArmed_iff_meets.mp hd e ?_⟩
      rwa [State.meetsDomain, State.bindLane_lane_ne _ _ _ _ hkl] at he
  | unbound l offset hw =>
    intro k hk
    rw [State.unbindLane_lane] at hk
    by_cases hkl : k = l
    · rw [if_pos hkl] at hk
      cases hk
    · rw [if_neg hkl] at hk
      obtain ⟨hp, hd⟩ := h k hk
      refine ⟨hp, State.domainsArmed_iff_meets.mpr fun e he => State.domainsArmed_iff_meets.mp hd e ?_⟩
      rwa [State.meetsDomain, State.unbindLane_lane, if_neg hkl] at he
  | outboxTaken l c rest =>
    have hl : State.PermittedOk ({ s with lanePointer := l }.addPending c) := h
    refine (LaneStep.updLane ({ s with lanePointer := l }.addPending c) l (fun ln => { ln with outbox := rest }) rfl fun k => k).keeps_permittedOk hl
      (State.atWork_of_lane l (fun k hk => State.updLane_lane_ne (h := hk) ..) fun hw => ?_)
    rw [State.updLane_lane_self] at hw
    exact hw
  | advance =>
    refine h.of (fun l hl => ?_) fun l _ hon hd => ⟨hon, ?_⟩
    · rw [State.advance_lane] at hl
      rwa [Lane.atWork_advance] at hl
    · refine State.domainsArmed_iff_meets.mpr fun e he => State.domainsArmed_iff_meets.mp hd e ?_
      rwa [State.meetsDomain, State.advance_lane] at he
  | observe p =>
    refine h.of (fun l hl => ?_) fun l _ hon hd => ⟨hon, ?_⟩
    · rw [State.observe_lane] at hl
      rwa [Lane.atWork_sample] at hl
    · refine State.domainsArmed_iff_meets.mpr fun e he => State.domainsArmed_iff_meets.mp hd e ?_
      rwa [State.meetsDomain, State.observe_lane] at he
  | reset _ _ hl =>
    intro l h
    rw [State.lane_of_reset hl] at h
    cases h
  | _ => exact h

theorem Move.keeps_lanesOk {s t : State} (m : Move s t) (h : s.LanesOk) : t.LanesOk :=
  ⟨m.keeps_permittedOk h.2 h.1, m.keeps_arrivalsOk h.2⟩

/-- Settles O54: the lanes that start are the one that may start and lanes GATED before, which the loss of the permit and a trip of
a domain they meet have turned away. -/
theorem stepKeepsLanesPermitted : Obligations.StepKeepsLanesPermitted :=
  fun _ _ => step_keeps (fun _ _ h => h) Move.keeps_lanesOk

/-! ### The bounds of queues and outboxes (R14, R16, R26) -/

theorem Lane.boundsOk_iff {ln : Lane} : ln.BoundsOk ↔ ln.queue.length ≤ 4 ∧ ln.halts ≤ 1 ∧
    ln.outbox.length + ln.segments.length ≤ 5 + ln.halts ∧ ∀ g ∈ ln.segments, g.origin.kind ≠ kindHalt := by
  rw [Lane.BoundsOk, Lane.segments_length, show ln.queue.length + ln.outbox.length + ln.runningCount =
    ln.outbox.length + (ln.queue.length + ln.runningCount) by omega]

theorem countP_halts_eq_zero {cs : List Completion} (h : ∀ c ∈ cs, c.origin.kind ≠ kindHalt) :
    cs.countP (fun c => c.origin.kind == kindHalt) = 0 :=
  List.countP_eq_zero.mpr fun c hc => by simpa using h c hc

/-- A lane that completes segments that it held, and takes none. -/
theorem Lane.BoundsOk.mono {a b : Lane} (h : a.BoundsOk) (cs : List Completion) (hq : b.queue.length ≤ a.queue.length)
    (ho : b.outbox = a.outbox ++ cs) (hcs : ∀ c ∈ cs, c.origin.kind ≠ kindHalt)
    (hsum : b.segments.length + cs.length ≤ a.segments.length) (hseg : ∀ g ∈ b.segments, g ∈ a.segments) : b.BoundsOk := by
  obtain ⟨h1, h2, h3, h4⟩ := Lane.boundsOk_iff.mp h
  have hhalts : b.halts = a.halts := by
    rw [Lane.halts, Lane.halts, ho, List.countP_append, countP_halts_eq_zero hcs, Nat.add_zero]
  rw [Lane.boundsOk_iff, hhalts, ho, List.length_append]
  exact ⟨hq.trans h1, h2, by omega, fun g hg => h4 g (hseg g hg)⟩

/-- A lane that keeps its queue, its outbox and its segments. -/
theorem Lane.BoundsOk.congr {a b : Lane} (h : a.BoundsOk) (hq : b.queue = a.queue) (ho : b.outbox = a.outbox)
    (hseg : b.segments = a.segments) : b.BoundsOk :=
  h.mono [] (hq ▸ le_rfl) (ho.trans (List.append_nil _).symm) (fun _ hc => absurd hc List.not_mem_nil) (hseg ▸ le_rfl) fun _ hg => hseg ▸ hg

/-- One lane changes. -/
theorem State.BoundsOk.of_lane {s t : State} (h : s.BoundsOk) (l : Fin 4) (hlane : ∀ k, k ≠ l → t.lane k = s.lane k)
    (hl : (t.lane l).BoundsOk) : t.BoundsOk := fun k => by
  by_cases hk : k = l
  · exact hk ▸ hl
  · rw [hlane k hk]
    exact h k

theorem Minor.boundsOk {s t : State} (m : Minor s t) (h : s.BoundsOk) : t.BoundsOk := fun l => by
  rw [show t.lane l = s.lane l from congrArg (·[l]) m.lanes]
  exact h l

/-- The head of the queue starts, whatever the lane does (R28). -/
theorem State.startHead_boundsOk {s : State} (h : s.BoundsOk) (l : Fin 4) : (s.startHead l).BoundsOk := by
  cases hq : (s.lane l).queue with
  | nil => rwa [State.startHead, hq]
  | cons g rest =>
    refine h.of_lane l (fun k hk => by rw [State.startHead_lane hq, if_neg hk]) ?_
    rw [State.startHead_lane hq, if_pos rfl]
    have hb : ((s.lane l).started (freshRun s g) rest).segments = (s.lane l).queue := by
      rw [hq]
      rfl
    have hlen := (s.lane l).segments_length
    refine (h l).mono [] ?_ (List.append_nil _).symm (fun _ hc => absurd hc List.not_mem_nil) ?_ fun x hx => ?_
    · rw [hq]
      exact Nat.le_succ rest.length
    · rw [hb, List.length_nil]
      omega
    · rw [hb] at hx
      rw [Lane.segments_eq]
      exact List.mem_append_right _ hx

theorem State.fireGate_boundsOk {s : State} (h : s.BoundsOk) (g : Fin 4) : (s.fireGate g).BoundsOk :=
  State.foldl_keeps (P := State.BoundsOk) (fun s l hs => by
    split
    · exact State.startHead_boundsOk hs l
    · exact hs) allLanes _ h

theorem State.arrive_boundsOk {s : State} (h : s.BoundsOk) (l g : Fin 4) : (s.arrive l g).BoundsOk := by
  unfold State.arrive
  dsimp only
  split
  · exact h
  · split
    · exact State.fireGate_boundsOk h g
    · exact h

theorem State.startTest_boundsOk {s : State} (h : s.BoundsOk) (l : Fin 4) : (s.startTest l).BoundsOk := by
  unfold State.startTest
  split
  · next hm =>
    split
    · exact h
    · split
      · exact State.startHead_boundsOk h l
      · refine State.arrive_boundsOk (h.of_lane l (fun k hk => s.gatedLane_lane_ne hk) ?_) l _
        rw [State.gatedLane_lane_self]
        refine (h l).congr rfl rfl ?_
        rw [Lane.segments_of_waits (State.waits_of_mayStart hm)]
        rfl
  · exact h

/-- The completions of a flush are none of a HALT. -/
theorem State.flushCompletions_not_halt {s : State} {l : Fin 4} (h : (s.lane l).BoundsOk) (st : Status) :
    ∀ c ∈ s.flushCompletions l st, c.origin.kind ≠ kindHalt := fun c hc => by
  have hmem : c.origin ∈ (s.lane l).segments.map (·.origin) := s.flushCompletions_origins l st ▸ List.mem_map_of_mem hc
  obtain ⟨g, hg, hgc⟩ := List.mem_map.mp hmem
  rw [← hgc]
  exact (Lane.boundsOk_iff.mp h).2.2.2 g hg

/-- A lane gives up all its work (R41, R89). -/
theorem State.flushed_boundsOk {s : State} {l : Fin 4} (h : (s.lane l).BoundsOk) (st : Status) :
    ((s.lane l).flushed (s.flushCompletions l st)).BoundsOk := by
  have hlen : (s.flushCompletions l st).length = (s.lane l).segments.length := by
    simpa using congrArg List.length (s.flushCompletions_origins l st)
  refine h.mono (s.flushCompletions l st) (Nat.zero_le _) rfl (State.flushCompletions_not_halt h st) ?_ ?_
  · rw [Lane.flushed_segments, hlen]
    simp
  · rw [Lane.flushed_segments]
    exact fun g hg => absurd hg List.not_mem_nil

/-- A flush completes no HALT. -/
theorem State.flushed_halts {s : State} {l : Fin 4} (h : (s.lane l).BoundsOk) {st : Status} (hh : (s.lane l).halts = 0) :
    ((s.lane l).flushed (s.flushCompletions l st)).halts = 0 := by
  rw [Lane.halts, Lane.flushed, List.countP_append, countP_halts_eq_zero (State.flushCompletions_not_halt h st)]
  exact hh

theorem State.disableLane_boundsOk {s : State} (h : s.BoundsOk) (l : Fin 4) : (s.disableLane l).BoundsOk := by
  refine h.of_lane l (fun k hk => by rw [State.disableLane_lane, if_neg fun j => hk j.1]) ?_
  rw [State.disableLane_lane]
  split
  · exact State.flushed_boundsOk (h l) .disabled
  · exact h l

theorem State.tripped_boundsOk {s : State} {l : Fin 4} (h : (s.lane l).BoundsOk) (c : Fin 6) :
    ((s.lane l).tripped (s.tripCompletions l c)).BoundsOk := by
  have horigins : (s.tripCompletions l c).map (·.origin) = (s.lane l).runningSegments.map (·.origin) := by
    unfold State.tripCompletions Lane.runningSegments
    cases (s.lane l).state <;> rfl
  have hlen : (s.tripCompletions l c).length = (s.lane l).runningSegments.length := by
    simpa using congrArg List.length horigins
  refine h.mono (s.tripCompletions l c) le_rfl rfl (fun x hx => ?_) ?_ ?_
  · have hmem : x.origin ∈ (s.lane l).runningSegments.map (·.origin) := horigins ▸ List.mem_map_of_mem hx
    obtain ⟨g, hg, hgx⟩ := List.mem_map.mp hmem
    rw [← hgx]
    exact (Lane.boundsOk_iff.mp h).2.2.2 g (Lane.segments_eq _ ▸ List.mem_append_left _ hg)
  · rw [Lane.tripped_segments, hlen, Lane.segments_eq, List.length_append]
    omega
  · rw [Lane.tripped_segments, Lane.segments_eq]
    exact fun g hg => List.mem_append_right _ hg

theorem State.tripLanes_boundsOk {s : State} (h : s.BoundsOk) (d : Fin 3) (c : Fin 6) (offset : Nat) :
    (s.tripLanes d c offset).BoundsOk := fun l => by
  rw [State.tripLanes_lane]
  split
  · exact State.tripped_boundsOk (h l) c
  · exact h l

theorem Resume.segments_timedOut (ln : Lane) (rest : List Segment) (c : Completion) : (ln.timedOut rest c).segments = rest :=
  Lane.segments_of_not_running fun r => ln.resume.state_not_running r

theorem State.timeoutTurn_boundsOk (g : Fin 4) (set : LaneSet) {s : State} (h : s.BoundsOk) (l : Fin 4) :
    (s.timeoutTurn g set l).BoundsOk := by
  unfold State.timeoutTurn
  split
  · cases hq : (s.lane l).queue with
    | nil => rwa [State.gateTimeoutLane_none hq]
    | cons x rest =>
      refine h.of_lane l (fun k hk => s.gateTimeoutLane_lane_ne g hk) ?_
      have hsub : ∀ y ∈ x :: rest, y ∈ (s.lane l).segments := fun y hy => by
        rw [Lane.segments_eq, hq]
        exact List.mem_append_right _ hy
      have hlen := (s.lane l).segments_length
      rw [State.gateTimeoutLane_lane hq, if_pos rfl]
      refine (h l).mono [neverStarted x.origin .gateTimeout (some l) (g.val + 1)] ?_ rfl (fun c hc => ?_) ?_ ?_
      · rw [hq]
        exact Nat.le_succ rest.length
      · rw [List.mem_singleton.mp hc]
        exact (Lane.boundsOk_iff.mp (h l)).2.2.2 x (hsub x (.head rest))
      · rw [Resume.segments_timedOut, hlen, hq, List.length_cons, List.length_cons, List.length_nil]
        omega
      · rw [Resume.segments_timedOut]
        exact fun y hy => hsub y (.tail x hy)
  · exact h

theorem State.gateTimeout_boundsOk {s : State} (h : s.BoundsOk) (g : Fin 4) : (s.gateTimeout g).BoundsOk := by
  rw [State.gateTimeout_eq]
  split
  · exact State.foldl_keeps (P := State.BoundsOk) (fun _ l hs => State.timeoutTurn_boundsOk g _ hs l) allLanes _ h
  · exact h

/-- The readiness of a lane, as its bounds use it (R16). -/
theorem Lane.readyFor_segment {ln : Lane} : ln.readyFor .segment = true ↔ ln.queue.length + ln.outbox.length ≤ 3 := by
  simp [Lane.readyFor]

theorem Lane.halts_of_readyFor {ln : Lane} (h : ln.readyFor .halt = true) : ln.halts = 0 :=
  countP_halts_eq_zero fun c hc hk => by
    have : ln.holdsHalt = true := List.any_eq_true.mpr ⟨c, hc, beq_iff_eq.mpr hk⟩
    simp [Lane.readyFor, this] at h

theorem Lane.runningCount_le (ln : Lane) : ln.runningCount ≤ 1 := by
  unfold Lane.runningCount
  split <;> decide

/-- A completion that is not of a HALT, of a lane that is ready for a segment. -/
theorem Lane.BoundsOk.addCompletion {ln : Lane} (h : ln.BoundsOk) {c : Completion} (hr : ln.readyFor .segment = true)
    (hk : c.origin.kind ≠ kindHalt) : Lane.BoundsOk { ln with outbox := ln.outbox ++ [c] } := by
  obtain ⟨h1, h2, h3, h4⟩ := h
  have hr := Lane.readyFor_segment.mp hr
  have hrun := ln.runningCount_le
  have hhalts : Lane.halts { ln with outbox := ln.outbox ++ [c] } = ln.halts := by
    rw [Lane.halts, List.countP_append, countP_halts_eq_zero (cs := [c]) (fun x hx => List.mem_singleton.mp hx ▸ hk)]
    rfl
  refine ⟨h1, hhalts ▸ h2, ?_, h4⟩
  rw [hhalts, List.length_append, List.length_singleton]
  change ln.queue.length + (ln.outbox.length + 1) + ln.runningCount ≤ _
  omega

theorem Lane.BoundsOk.joined {ln : Lane} (h : ln.BoundsOk) {g : Segment} (hr : ln.readyFor .segment = true)
    (hk : g.origin.kind ≠ kindHalt) : (ln.joined g).BoundsOk := by
  obtain ⟨h1, h2, h3, h4⟩ := h
  have hr := Lane.readyFor_segment.mp hr
  have hrun := ln.runningCount_le
  refine ⟨?_, h2, ?_, ?_⟩
  · rw [Lane.joined, List.length_append, List.length_singleton]
    omega
  · rw [Lane.joined, List.length_append, List.length_singleton]
    change ln.queue.length + 1 + ln.outbox.length + ln.runningCount ≤ 5 + ln.halts
    omega
  · rw [Lane.joined_segments]
    intro x hx
    rcases List.mem_append.mp hx with hx | hx
    · exact h4 x hx
    · exact List.mem_singleton.mp hx ▸ hk

/-- The DONE of a HALT, of a lane with no HALT in its outbox and no segment left. -/
theorem Lane.BoundsOk.addHalt {ln : Lane} (h : ln.BoundsOk) {c : Completion} (hr : ln.halts = 0) (hk : c.origin.kind = kindHalt) :
    Lane.BoundsOk { ln with outbox := ln.outbox ++ [c] } := by
  obtain ⟨h1, h2, h3, h4⟩ := h
  have hhalts : Lane.halts { ln with outbox := ln.outbox ++ [c] } = 1 := by
    rw [Lane.halts, List.countP_append, show ln.outbox.countP _ = 0 from hr]
    simp [hk]
  refine ⟨h1, hhalts ▸ le_rfl, ?_, h4⟩
  rw [hhalts, List.length_append, List.length_singleton]
  change ln.queue.length + (ln.outbox.length + 1) + ln.runningCount ≤ _
  omega

theorem Lane.BoundsOk.taken {ln : Lane} (h : ln.BoundsOk) {c : Completion} {rest : List Completion} (ho : ln.outbox = c :: rest) :
    Lane.BoundsOk { ln with outbox := rest } := by
  obtain ⟨h1, h2, h3, h4⟩ := h
  have hhalts : ln.halts = Lane.halts { ln with outbox := rest } + if c.origin.kind == kindHalt then 1 else 0 := by
    rw [Lane.halts, ho, List.countP_cons]
    rfl
  rw [ho, List.length_cons] at h3
  refine ⟨h1, ?_, ?_, h4⟩
  · omega
  · change ln.queue.length + rest.length + ln.runningCount ≤ _
    split at hhalts <;> omega

theorem Move.keeps_boundsOk {s t : State} (m : Move s t) (h : s.BoundsOk) : t.BoundsOk := by
  cases m with
  | minor k => exact k.boundsOk h
  | start l => exact State.startTest_boundsOk h l
  | ended l r st hr =>
    refine h.of_lane l (fun k hk => by rw [State.ended_lane, if_neg hk]) ?_
    have hseg : ((s.lane l).ended r.seg.endAction (s.ranCompletion l r st (endDetail r.seg st))).segments = (s.lane l).queue :=
      Lane.segments_of_not_running fun x => r.seg.endAction.nextState_not_running x
    have hall := Lane.segments_of_running hr
    rw [State.ended_lane, if_pos rfl]
    refine (h l).mono [s.ranCompletion l r st (endDetail r.seg st)] le_rfl rfl (fun c hc => ?_) ?_ fun g hg => ?_
    · rw [List.mem_singleton.mp hc]
      exact (Lane.boundsOk_iff.mp (h l)).2.2.2 r.seg (hall ▸ .head _)
    · rw [hseg, hall]
      rfl
    · rw [hall]
      exact .tail _ (hseg ▸ hg)
  | phase l r n p period hr hn =>
    refine h.of_lane l (fun k hk => s.updLane_lane_ne l (fun ln => { ln with state := .running n }) k hk) ?_
    have hl := s.updLane_lane_self l fun ln => { ln with state := .running n }
    have hseg : Lane.segments { s.lane l with state := .running n } = (s.lane l).segments := by
      rw [Lane.segments_of_running hr, ← hn]
      rfl
    exact hl ▸ (h l).congr rfl rfl hseg
  | holdOver l hs =>
    refine h.of_lane l (fun k hk => State.updLane_lane_ne (h := hk) ..) ?_
    rw [State.updLane_lane_self]
    exact (h l).congr rfl rfl (Lane.segments_of_not_running (ln := s.lane l) (hs ▸ fun _ => LaneState.noConfusion)).symm
  | gatedHoldOver l =>
    refine h.of_lane l (fun k hk => State.updLane_lane_ne (h := hk) ..) ?_
    rw [State.updLane_lane_self]
    exact (h l).congr rfl rfl rfl
  | gateTimeout g => exact State.gateTimeout_boundsOk h g
  | halted l o offset n hb hr hk =>
    refine h.of_lane l (fun k hk => ?_) ?_
    · rw [State.addOutbox, State.updLane_lane_ne (h := hk), State.flushLane_lane, if_neg hk]
    · rw [State.addOutbox, State.updLane_lane_self, State.flushLane_lane, if_pos rfl]
      exact (State.flushed_boundsOk (h l) .aborted).addHalt (State.flushed_halts (h l) (Lane.halts_of_readyFor hr)) hk
  | permitLoss p => exact State.foldl_keeps (P := State.BoundsOk) (fun _ l hs => State.disableLane_boundsOk hs l) allLanes _ h
  | queued l g hb hr hk =>
    refine h.of_lane l (fun k hk => (s.joined_lane l g k).trans (if_neg hk)) ?_
    exact ((s.joined_lane l g l).trans (if_pos rfl)) ▸ (h l).joined hr hk
  | disabledAtOnce l c hr hk =>
    refine h.of_lane l (fun k hk => State.updLane_lane_ne (h := hk) ..) ?_
    rw [State.addOutbox, State.updLane_lane_self]
    exact (h l).addCompletion hr hk
  | trip d c offset =>
    have hd : ((s.updDomain d Domain.trip).setOff (s.domain d).members offset).BoundsOk := h
    exact State.tripLanes_boundsOk hd d c offset
  | released l hs =>
    refine h.of_lane l (fun k hk => State.updLane_lane_ne (h := hk) ..) ?_
    rw [State.updLane_lane_self]
    exact (h l).congr rfl rfl (Lane.segments_of_not_running (ln := s.lane l) (hs ▸ fun _ => LaneState.noConfusion)).symm
  | bound l set limit hu ho =>
    refine h.of_lane l (fun k hk => s.bindLane_lane_ne l set limit hk) ?_
    rw [State.bindLane_lane_self]
    refine (h l).congr rfl rfl ?_
    rw [Lane.segments_of_not_running (ln := s.lane l) (hu ▸ fun _ => LaneState.noConfusion),
      Lane.segments_of_not_running fun r => by split <;> exact LaneState.noConfusion]
  | unbound l offset hw =>
    refine h.of_lane l (fun k hk => by rw [State.unbindLane_lane, if_neg hk]) ?_
    rw [State.unbindLane_lane, if_pos rfl]
    exact (h l).congr rfl rfl (Lane.segments_of_not_running (Lane.no_work hw).1).symm
  | outboxTaken l c rest ho =>
    refine h.of_lane l (fun k hk => State.updLane_lane_ne (h := hk) ..) ?_
    rw [State.updLane_lane_self]
    exact (h l).taken ho
  | advance =>
    intro l
    rw [State.advance_lane]
    exact (h l).congr rfl rfl (Lane.segments_advance ..)
  | observe p =>
    intro l
    rw [State.observe_lane]
    exact (h l).congr rfl rfl (Lane.segments_sample ..)
  | reset _ _ hl =>
    intro l
    rw [State.lane_of_reset hl]
    unfold Lane.BoundsOk
    decide
  | _ => exact h

/-- Settles O55: a lane takes a segment or a completion only while it is ready for one, and what it completes it held. -/
theorem stepKeepsLaneBounds : Obligations.StepKeepsLaneBounds := by
  refine ⟨fun _ _ => step_keeps (fun _ _ h => h) Move.keeps_boundsOk, fun s h l => ?_⟩
  obtain ⟨hq, hh, hsum, -⟩ := h l
  exact ⟨hq, by omega⟩

end Sys2Proof.Machine
end


section
/-! PROOFS. The return of the permit (O12), the expiry of a hold (O16) and of a gate's wait timer (O17), and the taking of outbox
entries (O49). -/

namespace Sys2Proof.Machine

-- One declaration after another: so the whole text compiles within the memory of the check.
set_option Elab.async false

/-! ### What a start test keeps of every lane -/

/-- A start changes a lane's state, queue and resume state, and may end its hold; it makes no lane HELD. -/
structure Lane.StartKeeps (a b : Lane) : Prop where
  frame : b = { a with state := b.state, queue := b.queue, holdTimer := b.holdTimer, resume := b.resume }
  hold : a.holdTimer = none → b.holdTimer = none
  held : b.state = .held → a.state = .held

theorem Lane.StartKeeps.refl (a : Lane) : a.StartKeeps a := ⟨rfl, id, id⟩

theorem Lane.StartKeeps.trans {a b c : Lane} (h : a.StartKeeps b) (k : b.StartKeeps c) : a.StartKeeps c := by
  obtain ⟨hf, hh, hs⟩ := h
  obtain ⟨kf, kh, ks⟩ := k
  refine ⟨?_, fun hn => kh (hh hn), fun hn => hs (ks hn)⟩
  rw [hf] at kf
  exact kf

theorem Lane.StartKeeps.outbox {a b : Lane} (h : a.StartKeeps b) : b.outbox = a.outbox := by rw [h.frame]

theorem Lane.StartKeeps.expiryCount {a b : Lane} (h : a.StartKeeps b) : b.expiryCount = a.expiryCount := by rw [h.frame]

theorem State.startHead_keeps (s : State) (l k : Fin 4) : (s.lane k).StartKeeps ((s.startHead l).lane k) := by
  cases hq : (s.lane l).queue with
  | nil =>
    rw [State.startHead, hq]
    exact .refl _
  | cons g rest =>
    rw [State.startHead_lane hq]
    split
    · next hk => exact hk ▸ ⟨rfl, fun _ => rfl, fun h => LaneState.noConfusion h⟩
    · exact .refl _

theorem State.startSet_keeps (s : State) (set : LaneSet) (k : Fin 4) : (s.lane k).StartKeeps ((s.startSet set).lane k) :=
  State.foldl_keeps (P := fun t => (s.lane k).StartKeeps (t.lane k)) (fun t l h => by
    split
    · exact h.trans (t.startHead_keeps l k)
    · exact h) allLanes s (.refl _)

theorem State.fireGate_keeps (s : State) (g k : Fin 4) : (s.lane k).StartKeeps ((s.fireGate g).lane k) :=
  State.startSet_keeps (s.updGate g fun x => { x with arrivals := 0, waitTimer := none }) _ k

/-- The start test (R13), whatever it starts. -/
theorem State.startTest_keeps (s : State) (l k : Fin 4) : (s.lane k).StartKeeps ((s.startTest l).lane k) := by
  unfold State.startTest
  split
  · split
    · exact .refl _
    · split
      · exact s.startHead_keeps l k
      · have hg : (s.lane k).StartKeeps ((s.enterGated l).lane k) := by
          rw [State.enterGated, State.updLane_lane]
          split
          · next hk => exact hk ▸ ⟨rfl, id, fun h => LaneState.noConfusion h⟩
          · exact .refl _
        refine hg.trans ?_
        unfold State.arrive
        dsimp only
        split
        · exact .refl _
        · split
          · exact State.fireGate_keeps _ _ k
          · exact .refl _
  · exact .refl _

theorem LaneStep.lanePointer {s t : State} (h : LaneStep s t) : t.lanePointer = s.lanePointer := by
  obtain ⟨_, _, _, _, _, _, _, rfl⟩ := h.work
  rfl

/-! ### The permit (R88, R90) -/

/-- The return of the permit with every queue empty. -/
theorem State.permitReturn_empty {s : State} (h : ∀ l : Fin 4, (s.lane l).queue = []) : s.permitReturn = s.permitEvent := by
  have hturn (l : Fin 4) : (if (s.permitEvent.lane l).state = .idle then s.permitEvent.startTest l else s.permitEvent) = s.permitEvent := by
    split
    · exact State.startTest_none (.inl (h l))
    · rfl
  unfold State.permitReturn
  simp only [allLanes, List.foldl_cons, List.foldl_nil, hturn]

theorem State.setPermit_returns {s : State} {p : PermitMonitor} (hs : s.permitOn = false) (hp : (p.enableHigh && p.supplyGood) = true)
    (h : ∀ l : Fin 4, (s.lane l).queue = []) : s.setPermit p = ({ s with permit := p } : State).permitEvent := by
  have hon : ({ s with permit := p } : State).permitOn = true := hp
  unfold State.setPermit
  simp only [hs, hon, Bool.false_and, Bool.false_eq_true, if_false, Bool.not_false, Bool.and_self, if_true]
  exact State.permitReturn_empty h

/-- A change that leaves the permit OFF. -/
theorem State.setPermit_off {s : State} {p : PermitMonitor} (hs : s.permitOn = false) (hp : (p.enableHigh && p.supplyGood) = false) :
    s.setPermit p = { s with permit := p } := by
  have hoff : ({ s with permit := p } : State).permitOn = false := hp
  unfold State.setPermit
  simp only [hs, hoff, Bool.false_and, Bool.false_eq_true, if_false, Bool.and_false]

theorem exec_enableFilterChange {s : State} (h : s.Awake) (hd : s.permit.enableDue = true) : exec .enableFilterChange s =
    .next (s.setPermit { s.permit with enableHigh := !s.permit.enableHigh, enableCount := 0, enableDue := false }) :=
  (State.act_awake h _).trans (by rw [State.enableChange, if_pos hd])

theorem exec_supplyFilterChange {s : State} (h : s.Awake) (hd : s.permit.supplyDue = true) : exec .supplyFilterChange s =
    .next (s.setPermit { s.permit with supplyGood := !s.permit.supplyGood, supplyCount := 0, supplyDue := false }) :=
  (State.act_awake h _).trans (by rw [State.supplyChange, if_pos hd])

/-- Settles O12: with empty queues the start tests of the return find no head, and without the other condition the permit stays OFF. -/
theorem permitReturnStartsNothing : Obligations.PermitReturnStartsNothing := by
  refine ⟨fun s ha hd hhigh hq => ?_, fun s ha hd hgood hq => ?_, fun s ha hd hgood => ?_, fun s ha hd hhigh => ?_⟩
  · have hs : s.permitOn = false := by rw [State.permitOn, hhigh, Bool.false_and]
    rw [exec_enableFilterChange ha hd, hhigh]
    cases hg : s.permit.supplyGood with
    | true => exact congrArg _ (State.setPermit_returns hs (Bool.and_eq_true_iff.mpr ⟨rfl, hg⟩) hq)
    | false => exact congrArg _ (State.setPermit_off hs (Bool.and_eq_false_iff.mpr (.inr hg)))
  · have hs : s.permitOn = false := by rw [State.permitOn, hgood, Bool.and_false]
    rw [exec_supplyFilterChange ha hd, hgood]
    cases hg : s.permit.enableHigh with
    | true => exact congrArg _ (State.setPermit_returns hs (Bool.and_eq_true_iff.mpr ⟨hg, rfl⟩) hq)
    | false => exact congrArg _ (State.setPermit_off hs (Bool.and_eq_false_iff.mpr (.inl hg)))
  · have hs : s.permitOn = false := by rw [State.permitOn, hgood, Bool.and_false]
    refine ⟨_, (exec_enableFilterChange ha hd).trans (congrArg _ (State.setPermit_off hs (Bool.and_eq_false_iff.mpr (.inr hgood)))), ?_, rfl⟩
    simp only [State.permitCause, hgood]
    cases s.permit.enableHigh <;> rfl
  · have hs : s.permitOn = false := by rw [State.permitOn, hhigh, Bool.false_and]
    refine ⟨_, (exec_supplyFilterChange ha hd).trans (congrArg _ (State.setPermit_off hs (Bool.and_eq_false_iff.mpr (.inl hhigh)))), ?_, rfl⟩
    simp only [State.permitCause, hhigh]
    cases s.permit.supplyGood <;> rfl

/-! ### Outboxes (R15, R124) -/

/-- The oldest entry of an outbox has left: the list holds it, and the lane's readiness has been told. -/
def State.outboxTaken (s : State) (l : Fin 4) (c : Completion) (rest : List Completion) : State :=
  (({ s with lanePointer := l }.addPending c).updLane l fun ln => { ln with outbox := rest }).readinessNotice l

section
variable {s : State} {l : Fin 4} {c : Completion} {rest : List Completion}

theorem State.takeOutbox_eq (h : (s.lane l).outbox = c :: rest) : s.takeOutbox l = (s.outboxTaken l c rest).startTest l := by
  rw [State.takeOutbox, h]
  rfl

theorem State.outboxTaken_lane (k : Fin 4) :
    (s.outboxTaken l c rest).lane k = if k = l then { s.lane l with outbox := rest } else s.lane k :=
  State.updLane_lane { s with lanePointer := l, pendingList := s.pendingList ++ [c] } l (fun ln => { ln with outbox := rest }) k

theorem State.outboxTaken_noticed : Noticed s (s.outboxTaken l c rest) (laneBit l) := by
  rw [noticed_iff]
  simp only [laneBit_getLsbD]
  exact State.readinessNotice_noticed (({ s with lanePointer := l }.addPending c).updLane l fun ln => { ln with outbox := rest }) l

theorem State.outboxTaken_arrivalsOk (ha : s.ArrivalsOk) : (s.outboxTaken l c rest).ArrivalsOk := by
  refine ha.of_lane l rfl (fun k hk => (State.outboxTaken_lane k).trans (if_neg hk)) fun g hg => ?_
  rw [State.outboxTaken_lane, if_pos rfl]
  exact hg

end

/-- Settles O49: the rotation finds the lane, and a start test follows the entry. -/
theorem outboxGivesOldestInRotation : Obligations.OutboxGivesOldestInRotation := by
  intro s ha
  have hexec : exec .outboxAccept s = .next s.acceptOutbox := State.act_awake ha _
  refine ⟨fun hfetch hroom l c rest ho hfirst => ?_, fun hnone => ?_⟩
  · have hturn : s.outboxTurn = some l := by
      have hrot : rotateFrom s.lanePointer (fun k => !(s.lane k).outbox.isEmpty) = some l :=
        rotateFrom_some (by rw [ho]; rfl) fun k hk => by rw [hfirst k hk]; rfl
      have hheld : s.fetch.holdsCompletion = false := by
        unfold FetchState.holdsCompletion
        split
        · next x hx => exact absurd hx (hfetch x)
        · rfl
      have hlist : s.listHasRoom = true := decide_eq_true hroom
      rw [State.outboxTurn, hlist, hheld, hrot]
      rfl
    have hstep := LaneStep.startTest (s.outboxTaken l c rest) l
    have hlane := State.outboxTaken_lane (s := s) (l := l) (c := c) (rest := rest)
    refine ⟨(s.outboxTaken l c rest).startTest l, s.outboxTaken l c rest, ?_, hstep.pendingList, hstep.lanePointer, ?_,
      (hlane l).trans (if_pos rfl), fun k hk => (hlane k).trans (if_neg hk), State.outboxTaken_noticed, rfl, fun hn => ?_,
      fun g queue hq hm hok => ?_⟩
    · rw [hexec, State.acceptOutbox, hturn]
      exact congrArg _ (State.takeOutbox_eq ho)
    · rw [(State.startTest_keeps (s.outboxTaken l c rest) l l).outbox, hlane, if_pos rfl]
    · rcases hn with hn | hn | hn
      · exact State.startTest_of_outbox (by rwa [hlane, if_pos rfl])
      · exact State.startTest_none (.inl (by rw [hlane, if_pos rfl]; exact hn))
      · exact State.startTest_none (.inr hn)
    · exact State.startTest_takesHead (State.outboxTaken_arrivalsOk hok.2) hm (by rw [hlane, if_pos rfl]; exact hq)
  · have hturn : s.outboxTurn = none := by
      unfold State.outboxTurn
      rcases hnone with h | h | ⟨c, h⟩
      · rw [rotateFrom_none fun k => by rw [h k]; rfl, ite_self]
      · have hlist : s.listHasRoom = false := decide_eq_false (Nat.not_lt.mpr h)
        rw [hlist, Bool.false_and, if_neg Bool.false_ne_true]
      · rw [h, if_neg]
        simp [FetchState.holdsCompletion]
    rw [hexec, State.acceptOutbox, hturn]

/-! ### The expiry of a hold (R38) -/

/-- A lane whose hold has expired, before its start test. -/
def State.holdExpired (s : State) (l : Fin 4) : State :=
  (s.laneOff l).updLane l fun ln =>
    { ln with
      state := if ln.state = .gated then .gated else .idle
      resume := if ln.state = .gated then .idle else ln.resume
      holdTimer := none
      expiryCount := satSucc 255 ln.expiryCount }

section
variable {s : State} {l : Fin 4}

theorem State.holdExpiry_gated (ht : (s.lane l).holdTimer = some 0) (hg : (s.lane l).state = .gated) : s.holdExpiry l = s.holdExpired l := by
  rw [State.holdExpiry, if_pos ht, hg]
  refine State.updLane_congr ?_
  have hl : (s.laneOff l).lane l = s.lane l := rfl
  rw [hl, hg]
  simp [← hg]

theorem State.holdExpiry_holding (ht : (s.lane l).holdTimer = some 0) (hg : (s.lane l).state = .holding) :
    s.holdExpiry l = (s.holdExpired l).startTest l := by
  rw [State.holdExpiry, if_pos ht, hg]
  refine congrArg (State.startTest · l) (State.updLane_congr ?_)
  have hl : (s.laneOff l).lane l = s.lane l := rfl
  rw [hl, hg]
  simp

theorem State.holdExpired_lane (k : Fin 4) : (s.holdExpired l).lane k =
    if k = l then
      { s.lane l with
        state := if (s.lane l).state = .gated then .gated else .idle
        resume := if (s.lane l).state = .gated then .idle else (s.lane l).resume
        holdTimer := none
        expiryCount := min 255 ((s.lane l).expiryCount + 1) }
    else s.lane k := by
  rw [State.holdExpired, State.updLane_lane]
  simp only [satSucc_eq]
  rfl

theorem State.holdExpired_channel (c : Fin 6) : (s.holdExpired l).channel c = (s.laneOff l).channel c := rfl

theorem State.holdExpired_arrivalsOk (hs : (s.lane l).state = .holding) (ha : s.ArrivalsOk) : (s.holdExpired l).ArrivalsOk :=
  ha.of_lane l rfl (fun k hk => State.holdExpired_lane k |>.trans (if_neg hk)) fun g hg =>
    absurd hg (Lane.gatedOn_of_not_gated (hs ▸ LaneState.noConfusion) g)

end

/-- Settles O16: the channels go OFF and the lane is IDLE, or GATED with resume state IDLE, before its start test. -/
theorem holdExpiryTurnsChannelsOff : Obligations.HoldExpiryTurnsChannelsOff := by
  intro s l ha ht hst
  have hexec : exec (.holdExpiry l) s = .next (s.holdExpiry l) := State.act_awake ha _
  have hlane := State.holdExpired_lane (s := s) (l := l)
  have hself := (hlane l).trans (if_pos rfl)
  have hkeeps : ((s.holdExpired l).lane l).StartKeeps ((s.holdExpiry l).lane l) := by
    rcases hst with hs | hs
    · rw [State.holdExpiry_holding ht hs]
      exact State.startTest_keeps (s.holdExpired l) l l
    · rw [State.holdExpiry_gated ht hs]
      exact .refl _
  refine ⟨s.holdExpiry l, s.holdExpired l, hexec, ?_, ?_, hself, fun k hk => (hlane k).trans (if_neg hk), fun c ho => ?_, fun c ho => ?_, rfl,
    fun hn => ?_, fun g rest hs hq hm hok => ?_⟩
  · rw [hkeeps.expiryCount, hself]
  · exact hkeeps.hold (by rw [hself])
  · rw [State.holdExpired_channel, State.laneOff_channel, if_pos ho, Channel.turnOff_code]
  · rw [State.holdExpired_channel, State.laneOff_channel, if_neg ho]
  · rcases hst with hs | hs
    · rw [State.holdExpiry_holding ht hs]
      rcases hn with hn | hn | hn
      · rw [hs] at hn
        cases hn
      · exact State.startTest_none (.inl (by rw [hself]; exact hn))
      · exact State.startTest_none (.inr hn)
    · exact State.holdExpiry_gated ht hs
  · rw [State.holdExpiry_holding ht hs]
    exact State.startTest_takesHead (State.holdExpired_arrivalsOk hs hok.2) hm (by rw [hself]; exact hq)

/-! ### The expiry of a gate's wait timer (R65) -/

theorem State.timeoutLanes_frame (s : State) (g : Fin 4) (set : LaneSet) :
    ∃ la sl sq, s.timeoutLanes g set = { s with lanes := la, slots := sl, sqs := sq } :=
  State.foldl_keeps (P := fun t => ∃ la sl sq, t = { s with lanes := la, slots := sl, sqs := sq }) (f := State.timeoutTurn g set) (fun t l h => by
    unfold State.timeoutTurn
    split
    · obtain ⟨la, sl, sq, rfl⟩ := h
      cases hq : (State.lane { s with lanes := la, slots := sl, sqs := sq } l).queue with
      | nil => exact ⟨_, _, _, State.gateTimeoutLane_none hq⟩
      | cons x rest =>
        obtain ⟨la', sl', sq', hf⟩ := State.gateTimeoutLane_frame (g := g) hq
        exact ⟨la', sl', sq', hf⟩
    · exact h) allLanes s ⟨_, _, _, rfl⟩

/-- Settles O17: every arrived lane is GATED with a head, and with the completion in its outbox it starts nothing. -/
theorem gateTimeoutReturnsLanes : Obligations.GateTimeoutReturnsLanes := by
  intro s g ha ht hok
  have hexec : exec (.gateTimeout g) s = .next (s.gateTimeout g) := State.act_awake ha _
  have hq : s.gateTimeout g = (s.updGate g fun x => { x with arrivals := 0, waitTimer := none }).timeoutLanes g (s.gate g).arrivals := by
    rw [State.gateTimeout_eq, if_pos ht]
  have hgate (k : Fin 4) : (s.gateTimeout g).gate k = if k = g then { s.gate g with arrivals := 0, waitTimer := none } else s.gate k := by
    rw [hq, show State.gate (State.timeoutLanes _ g _) k = _ from congrArg (·[k]) (State.timeoutLanes_gates _ g _)]
    exact s.updGate_gate g _ k
  refine ⟨s.gateTimeout g, hexec, (hgate g).trans (if_pos rfl), fun l hl => ?_, fun l hl => ?_, fun k hk => (hgate k).trans (if_neg hk), ?_⟩
  · obtain ⟨-, x, rest, hx, -⟩ := Lane.gatedOn_iff.mp (hok.2 g l hl)
    refine ⟨x, rest, hx, ?_⟩
    rw [hq, State.timeoutLanes_lane_in (s := s.updGate g fun x => { x with arrivals := 0, waitTimer := none }) hl hx]
    have hstate : (s.lane l).resume.state = if (s.lane l).resume = .idle then .idle else .holding := by
      cases (s.lane l).resume <;> rfl
    rw [← hstate]
    rfl
  · rw [hq]
    exact State.timeoutLanes_lane_out hl
  · obtain ⟨la, sl, sq, hf⟩ := State.timeoutLanes_frame (s.updGate g fun x => { x with arrivals := 0, waitTimer := none }) g (s.gate g).arrivals
    rw [hq, hf]
    rfl

end Sys2Proof.Machine
end


section
/-! PROOFS. Freezes of capture streams (R154), and the phases and endings of a segment (O13 to O15). -/

namespace Sys2Proof.Machine

-- One declaration after another: so the whole text compiles within the memory of the check.
set_option Elab.async false

/-! ### Freezes -/

/-- A stream freezes under a condition (R154). -/
def CaptureStream.freezesOn (c : CaptureStream) (met : FreezeCondition → Prop) : Prop := c.mode = .history ∧ c.state = .running ∧ met c.freeze

/-- A stream as a freeze leaves it. -/
def CaptureStream.frozen (c : CaptureStream) : CaptureStream := { c with state := .frozen, nextInstant := none }

/-- What the event table is told of the freeze of a stream (R157). -/
def CaptureStream.freezeDetail (c : CaptureStream) : EventDetail :=
  { first := if c.wrapCount = 0 then 2 else 3, second := (c.writePos - c.base) / 16 % 256, third := (c.writePos - c.base) / 16 / 256 }

theorem freezesStreams_iff {s t : State} {met : FreezeCondition → Prop} : FreezesStreams s t met ↔ ∀ n : Fin 2,
    ((s.stream n).freezesOn met → t.stream n = (s.stream n).frozen ∧
      t.event (captureStateSource n) = foldOccurrence s.tick (s.stream n).freezeDetail (s.event (captureStateSource n))) ∧
    (¬(s.stream n).freezesOn met → t.stream n = s.stream n ∧ t.event (captureStateSource n) = s.event (captureStateSource n)) := Iff.rfl

theorem State.freezeIf_yes {s : State} {n : Fin 2} {c : FreezeCondition} (h : (s.stream n).freezesOn (· = c)) :
    s.freezeIf n c = s.freezeStream n := if_pos h

theorem State.freezeIf_no {s : State} {n : Fin 2} {c : FreezeCondition} (h : ¬(s.stream n).freezesOn (· = c)) : s.freezeIf n c = s :=
  if_neg h

theorem State.freezeStream_stream (s : State) (n m : Fin 2) :
    (s.freezeStream n).stream m = if m = n then (s.stream n).frozen else s.stream m := by
  rw [State.freezeStream_eq]
  exact s.updStream_stream n (fun c => { c with state := .frozen, nextInstant := none }) m

theorem State.freezeStream_event (s : State) (n : Fin 2) (e : Fin 12) : (s.freezeStream n).event e =
    if e = captureStateSource n then foldOccurrence s.tick (s.stream n).freezeDetail (s.event e) else s.event e := by
  rw [State.freezeStream_eq]
  have h : State.event { s.updStream n fun c => { c with state := .frozen, nextInstant := none } with
      events := (s.recordEvent (captureStateSource n) (s.stream n).freezeDetail).events } e =
      (s.recordEvent (captureStateSource n) (s.stream n).freezeDetail).event e := rfl
  refine h.trans ?_
  rw [State.recordEvent, State.updEvent_event]
  split
  · next he => rw [he]
  · rfl

theorem State.freezeIf_stream_self (s : State) (n : Fin 2) (c : FreezeCondition) :
    ((s.stream n).freezesOn (· = c) → (s.freezeIf n c).stream n = (s.stream n).frozen) ∧
      (¬(s.stream n).freezesOn (· = c) → (s.freezeIf n c).stream n = s.stream n) := by
  refine ⟨fun h => ?_, fun h => by rw [State.freezeIf_no h]⟩
  rw [State.freezeIf_yes h, State.freezeStream_stream, if_pos rfl]

theorem State.freezeIf_stream_ne (s : State) {n m : Fin 2} (c : FreezeCondition) (hm : m ≠ n) : (s.freezeIf n c).stream m = s.stream m := by
  by_cases h : (s.stream n).freezesOn (· = c)
  · rw [State.freezeIf_yes h, State.freezeStream_stream, if_neg hm]
  · rw [State.freezeIf_no h]

theorem State.freezeIf_event_ne (s : State) {n : Fin 2} {e : Fin 12} (c : FreezeCondition) (he : e ≠ captureStateSource n) :
    (s.freezeIf n c).event e = s.event e := by
  by_cases h : (s.stream n).freezesOn (· = c)
  · rw [State.freezeIf_yes h, State.freezeStream_event, if_neg he]
  · rw [State.freezeIf_no h]

theorem State.freezeIf_event_self (s : State) (n : Fin 2) (c : FreezeCondition) :
    ((s.stream n).freezesOn (· = c) → (s.freezeIf n c).event (captureStateSource n) =
        foldOccurrence s.tick (s.stream n).freezeDetail (s.event (captureStateSource n))) ∧
      (¬(s.stream n).freezesOn (· = c) → (s.freezeIf n c).event (captureStateSource n) = s.event (captureStateSource n)) := by
  refine ⟨fun h => ?_, fun h => by rw [State.freezeIf_no h]⟩
  rw [State.freezeIf_yes h, State.freezeStream_event, if_pos rfl]

theorem State.freezeIf_frame (s : State) (n : Fin 2) (c : FreezeCondition) : ∃ st ev, s.freezeIf n c = { s with streams := st, events := ev } := by
  by_cases h : (s.stream n).freezesOn (· = c)
  · exact ⟨_, _, (State.freezeIf_yes h).trans (s.freezeStream_eq n)⟩
  · exact ⟨_, _, State.freezeIf_no h⟩

/-- A condition that is met reaches both streams (R154). -/
def State.freezeBoth (s : State) (c : FreezeCondition) : State := (s.freezeIf 0 c).freezeIf 1 c

theorem State.laneFault_eq (s : State) (l : Fin 4) : s.laneFault l = s.freezeBoth (.onLaneFault l) := rfl

theorem State.freezeBoth_frame (s : State) (c : FreezeCondition) : ∃ st ev, s.freezeBoth c = { s with streams := st, events := ev } := by
  obtain ⟨st, ev, h⟩ := s.freezeIf_frame 0 c
  obtain ⟨st', ev', h'⟩ := (s.freezeIf 0 c).freezeIf_frame 1 c
  exact ⟨st', ev', by rw [State.freezeBoth, h', h]⟩

theorem State.freezeBoth_freezes (s : State) (c : FreezeCondition) : FreezesStreams s (s.freezeBoth c) (· = c) := by
  have htick : (s.freezeIf 0 c).tick = s.tick := by
    obtain ⟨st, ev, h⟩ := s.freezeIf_frame 0 c
    rw [h]
  rw [freezesStreams_iff]
  intro n
  match n with
  | 0 =>
    obtain ⟨hs, hs'⟩ := s.freezeIf_stream_self 0 c
    obtain ⟨he, he'⟩ := s.freezeIf_event_self 0 c
    rw [State.freezeBoth, State.freezeIf_stream_ne _ c (by decide), State.freezeIf_event_ne _ c (by decide)]
    exact ⟨fun h => ⟨hs h, he h⟩, fun h => ⟨hs' h, he' h⟩⟩
  | 1 =>
    obtain ⟨hs, hs'⟩ := (s.freezeIf 0 c).freezeIf_stream_self 1 c
    obtain ⟨he, he'⟩ := (s.freezeIf 0 c).freezeIf_event_self 1 c
    rw [s.freezeIf_stream_ne (n := 0) c (by decide)] at hs hs' he he'
    rw [s.freezeIf_event_ne (n := 0) c (by decide), htick] at he
    rw [s.freezeIf_event_ne (n := 0) c (by decide)] at he'
    exact ⟨fun h => ⟨hs h, he h⟩, fun h => ⟨hs' h, he' h⟩⟩

theorem State.freezeBoth_event_ne (s : State) (c : FreezeCondition) {e : Fin 12} (h0 : e ≠ captureStateSource 0)
    (h1 : e ≠ captureStateSource 1) : (s.freezeBoth c).event e = s.event e := by
  rw [State.freezeBoth, State.freezeIf_event_ne _ c h1, State.freezeIf_event_ne _ c h0]

/-- Nothing freezes under a condition that is not met. -/
theorem FreezesStreams.of_same {s t : State} {met : FreezeCondition → Prop} (hs : t.streams = s.streams) (he : t.events = s.events)
    (hm : ∀ f, ¬met f) : FreezesStreams s t met := freezesStreams_iff.mpr fun n =>
  ⟨fun h => absurd h.2.2 (hm _), fun _ => ⟨congrArg (·[n]) hs, congrArg (·[captureStateSource n]) he⟩⟩

/-- The streams, the events and the tick are all that a freeze depends on. -/
theorem FreezesStreams.congr {s s' t t' : State} {met met' : FreezeCondition → Prop} (h : FreezesStreams s t met)
    (hs : s'.streams = s.streams) (he : s'.events = s.events) (htick : s'.tick = s.tick) (ht : t'.streams = t.streams)
    (hte : t'.events = t.events) (hm : ∀ f, met' f ↔ met f) : FreezesStreams s' t' met' := by
  obtain rfl : met' = met := funext fun f => propext (hm f)
  unfold FreezesStreams State.stream State.event at *
  rwa [hs, he, htick, ht, hte]

/-- Freezes one after another: a stream that is FROZEN freezes no more. -/
theorem FreezesStreams.trans {s u t : State} {m m' : FreezeCondition → Prop} (h : FreezesStreams s u m) (k : FreezesStreams u t m')
    (htick : u.tick = s.tick) : FreezesStreams s t fun f => m f ∨ m' f := by
  rw [freezesStreams_iff] at *
  intro n
  obtain ⟨h1, h2⟩ := h n
  obtain ⟨k1, k2⟩ := k n
  by_cases hf : (s.stream n).freezesOn m
  · obtain ⟨hs, he⟩ := h1 hf
    have hno : ¬(u.stream n).freezesOn m' := fun hu => by
      obtain ⟨-, hr, -⟩ := hu
      rw [hs] at hr
      cases hr
    obtain ⟨ks, ke⟩ := k2 hno
    exact ⟨fun _ => ⟨ks.trans hs, ke.trans he⟩, fun hn => absurd ⟨hf.1, hf.2.1, .inl hf.2.2⟩ hn⟩
  · obtain ⟨hs, he⟩ := h2 hf
    rw [hs, he, htick] at k1
    rw [hs, he] at k2
    refine ⟨fun ⟨hm, hr, hor⟩ => k1 ⟨hm, hr, hor.resolve_left fun hmet => hf ⟨hm, hr, hmet⟩⟩, fun hn => k2 fun ⟨hm, hr, hmet⟩ => hn ⟨hm, hr, .inr hmet⟩⟩

/-! ### The ending of a segment (R34, R35) -/

theorem State.endSegment_ended (s : State) (l : Fin 4) (r : Running) (st : Status) :
    s.endSegment l r st = if st = .timedOut then (s.ended l r st).laneFault l else s.ended l r st := by
  rw [State.endSegment_eq]
  refine State.startTest_of_outbox ?_
  have hlane (u : State) (hm : Minor (s.ended l r st) u) : (u.lane l).outbox ≠ [] := by
    rw [show u.lane l = (s.ended l r st).lane l from congrArg (·[l]) hm.lanes, State.ended_lane, if_pos rfl]
    exact List.append_ne_nil_of_right_ne_nil _ (List.cons_ne_nil _ _)
  split
  · exact hlane _ (.laneFault _ l)
  · exact hlane _ (.refl _)

/-- An ended segment, up to the fault of its lane. -/
theorem State.endSegment_minor (s : State) (l : Fin 4) (r : Running) (st : Status) :
    ∃ u, s.endSegment l r st = u ∧ Minor (s.ended l r st) u ∧ FreezesStreams (s.ended l r st) u (fun f => st = .timedOut ∧ f = .onLaneFault l) ∧
      ∃ str ev, u = { s.ended l r st with streams := str, events := ev } := by
  refine ⟨_, rfl, ?_⟩
  rw [State.endSegment_ended]
  split
  · next h =>
    exact ⟨.laneFault _ l, ((s.ended l r st).freezeBoth_freezes (.onLaneFault l)).congr rfl rfl rfl rfl rfl fun f => by simp [h],
      (s.ended l r st).freezeBoth_frame _⟩
  · next h => exact ⟨.refl _, .of_same rfl rfl fun f hf => h hf.1, _, _, rfl⟩

theorem State.endActionOff_channel (s : State) (l : Fin 4) (a : EndAction) (c : Fin 6) : (s.endActionOff l a).channel c =
    if a = .coast ∧ (s.channel c).owner = some l then (s.channel c).turnOff s.tick else s.channel c := by
  unfold State.endActionOff
  split
  · next h => rw [State.laneOff_channel]; simp [h]
  · next h => simp [h]

theorem EndAction.nextState_eq (a : EndAction) : a.nextState = if a = .coast then .idle else .holding := by
  cases a <;> rfl

theorem holdStart_eq (a : EndAction) (limit : Nat) : (if a = .hold then holdStart limit else none) =
    if a = .hold ∧ limit ≠ 0 then some (100 * limit) else none := by
  unfold holdStart
  by_cases ha : a = .hold <;> by_cases hl : limit = 0 <;> simp [ha, hl, Config.ticksPerMs]

/-- A running segment that ends with a status ends as R35 says. -/
theorem State.endSegment_endsWith (s : State) (l : Fin 4) (r : Running) (st : Status) : EndsWith s (s.endSegment l r st) l r st := by
  obtain ⟨u, hu, hm, hfreeze, str, ev, hframe⟩ := s.endSegment_minor l r st
  obtain ⟨ch, sl, hended⟩ := s.ended_frame l r st
  have hlane (k : Fin 4) : u.lane k = (s.ended l r st).lane k := congrArg (·[k]) hm.lanes
  have hchannel (c : Fin 6) : u.channel c = (s.endActionOff l r.seg.endAction).channel c :=
    (congrArg (·[c]) hm.channels : u.channel c = (s.ended l r st).channel c).trans (s.ended_channel l r st c)
  rw [hu]
  refine ⟨?_, fun k hk => ?_, fun c ho ha => ?_, fun c hc => ?_, fun n => ?_, ?_, ?_⟩
  · rw [hlane, State.ended_lane, if_pos rfl, Lane.ended, State.ranCompletion_eq, endDetail_eq, EndAction.nextState_eq, holdStart_eq]
  · rw [hlane, State.ended_lane, if_neg hk]
  · rw [hchannel, State.endActionOff_channel, if_pos ⟨ha, ho⟩, Channel.turnOff_code]
  · rw [hchannel, State.endActionOff_channel, if_neg]
    rintro ⟨ha, ho⟩
    rcases hc with hc | hc
    · exact hc ho
    · rw [ha] at hc
      cases hc
  · exact (congrArg (·[n]) hm.slots : u.slot n = (s.ended l r st).slot n).trans (s.ended_slot l r st n)
  · exact hfreeze.congr (by rw [hended]; rfl) (by rw [hended]; rfl) (by rw [hended]; rfl) rfl rfl fun _ => Iff.rfl
  · rw [hframe, hended]
    rfl

/-! ### Phase end and timeout ticks (R29, R33, R34) -/

section
variable {s : State} {l : Fin 4} {r : Running} (hr : (s.lane l).state = .running r)
include hr

theorem State.phaseEnd_ends {st : Status} (he : r.phaseEnd = s.tick) (hc : s.endCause r = some st) :
    s.phaseEnd l = s.endSegment l r st := by
  rw [State.phaseEnd, hr]
  simp only [if_pos he, hc]

theorem State.phaseEnd_goesOn (he : r.phaseEnd = s.tick) (hc : s.endCause r = none) :
    s.phaseEnd l = (s.updLane l fun ln => { ln with state := .running (s.nextPhase r) }).applyPhase l
      ((s.phasesOf r.seg).getD (s.nextPhase r).phaseIndex Phase.none) r.seg.period := by
  rw [State.phaseEnd, hr]
  simp only [if_pos he, hc]

theorem State.phaseEnd_not (he : r.phaseEnd ≠ s.tick) : s.phaseEnd l = s := by
  rw [State.phaseEnd, hr]
  simp only [if_neg he]

theorem State.endIfDue_ends {st : Status} (hc : s.endCause r = some st) : s.endIfDue l = s.endSegment l r st := by
  rw [State.endIfDue, hr]
  simp only [hc]

theorem State.segmentTimeout_at (he : r.timeoutTick = some s.tick) : s.segmentTimeout l = s.endIfDue l := by
  rw [State.segmentTimeout, hr]
  simp only [if_pos he]

theorem State.segmentTimeout_not (he : r.timeoutTick ≠ some s.tick) : s.segmentTimeout l = s := by
  rw [State.segmentTimeout, hr]
  simp only [if_neg he]

end

/-- At its timeout tick a segment ends, by its timeout at the least. -/
theorem State.endCause_of_timeout {s : State} {r : Running} (h : r.timeoutTick = some s.tick) :
    ∃ st, (st = .stoppedCurrent ∨ st = .stoppedInput ∨ st = .timedOut) ∧ EndsNow s r st := by
  by_cases hc : CauseArises s r .stoppedCurrent
  · exact ⟨_, .inl rfl, hc, trivial⟩
  by_cases hi : CauseArises s r .stoppedInput
  · exact ⟨_, .inr (.inl rfl), hi, hc⟩
  · exact ⟨_, .inr (.inr rfl), h, hc, hi⟩

/-- Settles O15: both rows end the segment by the cause that the model finds first, which is that of R34. -/
theorem segmentEndsByItsCause : Obligations.SegmentEndsByItsCause := by
  intro s l r ha hr
  have hphase : exec (.phaseEnd l) s = .next (s.phaseEnd l) := State.act_awake ha _
  have htimeout : exec (.segmentTimeout l) s = .next (s.segmentTimeout l) := State.act_awake ha _
  have ends (he : r.timeoutTick = some s.tick) {st : Status} (hst : EndsNow s r st) :
      ∃ t, exec (.segmentTimeout l) s = .next t ∧ EndsWith s t l r st := by
    refine ⟨_, htimeout, ?_⟩
    rw [State.segmentTimeout_at hr he, State.endIfDue_ends hr (State.endCause_iff.mpr hst)]
    exact s.endSegment_endsWith l r st
  refine ⟨fun he st hst => ⟨_, hphase, ?_⟩, fun he => ⟨fun st hst => ends he hst, ?_⟩, fun he => ?_, fun he => ?_⟩
  · rw [State.phaseEnd_ends hr he (State.endCause_iff.mpr hst)]
    exact s.endSegment_endsWith l r st
  · obtain ⟨st, hor, hst⟩ := State.endCause_of_timeout he
    obtain ⟨t, ht, hends⟩ := ends he hst
    exact ⟨st, t, hor, hst, ht, hends⟩
  · rw [hphase, State.phaseEnd_not hr he]
  · rw [htimeout, State.segmentTimeout_not hr he]

/-! ### The next phase (R9, R10, R29) -/

theorem State.phasesOf_eq (s : State) (g : Segment) : s.phasesOf g = segmentPhases s g := rfl

/-- Settles O14: with no cause to end the row applies the next phase, or phase 0 of the next pass. -/
theorem phaseEndAppliesNextPhase : Obligations.PhaseEndAppliesNextPhase := by
  intro s l r ha hr he hno
  have hexec : exec (.phaseEnd l) s = .next (s.phaseEnd l) := State.act_awake ha _
  refine ⟨s.phaseEnd l, hexec, ?_⟩
  intro last i phase
  have hnext : s.nextPhase r =
      { r with
        phaseIndex := i
        phaseEnd := s.tick + BitVec.ofNat 32 phase.duration
        repeatsDone := if last then min 255 (r.repeatsDone + 1) else r.repeatsDone
        endedPhase := some r.phaseIndex } := by
    rw [State.nextPhase, satSucc_eq]
    rfl
  have heq : s.phaseEnd l = (s.updLane l fun ln => { ln with state := .running (s.nextPhase r) }).applyPhase l phase r.seg.period := by
    rw [State.phaseEnd_goesOn hr he (State.endCause_none_iff.mpr hno), State.phasesOf_eq, hnext]
  have hchannel (c : Fin 6) : (s.phaseEnd l).channel c = (s.applyPhase l phase r.seg.period).channel c := by
    rw [heq, State.applyPhase_channel, State.applyPhase_channel]
    rfl
  have hlane (k : Fin 4) : (s.phaseEnd l).lane k = if k = l then { s.lane l with state := .running (s.nextPhase r) } else s.lane k := by
    rw [heq]
    exact s.updLane_lane l (fun ln => { ln with state := .running (s.nextPhase r) }) k
  have happlied := s.applyPhase_applied l phase r.seg.period
  refine ⟨?_, fun k hk => (hlane k).trans (if_neg hk), fun c ho => ?_, fun c ho hf => ?_, fun c ho hf => ?_, ?_⟩
  · rw [hlane, if_pos rfl, hnext]
  · rw [hchannel, State.applyPhase_channel, if_neg ho]
  · rw [hchannel]
    exact (happlied c ho).1 hf
  · rw [hchannel]
    exact (happlied c ho).2 hf
  · rw [heq]
    rfl

/-! ### Sense inputs (R32, R143) -/

theorem LaneStep.senseInput {s t : State} (h : LaneStep s t) (i : Fin 4) : t.senseInput i = s.senseInput i := by
  obtain ⟨_, _, _, _, _, _, _, rfl⟩ := h.work
  rfl

theorem EndsWith.phases {s t : State} {l : Fin 4} {r : Running} {st : Status} (h : EndsWith s t l r st) (n : Fin 16) :
    (t.slot n).phases = (s.slot n).phases := by
  obtain ⟨-, -, -, -, hslot, -⟩ := h
  rw [hslot]

theorem PhasesKept.endIfDue (s : State) (l : Fin 4) : PhasesKept s (s.endIfDue l) := by
  refine ⟨.endIfDue s l, fun n => ?_⟩
  unfold State.endIfDue
  split
  · split
    · exact (s.endSegment_endsWith l _ _).phases n
    · rfl
  · rfl

theorem State.endIfDue_lane_ne (s : State) {l k : Fin 4} (hk : k ≠ l) : (s.endIfDue l).lane k = s.lane k := by
  unfold State.endIfDue
  split
  · split
    · exact (s.endSegment_endsWith l _ _).2.1 k hk
    · rfl
  · rfl

theorem PhasesKept.inputStop (s : State) (i l : Fin 4) : PhasesKept s (s.inputStop i l) := by
  unfold State.inputStop
  split
  · split
    · exact .endIfDue s l
    · exact .refl s
  · exact .refl s

theorem State.inputStop_lane_ne (s : State) (i l k : Fin 4) (hk : k ≠ l) : (s.inputStop i l).lane k = s.lane k := by
  unfold State.inputStop
  split
  · split
    · exact s.endIfDue_lane_ne hk
    · rfl
  · rfl

/-- The change of a sense input does not reach a lane whose segment does not stop on it. -/
theorem State.inputStop_none {s : State} {i l : Fin 4} (h : ∀ r, (s.lane l).state = .running r → r.seg.inputStop.map (·.input) ≠ some i) :
    s.inputStop i l = s := by
  unfold State.inputStop
  split
  · next r hr => rw [if_neg fun hc => h r hr hc.1]
  · rfl

theorem State.senseChange_eq {s : State} {i : Fin 4} (h : (s.senseInput i).due = true) : s.senseChange i =
    (allLanes.foldl (fun s l => s.inputStop i l) s).updSenseInput i fun x => { high := !x.high, count := 0, due := false } := if_pos h

/-- An edge that a change of a sense input meets (R32). -/
theorem inputStop_arises {s : State} {i : Fin 4} {r : Running} {e : Edge} (hd : (s.senseInput i).due = true)
    (hstop : r.seg.inputStop = some { input := i, edge := e }) (h0 : 0 < r.elapsed)
    (he : e = .any ∨ (e = .rise ↔ (s.senseInput i).high = false)) (hm : r.stopMet = false) : EndsNow s r .stoppedInput := by
  refine ⟨⟨_, hstop, h0, hd, ?_⟩, fun hc => by rw [CauseArises, hm] at hc; cases hc⟩
  cases e with
  | rise => exact (he.resolve_left Edge.noConfusion).mp rfl
  | fall => simpa using he.resolve_left Edge.noConfusion
  | any => trivial

/-- Settles O13: each lane takes the change in its turn, and only that of its own segment. -/
theorem senseChangeIsReported : Obligations.SenseChangeIsReported := by
  intro s i ha hd
  have hexec : exec (.senseInputChange i) s = .next (s.senseChange i) := State.act_awake ha _
  have hstep := LaneStep.captureInputs s i
  refine ⟨s.senseChange i, hexec, ?_, fun k hk => ?_, fun hno => ?_, fun l r e hr hstop h0 he hm => ?_⟩
  · rw [State.senseChange_eq hd, State.updSenseInput_senseInput_self, hstep.senseInput]
  · rw [State.senseChange_eq hd, State.updSenseInput_senseInput_ne (h := hk), hstep.senseInput]
  · have hfold : allLanes.foldl (fun s l => s.inputStop i l) s = s :=
      State.foldl_keeps (P := (· = s)) (fun t l h => by rw [h]; exact State.inputStop_none (hno l)) allLanes s rfl
    rw [State.senseChange_eq hd, hfold]
    rfl
  · obtain ⟨u, hu, hul, hend⟩ := State.foldl_lane (R := PhasesKept) (f := fun s l => s.inputStop i l) PhasesKept.refl PhasesKept.trans
      (fun s l => .inputStop s i l) (fun s l k hk => s.inputStop_lane_ne i l k hk) allLanes s l (by decide) (mem_allLanes l)
    have hru : (u.lane l).state = .running r := hul ▸ hr
    have hdu : (u.senseInput i).due = true := (hu.step.senseInput i) ▸ hd
    have hcause := inputStop_arises (s := u) hdu hstop h0 (by rwa [hu.step.senseInput]) hm
    have hmet : u.inputStopMet r = true := State.inputStopMet_iff.mpr hcause.1
    have hstopped : u.inputStop i l = u.endSegment l r .stoppedInput := by
      rw [State.inputStop, hru]
      simp only [hstop, hmet, Option.map_some, and_self, if_true]
      exact State.endIfDue_ends hru (State.endCause_iff.mpr hcause)
    have hlane : (s.senseChange i).lane l = (u.endSegment l r .stoppedInput).lane l := by
      rw [State.senseChange_eq hd, State.updSenseInput_lane, hend, hstopped]
    obtain ⟨hends, -⟩ := u.endSegment_endsWith l r .stoppedInput
    have hdetail : endingDetail r.seg .stoppedInput = i.val := by
      unfold endingDetail
      rw [hstop]
    have hcompletion := hu.ranCompletion l r .stoppedInput i.val
    rw [State.ranCompletion_eq, State.ranCompletion_eq] at hcompletion
    rw [hlane, hends, hdetail, hcompletion, hul]
    exact ⟨rfl, rfl⟩

end Sys2Proof.Machine
end


section
/-! PROOFS. Delivered commands of a lane: SEGMENT (O33) and HALT (O35). -/

namespace Sys2Proof.Machine

-- One declaration after another: so the whole text compiles within the memory of the check.
set_option Elab.async false

/-! ### The fetch engine after a delivery -/

/-- A record has been consumed, and the lanes have worked on what it brought (R104, R117). -/
theorem BackToIdle.of_laneStep {s u : State} {q : Fin 4} (h : LaneStep (s.consume q) u) : BackToIdle s u.fetchIdle := by
  obtain ⟨_, _, _, _, _, _, _, rfl⟩ := h.work
  rw [State.fetchIdle_eq]
  exact ⟨rfl, rfl, rfl⟩

theorem Advances.of_alike {s u t : State} {q : Fin 4} (h : SqsAlike (s.consume q) u) (ht : t.sqs = u.sqs) : Advances s t q := by
  have hsq (p : Fin 4) : t.sq p = { (s.consume q).sq p with state := (t.sq p).state } := (h.trans (.of_sqs ht)) p
  obtain ⟨hself, hne⟩ := s.consume_consumed q
  refine ⟨?_, ?_, ?_, fun p hp => ?_⟩
  · rw [hsq, hself]
  · rw [hsq, hself]
  · rw [hsq, hself]
  · rw [hsq, hne p hp]
    exact ⟨rfl, rfl, rfl⟩

section
variable (u : State)

theorem State.fetchIdle_lane (k : Fin 4) : u.fetchIdle.lane k = u.lane k := by rw [State.fetchIdle_eq]; rfl

theorem State.fetchIdle_channel (c : Fin 6) : u.fetchIdle.channel c = u.channel c := by rw [State.fetchIdle_eq]; rfl

theorem State.fetchIdle_gate (g : Fin 4) : u.fetchIdle.gate g = u.gate g := by rw [State.fetchIdle_eq]; rfl

theorem State.fetchIdle_slot (n : Fin 16) : u.fetchIdle.slot n = u.slot n := by rw [State.fetchIdle_eq]; rfl

theorem State.fetchIdle_sqs : u.fetchIdle.sqs = u.sqs := by rw [State.fetchIdle_eq]

theorem State.fetchIdle_lanes : u.fetchIdle.lanes = u.lanes := by rw [State.fetchIdle_eq]

theorem State.readinessNotice_lane (l k : Fin 4) : (u.readinessNotice l).lane k = u.lane k := rfl

theorem State.readinessNotice_channel (l : Fin 4) (c : Fin 6) : (u.readinessNotice l).channel c = u.channel c := rfl

theorem State.readinessNotice_gate (l g : Fin 4) : (u.readinessNotice l).gate g = u.gate g := rfl

theorem State.readinessNotice_slot (l : Fin 4) (n : Fin 16) : (u.readinessNotice l).slot n = u.slot n := rfl

end

theorem NoticedBy.congr {s s' t t' : State} {p : Fin 4 → Bool} (h : NoticedBy s t p) (hs : s'.sqs = s.sqs) (ht : t'.sqs = t.sqs)
    (hl : t'.lanes = t.lanes) : NoticedBy s' t' p := by
  unfold NoticedBy State.sq State.lane at *
  rwa [hs, ht, hl]

/-! ### The flush of a lane, as the statements give it -/

section
variable {s : State} {l : Fin 4} (st : Status)

/-- What a running lane completes: its segment with its progress, and then its queue (R41, R89). -/
theorem State.flushCompletions_running {r : Running} (h : (s.lane l).state = .running r) : s.flushCompletions l st =
    runCompletion s l r st 1 :: (s.lane l).queue.map fun g => plainCompletion g.origin st (some l) 0 := by
  rw [State.flushCompletions, h, ← State.ranCompletion_eq]
  rfl

theorem State.flushCompletions_gated {g : Segment} {rest : List Segment} (h : (s.lane l).state = .gated)
    (hq : (s.lane l).queue = g :: rest) : s.flushCompletions l st =
    plainCompletion g.origin st (some l) 2 :: rest.map fun g => plainCompletion g.origin st (some l) 0 := by
  rw [State.flushCompletions, h, hq]
  rfl

theorem State.flushCompletions_other (hr : ∀ r, (s.lane l).state ≠ .running r) (hg : (s.lane l).state = .gated → (s.lane l).queue = []) :
    s.flushCompletions l st = (s.lane l).queue.map fun g => plainCompletion g.origin st (some l) 0 := by
  unfold State.flushCompletions
  dsimp only
  split
  · next r h => exact absurd h (hr r)
  · next h => rw [hg h]; rfl
  · rfl

end

theorem LaneState.afterFlush_eq {x : LaneState} (h : x ≠ .unbound) : x.afterFlush = if x = .held then .held else .idle := by
  cases x <;> simp_all [LaneState.afterFlush]

theorem Gate.without_eq {g : Gate} {l : Fin 4} (h : g.arrivals.getLsbD l.val = true) : g.without l =
    { g with
      arrivals := (g.without l).arrivals
      waitTimer := if (g.without l).arrivals = 0 then none else g.waitTimer } := by
  rw [Gate.without, if_pos h]

/-! ### HALT (R40, R41) -/

/-- A lane that has taken a HALT: flushed, with the HALT's own DONE last. -/
def State.haltTaken (s : State) (l : Fin 4) (o : Origin) (offset : Nat) : State :=
  (s.flushLane l .aborted offset).addOutbox l [neverStarted o .done (some l) (s.flushCompletions l .aborted).length]

section
variable (s : State) (l : Fin 4) (o : Origin) (offset : Nat)

theorem State.haltTaken_lane (k : Fin 4) : (s.haltTaken l o offset).lane k =
    if k = l then
      { (s.lane l).flushed (s.flushCompletions l .aborted) with
        outbox := (s.lane l).outbox ++ s.flushCompletions l .aborted ++
          [neverStarted o .done (some l) (s.flushCompletions l .aborted).length] }
    else s.lane k := by
  rw [State.haltTaken, State.addOutbox, State.updLane_lane, State.flushLane_lane, State.flushLane_lane, if_pos rfl]
  split
  · rfl
  · rfl

theorem State.takeHalt_eq : s.takeHalt l o offset = (s.haltTaken l o offset).readinessNotice l := by
  have h : s.takeHalt l o offset = ((s.haltTaken l o offset).startTest l).readinessNotice l := rfl
  rw [h, State.startTest_of_outbox]
  rw [State.haltTaken_lane, if_pos rfl]
  exact List.append_ne_nil_of_right_ne_nil _ (List.cons_ne_nil _ _)

theorem State.haltTaken_frame : ∃ ch la sl ga,
    s.haltTaken l o offset = { s with channels := ch, lanes := la, slots := sl, gates := ga } := by
  obtain ⟨ch, la, sl, ga, h⟩ := s.flushLane_frame l .aborted offset
  exact ⟨ch, _, sl, ga, by rw [State.haltTaken, h]; rfl⟩

theorem State.haltTaken_channel (c : Fin 6) : (s.haltTaken l o offset).channel c = (s.laneOff l offset).channel c :=
  s.flushLane_channel l .aborted offset c

theorem State.haltTaken_gate (g : Fin 4) : (s.haltTaken l o offset).gate g = (s.gate g).without l :=
  s.flushLane_gate l .aborted offset g

theorem State.haltTaken_slot (n : Fin 16) : (s.haltTaken l o offset).slot n =
    { s.slot n with useCount := (s.slot n).useCount - (s.lane l).segments.countP fun g => g.uses n } :=
  s.flushLane_slot l .aborted offset n

end

/-- Settles O35: the flush, the DONE, and the notice; with the DONE in its outbox the lane starts nothing. -/
theorem haltFlushesLane : Obligations.HaltFlushesLane := by
  intro s q r l offset hHolds hl hno hb
  have hready : (s.lane l).readyFor .halt = true := by
    have : (s.lane l).holdsHalt = false := by
      rw [Lane.holdsHalt, List.any_eq_false]
      exact fun c hc => by simpa [kindHalt] using hno c hc
    rw [Lane.readyFor, this, Bool.not_false]
  let w := s.consume q
  let o := identity s q r
  have hexec : exec (.halt offset) s = .next (((w.haltTaken l o offset).readinessNotice l).fetchIdle) := by
    rw [exec_halt hHolds, State.handleHalt_delivered hl hready hb, State.takeHalt_eq]
  have hstep : LaneStep w ((w.haltTaken l o offset).readinessNotice l) := by
    rw [← State.takeHalt_eq]
    exact .takeHalt w l o offset
  obtain ⟨ch, la, sl, ga, hframe⟩ := w.haltTaken_frame l o offset
  have hsqs : (w.haltTaken l o offset).sqs = w.sqs := by rw [hframe]
  have hlane (k : Fin 4) : (((w.haltTaken l o offset).readinessNotice l).fetchIdle).lane k = (w.haltTaken l o offset).lane k := by
    rw [State.fetchIdle_lane, State.readinessNotice_lane]
  have hchannel (c : Fin 6) : (((w.haltTaken l o offset).readinessNotice l).fetchIdle).channel c = (w.laneOff l offset).channel c := by
    rw [State.fetchIdle_channel, State.readinessNotice_channel, State.haltTaken_channel]
  have hgate (g : Fin 4) : (((w.haltTaken l o offset).readinessNotice l).fetchIdle).gate g = (w.gate g).without l := by
    rw [State.fetchIdle_gate, State.readinessNotice_gate, State.haltTaken_gate]
  refine ⟨_, hexec, .of_laneStep hstep, .of_alike (.after (.readinessNotice _ l) hsqs) (State.fetchIdle_sqs _), ?_⟩
  intro queued aborted
  have hcs : w.flushCompletions l .aborted = aborted := by
    dsimp only [aborted]
    split
    · next run hr => exact State.flushCompletions_running (s := w) .aborted hr
    · next g rest hg hq => exact State.flushCompletions_gated (s := w) .aborted hg hq
    · next hr hg =>
      refine State.flushCompletions_other (s := w) .aborted (fun x hx => hr x hx) fun hst => ?_
      by_contra hne
      obtain ⟨g, rest, hq⟩ := List.exists_cons_of_ne_nil hne
      exact hg g rest hst hq
  refine ⟨?_, fun k hk => ?_, fun c ho => ?_, fun c ho => ?_, fun g => ⟨fun hg => ?_, fun hg => ⟨fun k => ?_, ?_⟩⟩, fun n => ?_, ⟨w, ?_, ?_⟩, ?_⟩
  · rw [hlane, State.haltTaken_lane, if_pos rfl, hcs, ← LaneState.afterFlush_eq hb]
    rfl
  · rw [hlane, State.haltTaken_lane, if_neg hk]
    rfl
  · rw [hchannel, State.laneOff_channel, if_pos (by exact ho), Channel.turnOff_code]
  · rw [hchannel, State.laneOff_channel, if_neg (by exact ho)]
    rfl
  · rw [hgate, Gate.without_of_absent (by exact hg)]
    rfl
  · rw [hgate, Gate.without_arrivals]
    rfl
  · rw [hgate]
    exact Gate.without_eq hg
  · rw [State.fetchIdle_slot, State.readinessNotice_slot, State.haltTaken_slot]
    rfl
  · exact s.consume_consumed q
  · rw [noticed_iff]
    simp only [laneBit_getLsbD]
    exact (State.readinessNotice_noticed (w.haltTaken l o offset) l).congr hsqs.symm (State.fetchIdle_sqs _) (State.fetchIdle_lanes _)
  · rw [State.fetchIdle_eq, hframe]
    rfl

/-! ### SEGMENT (R25) -/

/-- A segment at the tail of a lane's queue, its slot in use, before the start test. -/
def State.joined (s : State) (l : Fin 4) (g : Segment) : State := (s.holdSlot g).updLane l (Lane.joined · g)

section
variable (s : State) (l : Fin 4) (g : Segment)

theorem State.deliverSegment_on (h : s.permitOn = true) : s.deliverSegment l g = (s.joined l g).startTest l := if_pos h

theorem State.deliverSegment_off (h : s.permitOn = false) :
    s.deliverSegment l g = (s.addOutbox l [plainCompletion g.origin .disabled (some l) 0]).laneFault l := by
  rw [State.deliverSegment, h, if_neg Bool.false_ne_true]
  rfl

theorem State.joined_frame : ∃ la sl, s.joined l g = { s with lanes := la, slots := sl } := by
  obtain ⟨v, hv⟩ := s.holdSlot_frame g
  exact ⟨_, v, by rw [State.joined, hv]; rfl⟩

theorem State.joined_slot (n : Fin 16) : (s.joined l g).slot n =
    { s.slot n with useCount := if g.uses n then (s.slot n).useCount + 1 else (s.slot n).useCount } := by
  rw [State.joined, State.updLane_slot, State.holdSlot_slot]

theorem State.joined_mayStart : (s.joined l g).mayStart l = s.mayStart l := by
  have hl := (s.joined_lane l g l).trans (if_pos rfl)
  obtain ⟨la, sl, hf⟩ := s.joined_frame l g
  have hp : (s.joined l g).permitOn = s.permitOn := by rw [hf]; rfl
  have hd : (s.joined l g).domainsArmed l = s.domainsArmed l := by
    unfold State.domainsArmed State.meetsDomain
    rw [show (s.joined l g).lane l = (s.lane l).joined g from hl, hf]
    rfl
  unfold State.mayStart
  rw [hp, hd, show (s.joined l g).lane l = (s.lane l).joined g from hl]
  rfl

end

/-- Settles O33: the delivery up to the start test, and the start test. -/
theorem validSegmentIsDelivered : Obligations.ValidSegmentIsDelivered := by
  intro s q r l hHolds hl hready hb hno seg
  have hexec : exec .segment s = .next (((s.consume q).deliverSegment l seg).fetchIdle) := by
    rw [exec_segment hHolds, State.handleSegment_delivered hl (Lane.readyFor_segment.mpr hready) hb (State.segmentCheck_none hno)]
  have hstep : LaneStep (s.consume q) ((s.consume q).deliverSegment l seg) := .deliverSegment _ l seg
  refine ⟨_, hexec, .of_laneStep hstep, ?_, fun hoff => ?_, fun hon => ?_, fun hon hm hq hg => ?_⟩
  · refine .of_alike ?_ (State.fetchIdle_sqs _)
    cases hp : (s.consume q).permitOn with
    | true =>
      rw [State.deliverSegment_on _ _ _ hp]
      obtain ⟨la, sl, hf⟩ := (s.consume q).joined_frame l seg
      exact .after (.startTest _ l) (by rw [hf])
    | false =>
      rw [State.deliverSegment_off _ _ _ hp]
      exact .after (Minor.laneFault _ l).sqsAlike rfl
  · have hd := State.deliverSegment_off (s.consume q) l seg hoff
    let u := (s.consume q).addOutbox l [plainCompletion seg.origin .disabled (some l) 0]
    obtain ⟨st, ev, hf⟩ := u.freezeBoth_frame (.onLaneFault l)
    have hu (k : Fin 4) : (u.laneFault l).lane k = u.lane k := congrArg (·[k]) (Minor.laneFault u l).lanes
    have hlane (k : Fin 4) : (((s.consume q).deliverSegment l seg).fetchIdle).lane k =
        if k = l then { s.lane l with outbox := (s.lane l).outbox ++ [plainCompletion seg.origin .disabled (some l) 0] } else s.lane k := by
      rw [State.fetchIdle_lane, hd, hu]
      exact (s.consume q).updLane_lane l (fun ln => { ln with outbox := ln.outbox ++ [plainCompletion seg.origin .disabled (some l) 0] }) k
    refine ⟨(hlane l).trans (if_pos rfl), fun k hk => (hlane k).trans (if_neg hk), ?_, ?_, ?_⟩
    · refine (s.consume_consumed q).of_sqs ?_
      rw [State.fetchIdle_sqs, hd]
      exact (Minor.laneFault u l).sqs
    · refine (u.freezeBoth_freezes (.onLaneFault l)).congr rfl rfl rfl ?_ ?_ fun _ => Iff.rfl
      · rw [State.fetchIdle_eq, hd]
        rfl
      · rw [State.fetchIdle_eq, hd]
        rfl
    · rw [State.fetchIdle_eq, hd, State.laneFault_eq, hf]
      rfl
  · obtain ⟨la, sl, hf⟩ := (s.consume q).joined_frame l seg
    have hlane (k : Fin 4) := (s.consume q).joined_lane l seg k
    have hself : ((s.consume q).joined l seg).lane l = (s.lane l).joined seg := (hlane l).trans (if_pos rfl)
    have hmay : ((s.consume q).joined l seg).mayStart l = s.mayStart l := State.joined_mayStart _ l seg
    refine ⟨(s.consume q).joined l seg, ((s.consume q).joined l seg).startTest l, hself, fun k hk => (hlane k).trans (if_neg hk), fun n => ?_, ?_, ?_,
      fun hn => State.startTest_none (.inr (hmay.trans hn)), fun hm hok g rest hq => ?_, ?_⟩
    · exact (s.consume q).joined_slot l seg n
    · exact (s.consume_consumed q).of_sqs (by rw [hf])
    · rw [hf]
      rfl
    · have ha : (s.consume q).ArrivalsOk := hok.2
      exact State.startTest_takesHead (State.joined_arrivalsOk ha) (hmay.trans hm) ((congrArg Lane.queue hself).trans hq)
    · rw [State.fetchIdle_eq, State.deliverSegment_on (s.consume q) l seg hon]
  · have hself : ((s.consume q).joined l seg).lane l = (s.lane l).joined seg := ((s.consume q).joined_lane l seg l).trans (if_pos rfl)
    have hqueue : (((s.consume q).joined l seg).lane l).queue = seg :: [] := by
      rw [hself, Lane.joined, hq]
      rfl
    have hmay : ((s.consume q).joined l seg).mayStart l = true := (State.joined_mayStart _ l seg).trans hm
    have hstart : ((s.consume q).deliverSegment l seg).fetchIdle = (((s.consume q).joined l seg).startHead l).fetchIdle := by
      rw [State.deliverSegment_on (s.consume q) l seg hon, State.startTest_ungated hmay hqueue hg]
    have hlane : (((s.consume q).deliverSegment l seg).fetchIdle).lane l =
        ((s.lane l).joined seg).started (freshRun ((s.consume q).joined l seg) seg) [] := by
      rw [hstart, State.fetchIdle_lane, State.startHead_lane hqueue, if_pos rfl, hself]
    refine ⟨freshRun ((s.consume q).joined l seg) seg, by rw [hlane]; rfl, rfl, rfl, rfl, rfl, rfl, by rw [hlane]; rfl, by rw [hlane]; rfl, fun c ho => ?_⟩
    rw [hstart, State.fetchIdle_channel, State.startHead_channel hqueue, State.applyPhase_channel]
    obtain ⟨la, sl, hf⟩ := (s.consume q).joined_frame l seg
    rw [hf]
    exact if_neg ho

end Sys2Proof.Machine
end


section
/-! PROOFS. Re-arming: the lanes that leave HELD (R84), SET_DOMAINS (O39) and REARM (O40). -/

namespace Sys2Proof.Machine

-- One declaration after another: so the whole text compiles within the memory of the check.
set_option Elab.async false

/-! ### One lane is handed a re-arming -/

/-- A lane that a re-arming releases (R84). -/
def State.releasable (s : State) (l : Fin 4) : Prop := (s.lane l).state = .held ∧ s.domainsArmed l = true

/-- A lane made IDLE. -/
def State.idled (s : State) (l : Fin 4) : State := s.updLane l fun ln => { ln with state := .idle }

section
variable {s : State} {l : Fin 4}

theorem State.leaveHeld_released (h : s.releasable l) : s.leaveHeld l = (s.idled l).startTest l := if_pos h

theorem State.leaveHeld_none (h : ¬s.releasable l) : s.leaveHeld l = s := if_neg h

theorem State.idled_lane (k : Fin 4) : (s.idled l).lane k = if k = l then { s.lane l with state := .idle } else s.lane k :=
  s.updLane_lane l (fun ln => { ln with state := .idle }) k

theorem State.idled_arrivalsOk (ha : s.ArrivalsOk) (hh : (s.lane l).state = .held) : (s.idled l).ArrivalsOk :=
  ha.of_lane l rfl (fun k hk => (State.idled_lane k).trans (if_neg hk)) fun g hg =>
    absurd hg (Lane.gatedOn_of_not_gated (hh ▸ LaneState.noConfusion) g)

theorem State.leaveHeld_arrivalsOk (ha : s.ArrivalsOk) : (s.leaveHeld l).ArrivalsOk := by
  by_cases h : s.releasable l
  · rw [State.leaveHeld_released h]
    exact (State.startTest_startsOnly (State.idled_arrivalsOk ha h.1) l).arrivals
  · rwa [State.leaveHeld_none h]

/-- The re-arming of one lane, as R84 gives it. -/
theorem State.leaveHeld_handed (ha : s.ArrivalsOk) : HandedRearming s (s.leaveHeld l) l := by
  have hiff : s.releasable l ↔ (s.lane l).state = .held ∧ ∀ d : Fin 3, s.meetsDomain l d = true → (s.domain d).state = .armed :=
    and_congr_right fun _ => State.domainsArmed_iff_meets
  have hself : (s.idled l).lane l = { s.lane l with state := .idle } := (State.idled_lane l).trans (if_pos rfl)
  refine ⟨fun hn => State.leaveHeld_none (mt hiff.mp hn), fun hr => ⟨fun hn => ?_, fun g rest hq hm => ?_⟩⟩
  · rw [State.leaveHeld_released (hiff.mpr hr)]
    refine State.startTest_none (hn.imp_left fun hq => ?_)
    rw [hself]
    exact hq
  · rw [State.leaveHeld_released (hiff.mpr hr)]
    refine State.startTest_takesHead (s := s.idled l) (rest := rest) (State.idled_arrivalsOk ha hr.1) hm ?_
    rw [hself]
    exact hq

/-- A lane that is not HELD does not become HELD. -/
theorem State.leaveHeld_keeps (k : Fin 4) (h : (s.lane k).state ≠ .held) : ((s.leaveHeld l).lane k).state ≠ .held := by
  by_cases hr : s.releasable l
  · rw [State.leaveHeld_released hr]
    refine fun hk => absurd ((State.startTest_keeps (s.idled l) l k).held hk) ?_
    rw [State.idled_lane]
    split
    · exact LaneState.noConfusion
    · exact h
  · rwa [State.leaveHeld_none hr]

/-- A lane whose domains are ARMED is not HELD once it has been handed a re-arming. -/
theorem State.leaveHeld_self (hd : s.domainsArmed l = true) : ((s.leaveHeld l).lane l).state ≠ .held := by
  by_cases hr : s.releasable l
  · rw [State.leaveHeld_released hr]
    refine fun hk => absurd ((State.startTest_keeps (s.idled l) l l).held hk) ?_
    rw [State.idled_lane, if_pos rfl]
    exact LaneState.noConfusion
  · rw [State.leaveHeld_none hr]
    exact fun hh => hr ⟨hh, hd⟩

/-- A HELD lane with a domain that is not ARMED stays as it is, whatever lane is handed a re-arming. -/
theorem State.leaveHeld_lane_held (ha : s.ArrivalsOk) {k : Fin 4} (hh : (s.lane k).state = .held) (hd : s.domainsArmed k = false) :
    (s.leaveHeld l).lane k = s.lane k := by
  by_cases hr : s.releasable l
  · have hkl : k ≠ l := fun hkl => by
      rw [hkl, hr.2] at hd
      cases hd
    have hk : (s.idled l).lane k = s.lane k := (State.idled_lane k).trans (if_neg hkl)
    rw [State.leaveHeld_released hr]
    by_contra hne
    rcases (State.startTest_startsOnly (State.idled_arrivalsOk ha hr.1) l).allowed k (by rwa [hk]) with hg | ⟨hkl', -⟩
    · rw [hk, hh] at hg
      cases hg
    · exact hkl hkl'
  · rw [State.leaveHeld_none hr]

end

/-! ### All lanes, in the order of their numbers -/

section
variable {s : State}

theorem State.rearmLanes_rearmed (ha : s.ArrivalsOk) : LanesRearmed s s.rearmLanes :=
  have ha0 : (s.leaveHeld 0).ArrivalsOk := State.leaveHeld_arrivalsOk ha
  have ha1 : ((s.leaveHeld 0).leaveHeld 1).ArrivalsOk := State.leaveHeld_arrivalsOk ha0
  have ha2 : (((s.leaveHeld 0).leaveHeld 1).leaveHeld 2).ArrivalsOk := State.leaveHeld_arrivalsOk ha1
  ⟨s.leaveHeld 0, (s.leaveHeld 0).leaveHeld 1, ((s.leaveHeld 0).leaveHeld 1).leaveHeld 2, State.leaveHeld_handed ha,
    State.leaveHeld_handed ha0, State.leaveHeld_handed ha1, State.leaveHeld_handed ha2⟩

theorem State.leaveHelds_not_held {l : Fin 4} : ∀ (ls : List (Fin 4)) (s : State), s.domainsArmed l = true →
    (l ∈ ls ∨ (s.lane l).state ≠ .held) → ((ls.foldl (fun s l => s.leaveHeld l) s).lane l).state ≠ .held
  | [], _, _, h => h.resolve_left List.not_mem_nil
  | k :: ls, s, hd, h => by
    have hd' : (s.leaveHeld k).domainsArmed l = true := ((LaneStep.leaveHeld s k).domainsArmed l).trans hd
    refine State.leaveHelds_not_held ls (s.leaveHeld k) hd' ?_
    by_cases hlk : l = k
    · subst hlk
      exact .inr (State.leaveHeld_self hd)
    · exact h.imp (fun hm => (List.mem_cons.mp hm).resolve_left hlk) (State.leaveHeld_keeps l)

/-- A lane whose domains are ARMED is not HELD after a re-arming. -/
theorem State.rearmLanes_not_held {l : Fin 4} (hd : s.domainsArmed l = true) : (s.rearmLanes.lane l).state ≠ .held :=
  State.leaveHelds_not_held allLanes s hd (.inl (mem_allLanes l))

/-- A HELD lane with a domain that is not ARMED stays as it is. -/
theorem State.rearmLanes_lane_held (ha : s.ArrivalsOk) {l : Fin 4} (hh : (s.lane l).state = .held) (hd : s.domainsArmed l = false) :
    s.rearmLanes.lane l = s.lane l :=
  (State.foldl_keeps (P := fun t => t.ArrivalsOk ∧ t.domainsArmed l = false ∧ t.lane l = s.lane l) (fun t k ⟨hat, hdt, hlt⟩ =>
    ⟨State.leaveHeld_arrivalsOk hat, ((LaneStep.leaveHeld t k).domainsArmed l).trans hdt,
      (State.leaveHeld_lane_held hat (hlt ▸ hh) hdt).trans hlt⟩) allLanes s ⟨ha, hd, rfl⟩).2.2

/-- With the queues of HELD lanes empty a re-arming starts nothing. -/
theorem State.leaveHelds_lane (l : Fin 4) : ∀ (ls : List (Fin 4)) (s : State), ls.Nodup → (∀ k, s.domainsArmed k = true) →
    (∀ k, (s.lane k).state = .held → (s.lane k).queue = []) → (ls.foldl (fun s l => s.leaveHeld l) s).lane l =
      if l ∈ ls ∧ (s.lane l).state = .held then { s.lane l with state := .idle } else s.lane l
  | [], _, _, _, _ => by rw [if_neg fun h => List.not_mem_nil h.1]; rfl
  | k :: ls, s, hnd, hd, hq => by
    obtain ⟨hk, hnd⟩ := List.nodup_cons.mp hnd
    have hlane (j : Fin 4) : (s.leaveHeld k).lane j = if j = k ∧ (s.lane j).state = .held then { s.lane j with state := .idle } else s.lane j := by
      by_cases hr : s.releasable k
      · have hself : ((s.idled k).lane k).queue = [] := by
          rw [State.idled_lane, if_pos rfl]
          exact hq k hr.1
        rw [State.leaveHeld_released hr, State.startTest_none (.inl hself), State.idled_lane]
        by_cases hj : j = k
        · rw [if_pos hj, if_pos ⟨hj, hj ▸ hr.1⟩, hj]
        · rw [if_neg hj, if_neg fun h => hj h.1]
      · rw [State.leaveHeld_none hr, if_neg]
        rintro ⟨rfl, hh⟩
        exact hr ⟨hh, hd j⟩
    rw [List.foldl_cons, State.leaveHelds_lane l ls (s.leaveHeld k) hnd (fun j => ((LaneStep.leaveHeld s k).domainsArmed j).trans (hd j))
      fun j hj => ?_]
    · rw [hlane]
      by_cases hlk : l = k
      · subst hlk
        by_cases hh : (s.lane l).state = .held
        · simp [hh, hk]
        · simp [hh]
      · simp [hlk]
    · rw [hlane] at hj ⊢
      split at hj
      · cases hj
      · next hn => rw [if_neg hn]; exact hq j hj

end

/-! ### A command that re-arms, and its completion -/

/-- Every SQ but for its state, so the identity of a record. -/
theorem SqsAlike.identity {s t : State} (h : SqsAlike s t) (q : Fin 4) (r : List Byte) : identity t q r = identity s q r := by
  unfold Sys2Proof.Machine.identity
  rw [h q]

theorem SqsAlike.leaveHeld (s : State) (l : Fin 4) : SqsAlike s (s.leaveHeld l) :=
  .ite (fun _ => .after (.startTest _ l) rfl) fun _ => .refl s

theorem SqsAlike.rearmLanes (s : State) : SqsAlike s s.rearmLanes := .foldl SqsAlike.leaveHeld allLanes s

theorem Advances.of_consumed {s w t : State} {q : Fin 4} (h : SqsAlike s w) (hc : Consumed w t q) : Advances s t q := by
  obtain ⟨hself, hne⟩ := hc
  refine ⟨?_, ?_, ?_, fun p hp => ?_⟩
  · rw [hself, h q]
  · rw [hself, h q]
  · rw [hself, h q]
  · rw [hne p hp, h p]
    exact ⟨rfl, rfl, rfl⟩

theorem LaneStep.domains {s t : State} (h : LaneStep s t) : t.domains = s.domains := by
  obtain ⟨_, _, _, _, _, _, _, rfl⟩ := h.work
  rfl

theorem LaneStep.engine {s t : State} (h : LaneStep s t) : t.engine = s.engine := by
  obtain ⟨_, _, _, _, _, _, _, rfl⟩ := h.work
  rfl

theorem OnlyFetchSide.domains {s t : State} (h : OnlyFetchSide s t) : t.domains = s.domains := by rw [h]

theorem OnlyFetchSide.lanes {s t : State} (h : OnlyFetchSide s t) : t.lanes = s.lanes := by rw [h]

/-- The lanes have been handed a re-arming, and the record is completed DONE (R82 to R84). -/
theorem State.rearmed_answers {s v : State} (hv : v = { s with domains := v.domains }) (q : Fin 4) (r : List Byte) (detail : Nat) :
    let t := v.rearmLanes.refuse q r .done none detail
    Advances s t q ∧ HandedOver s t (plainCompletion (identity s q r) .done none detail) ∧ t.domains = v.domains ∧
      Consumed v.rearmLanes t q ∧ t.lanes = v.rearmLanes.lanes ∧
      t = { v.rearmLanes with sqs := t.sqs, fetch := t.fetch, pendingList := t.pendingList, engine := t.engine } := by
  intro t
  have hstep := LaneStep.rearmLanes v
  have hpending : v.rearmLanes.pendingList = s.pendingList := hstep.pendingList.trans (by rw [hv])
  have hengine : v.rearmLanes.engine = s.engine := hstep.engine.trans (by rw [hv])
  have halike : SqsAlike s v.rearmLanes := .after (.rearmLanes v) (by rw [hv])
  obtain ⟨hconsumed, hover⟩ := v.rearmLanes.refuse_completes q r .done none detail
  have honly := v.rearmLanes.refuse_only q r .done none detail
  rw [halike.identity] at hover
  exact ⟨.of_consumed halike hconsumed, hover.congr hpending.symm hengine.symm, honly.domains.trans hstep.domains, hconsumed, honly.lanes, honly⟩

theorem find_first_number {n : Nat} {xs : List (Fin n)} {f : Fin n → Bool} {P : Fin n → Prop} (hP : ∀ c, P c ↔ f c = true)
    (hs : xs.Pairwise (· < ·)) {c : Fin n} (hc : c ∈ xs) (h : P c) (hl : ∀ k, k < c → ¬P k) : xs.find? f = some c :=
  find_lowest hs c hc ((hP c).mp h) fun k hk => Bool.not_eq_true _ ▸ fun hf => hl k hk ((hP k).mpr hf)

theorem find_first_none {n : Nat} {xs : List (Fin n)} {f : Fin n → Bool} {P : Fin n → Prop} (hP : ∀ c, P c ↔ f c = true)
    (h : ∀ c, ¬P c) : xs.find? f = none :=
  List.find?_eq_none.mpr fun c _ hf => h c ((hP c).mpr hf)

/-! ### SET_DOMAINS (R81, R82) -/

section
variable {s : State} {q : Fin 4} {r : List Byte}

theorem exec_setDomains (h : s.Holds 0x13 q r) : exec .setDomains s = .next (s.handleSetDomains q r) :=
  State.act_withRecord h State.handleSetDomains

theorem exec_rearm (h : s.Holds 0x14 q r) : exec .rearm s = .next (s.handleRearm q r) := State.act_withRecord h State.handleRearm

theorem State.handleSetDomains_badDomain {c : Fin 6} (hc : 2 < byteAt r (4 + c.val)) (hl : ∀ k : Fin 6, k < c → ¬2 < byteAt r (4 + k.val)) :
    s.handleSetDomains q r = s.refuse q r .badArgument none (0x10 + c.val) := by
  have hfind : allChannels.find? (fun c => decide (2 < byteAt r (4 + c.val))) = some c :=
    find_first_number (fun _ => decide_eq_true_iff.symm) (by decide) (mem_allChannels c) hc hl
  simp only [State.handleSetDomains, hfind]

variable (hd : ∀ c : Fin 6, ¬2 < byteAt r (4 + c.val))
include hd

theorem State.handleSetDomains_badLimit {d : Fin 3} (h : 15 < byteAt r (10 + d.val)) (hl : ∀ k : Fin 3, k < d → ¬15 < byteAt r (10 + k.val)) :
    s.handleSetDomains q r = s.refuse q r .badArgument none (0x20 + d.val) := by
  have hnoDomain : allChannels.find? (fun c => decide (2 < byteAt r (4 + c.val))) = none := find_first_none (fun _ => decide_eq_true_iff.symm) hd
  have hfind : allDomains.find? (fun d => decide (15 < domainLimit r d)) = some d :=
    find_first_number (fun _ => decide_eq_true_iff.symm) (by decide) (by fin_cases d <;> decide) h hl
  simp only [State.handleSetDomains, hnoDomain, hfind]

variable (hlimit : ∀ d : Fin 3, ¬15 < byteAt r (10 + d.val))
include hlimit

theorem State.handleSetDomains_driven {c : Fin 6} (h : (s.channel c).code ≠ .off) (hl : ∀ k : Fin 6, k < c → ¬(s.channel k).code ≠ .off) :
    s.handleSetDomains q r = s.refuse q r .busy none c.val := by
  have hnoDomain : allChannels.find? (fun c => decide (2 < byteAt r (4 + c.val))) = none := find_first_none (fun _ => decide_eq_true_iff.symm) hd
  have hnoLimit : allDomains.find? (fun d => decide (15 < domainLimit r d)) = none := find_first_none (fun _ => decide_eq_true_iff.symm) hlimit
  have hfind : allChannels.find? (fun c => (s.channel c).code != .off) = some c :=
    find_first_number (fun _ => bne_iff_ne.symm) (by decide) (mem_allChannels c) h hl
  simp only [State.handleSetDomains, hnoDomain, hnoLimit, hfind]

variable (hoff : ∀ c : Fin 6, ¬(s.channel c).code ≠ .off)
include hoff

theorem State.handleSetDomains_running {l : Fin 4} (h : (s.lane l).isRunning = true) (hl : ∀ k : Fin 4, k < l → ¬(s.lane k).isRunning = true) :
    s.handleSetDomains q r = s.refuse q r .busy none (0x10 + l.val) := by
  have hnoDomain : allChannels.find? (fun c => decide (2 < byteAt r (4 + c.val))) = none := find_first_none (fun _ => decide_eq_true_iff.symm) hd
  have hnoLimit : allDomains.find? (fun d => decide (15 < domainLimit r d)) = none := find_first_none (fun _ => decide_eq_true_iff.symm) hlimit
  have hnoDrive : allChannels.find? (fun c => (s.channel c).code != .off) = none := find_first_none (fun _ => bne_iff_ne.symm) hoff
  have hfind : allLanes.find? (fun l => (s.lane l).isRunning) = some l :=
    find_first_number (fun _ => Iff.rfl) (by decide) (mem_allLanes l) h hl
  simp only [State.handleSetDomains, hnoDomain, hnoLimit, hnoDrive, hfind]

theorem State.handleSetDomains_accepted (h : ∀ l : Fin 4, ¬(s.lane l).isRunning = true) :
    s.handleSetDomains q r = (s.setDomains r).refuse q r .done none 0 := by
  have hnoDomain : allChannels.find? (fun c => decide (2 < byteAt r (4 + c.val))) = none := find_first_none (fun _ => decide_eq_true_iff.symm) hd
  have hnoLimit : allDomains.find? (fun d => decide (15 < domainLimit r d)) = none := find_first_none (fun _ => decide_eq_true_iff.symm) hlimit
  have hnoDrive : allChannels.find? (fun c => (s.channel c).code != .off) = none := find_first_none (fun _ => bne_iff_ne.symm) hoff
  have hnoLane : allLanes.find? (fun l => (s.lane l).isRunning) = none := find_first_none (fun _ => Iff.rfl) h
  simp only [State.handleSetDomains, hnoDomain, hnoLimit, hnoDrive, hnoLane]

end

/-- The domains that a SET_DOMAINS record gives (R82). -/
def State.withDomains (s : State) (r : List Byte) : State :=
  s.mapDomains fun d _ => { members := domainMembers r d, state := .armed, tripCount := 0, tripLimit := domainLimit r d }

theorem State.withDomains_domain (s : State) (r : List Byte) (d : Fin 3) : (s.withDomains r).domain d =
    { members := domainMembers r d, state := .armed, tripCount := 0, tripLimit := domainLimit r d } := State.mapDomains_domain ..

theorem State.withDomains_armed (s : State) (r : List Byte) (l : Fin 4) : (s.withDomains r).domainsArmed l = true :=
  State.domainsArmed_iff_meets.mpr fun d _ => by rw [State.withDomains_domain]

/-- Settles O39: with every domain ARMED every HELD lane is released in its turn. -/
theorem setDomainsFollowsItsTable : Obligations.SetDomainsFollowsItsTable := by
  intro s q r hHolds
  refine ⟨_, exec_setDomains hHolds, fun c hc hl => refuse_answers (State.handleSetDomains_badDomain hc hl), fun hd =>
    ⟨fun d hd' hl => refuse_answers (State.handleSetDomains_badLimit hd hd' hl), fun hlimit =>
      ⟨fun c hc hl => refuse_answers (State.handleSetDomains_driven hd hlimit hc hl), fun hoff =>
        ⟨fun l hrun hl => refuse_answers (State.handleSetDomains_running hd hlimit hoff hrun hl), fun hrun => ?_⟩⟩⟩⟩
  rw [State.handleSetDomains_accepted hd hlimit hoff hrun]
  obtain ⟨hadv, hover, hdom, hcons, hlanes, honly⟩ := State.rearmed_answers (s := s) (v := s.withDomains r) rfl q r 0
  have hdomain (d : Fin 3) : (((s.setDomains r).refuse q r .done none 0).domain d) = (s.withDomains r).domain d := congrArg (·[d]) hdom
  have hlane (l : Fin 4) : (((s.setDomains r).refuse q r .done none 0).lane l) = (s.withDomains r).rearmLanes.lane l := congrArg (·[l]) hlanes
  refine ⟨hadv, hover, fun hok => ⟨(s.withDomains r).rearmLanes, ?_, hcons, honly⟩, fun d => ?_, fun l => ?_, fun hq l => ?_⟩
  · have ha : (s.withDomains r).ArrivalsOk := hok.2
    have hs : { s with domains := ((s.setDomains r).refuse q r .done none 0).domains } = s.withDomains r := by
      rw [show ((s.setDomains r).refuse q r .done none 0).domains = (s.withDomains r).domains from hdom]
      rfl
    rw [hs]
    exact State.rearmLanes_rearmed ha
  · rw [hdomain, State.withDomains_domain]
    exact ⟨rfl, rfl, rfl, fun c => domainMembers_iff⟩
  · rw [hlane]
    exact State.rearmLanes_not_held (s.withDomains_armed r l)
  · rw [hlane, State.rearmLanes, State.leaveHelds_lane l allLanes (s.withDomains r) (by decide) (s.withDomains_armed r) hq]
    have hl : (s.withDomains r).lane l = s.lane l := rfl
    rw [hl]
    by_cases hh : (s.lane l).state = .held
    · rw [if_pos ⟨mem_allLanes l, hh⟩, if_pos hh]
    · rw [if_neg fun h => hh h.2, if_neg hh]

/-! ### REARM (R83) -/

section
variable {s : State} {q : Fin 4} {r : List Byte}

theorem State.handleRearm_noDomain (h : 2 < byteAt r 4) : s.handleRearm q r = s.refuse q r .badArgument none 0 := by
  simp only [State.handleRearm, asFin_none h]

variable {d : Fin 3} (hd : byteAt r 4 = d.val)
include hd

theorem State.handleRearm_armed (h : (s.domain d).state = .armed) :
    s.handleRearm q r = s.refuse q r .notTripped none (s.domain d).tripCount := by
  simp only [State.handleRearm, asFin_val d hd, h]

theorem State.handleRearm_locked (h : (s.domain d).state = .locked) :
    s.handleRearm q r = s.refuse q r .lockedOut none (s.domain d).tripCount := by
  simp only [State.handleRearm, asFin_val d hd, h]

theorem State.handleRearm_tripped (h : (s.domain d).state = .tripped) :
    s.handleRearm q r = (s.rearmDomain d).refuse q r .done none (s.domain d).tripCount := by
  simp only [State.handleRearm, asFin_val d hd, h]

end

/-- A domain made ARMED, with its count kept. -/
def State.withArmed (s : State) (d : Fin 3) : State := s.updDomain d fun x => { x with state := .armed }

/-- Settles O40: a HELD lane is released in its turn exactly if its domains are then ARMED, and else nothing reaches it. -/
theorem rearmFollowsItsTable : Obligations.RearmFollowsItsTable := by
  intro s q r hHolds
  refine ⟨_, exec_rearm hHolds, fun h => refuse_answers (State.handleRearm_noDomain h), fun d hd =>
    ⟨fun h => refuse_answers (State.handleRearm_armed hd h), fun h => refuse_answers (State.handleRearm_locked hd h), fun h => ?_⟩⟩
  rw [State.handleRearm_tripped hd h]
  obtain ⟨hadv, hover, hdom, hcons, hlanes, honly⟩ :=
    State.rearmed_answers (s := s) (v := s.withArmed d) rfl q r (s.domain d).tripCount
  let t := (s.rearmDomain d).refuse q r .done none (s.domain d).tripCount
  have hdomain (e : Fin 3) : t.domain e = (s.withArmed d).domain e := congrArg (·[e]) hdom
  have hlane (l : Fin 4) : t.lane l = (s.withArmed d).rearmLanes.lane l := congrArg (·[l]) hlanes
  have harmed (l : Fin 4) : (s.withArmed d).domainsArmed l = false ↔ ∃ e : Fin 3, s.meetsDomain l e = true ∧ (t.domain e).state ≠ .armed := by
    have hmeets (e : Fin 3) : (s.withArmed d).meetsDomain l e = s.meetsDomain l e := by
      have hm : ((s.withArmed d).domain e).members = (s.domain e).members := by
        rw [State.withArmed, State.updDomain_domain]
        split
        · next he => rw [he]
        · rfl
      rw [State.meetsDomain, hm]
      rfl
    rw [← Bool.not_eq_true, State.domainsArmed_iff_meets]
    simp only [hmeets, hdomain, not_forall, exists_prop, ne_eq]
  refine ⟨hadv, hover, ?_, fun e he => ?_, fun hok => ⟨(s.withArmed d).rearmLanes, ?_, hcons, honly⟩, fun hok l hh => ⟨fun ht => ?_, fun hn => ?_⟩,
    fun hok l hh hn => ?_⟩
  · exact (hdomain d).trans (State.updDomain_domain_self ..)
  · exact (hdomain e).trans (State.updDomain_domain_ne (h := he) ..)
  · have ha : (s.withArmed d).ArrivalsOk := hok.2
    have hs : { s with domains := ((s.rearmDomain d).refuse q r .done none (s.domain d).tripCount).domains } = s.withArmed d := by
      rw [show ((s.rearmDomain d).refuse q r .done none (s.domain d).tripCount).domains = (s.withArmed d).domains from hdom]
      rfl
    rw [hs]
    exact State.rearmLanes_rearmed ha
  · refine (harmed l).mp ?_
    by_contra hd'
    exact State.rearmLanes_not_held (Bool.not_eq_false _ ▸ hd') ((congrArg Lane.state (hlane l)).symm.trans ht)
  · have ha : (s.withArmed d).ArrivalsOk := hok.2
    exact (congrArg Lane.state ((hlane l).trans (State.rearmLanes_lane_held ha hh ((harmed l).mpr hn)))).trans hh
  · have ha : (s.withArmed d).ArrivalsOk := hok.2
    exact (hlane l).trans (State.rearmLanes_lane_held ha hh ((harmed l).mpr hn))

end Sys2Proof.Machine
end


section
/-! PROOFS. The loss of the permit, which every lane takes in the order of their numbers (O11). -/

namespace Sys2Proof.Machine

-- One declaration after another: so the whole text compiles within the memory of the check.
set_option Elab.async false

/-! ### Lanes that take something one after another -/

section
variable {β : Type} {f : State → Fin 4 → State} {R : State → State → Prop} {view : State → β} {g : Fin 4 → β → β} {s : State}
  (htrans : ∀ {s t u}, R s t → R t u → R s u) (hf : ∀ s l, R s (f s l))
  (hlane : ∀ s l k, k ≠ l → (f s l).lane k = s.lane k)
  (hview : ∀ u l, R s u → u.lane l = s.lane l → view (f u l) = g l (view u))
include htrans hf hlane hview

/-- What the lanes' turns make of a part of the state, when each turn depends on its own lane alone. -/
theorem State.foldl_view (ls : List (Fin 4)) (hnd : ls.Nodup) (u : State) (hu : R s u) (hul : ∀ l ∈ ls, u.lane l = s.lane l) :
    view (ls.foldl f u) = ls.foldl (fun b l => g l b) (view u) := by
  induction ls generalizing u with
  | nil => rfl
  | cons k ls ih =>
    obtain ⟨hk, hnd⟩ := List.nodup_cons.mp hnd
    rw [List.foldl_cons, List.foldl_cons, ← hview u k hu (hul k (.head ls))]
    refine ih hnd (f u k) (htrans hu (hf u k)) fun l hl => ?_
    rw [hlane u k l fun hlk => hk (hlk ▸ hl)]
    exact hul l (.tail k hl)

end

/-- A gate from whose arrival set lanes have gone: a set that so empties stops its wait timer (R64). -/
structure Gate.Left (x y : Gate) : Prop where
  frame : y = { x with arrivals := y.arrivals, waitTimer := if y.arrivals = 0 ∧ x.arrivals ≠ 0 then none else x.waitTimer }
  empty : x.arrivals = 0 → y.arrivals = 0

theorem Gate.Left.refl (x : Gate) : x.Left x := by
  refine ⟨?_, id⟩
  rw [if_neg fun h => h.2 h.1]

theorem Gate.Left.trans {x y z : Gate} (h : x.Left y) (k : y.Left z) : x.Left z := by
  refine ⟨?_, fun hx => k.empty (h.empty hx)⟩
  obtain ⟨hy, hxy⟩ := h
  obtain ⟨hz, hyz⟩ := k
  have hw : y.waitTimer = if y.arrivals = 0 ∧ x.arrivals ≠ 0 then none else x.waitTimer := congrArg Gate.waitTimer hy
  have htimer : (if z.arrivals = 0 ∧ y.arrivals ≠ 0 then none else y.waitTimer) =
      if z.arrivals = 0 ∧ x.arrivals ≠ 0 then none else x.waitTimer := by
    rw [hw]
    by_cases hx0 : x.arrivals = 0
    · rw [if_neg fun h => h.2 (hxy hx0), if_neg fun h => h.2 hx0, if_neg fun h => h.2 hx0]
    · by_cases hy0 : y.arrivals = 0
      · rw [if_neg fun h => h.2 hy0, if_pos ⟨hy0, hx0⟩, if_pos ⟨hyz hy0, hx0⟩]
      · by_cases hz0 : z.arrivals = 0
        · rw [if_pos ⟨hz0, hy0⟩, if_pos ⟨hz0, hx0⟩]
        · rw [if_neg fun h => hz0 h.1, if_neg fun h => hy0 h.1, if_neg fun h => hz0 h.1]
  rw [htimer] at hz
  exact hz.trans (congrArg (fun g : Gate => { g with
    arrivals := z.arrivals, waitTimer := if z.arrivals = 0 ∧ x.arrivals ≠ 0 then none else x.waitTimer }) hy)

theorem Gate.Left.without (x : Gate) (l : Fin 4) : x.Left (x.without l) := by
  by_cases h : x.arrivals.getLsbD l.val = true
  · have hx : x.arrivals ≠ 0 := fun h0 => by
      rw [h0] at h
      simp at h
    refine ⟨?_, fun h0 => absurd h0 hx⟩
    simp only [hx, ne_eq, not_false_eq_true, and_true]
    exact Gate.without_eq h
  · rw [Gate.without_of_absent (Bool.not_eq_true _ ▸ h)]
    exact .refl x

/-- The gate that some lanes, picked by a test, have left one after another. -/
def Gate.withoutThose (x : Gate) (p : Fin 4 → Bool) (ls : List (Fin 4)) : Gate := ls.foldl (fun x l => if p l then x.without l else x) x

theorem Gate.withoutThose_left (p : Fin 4 → Bool) : ∀ (ls : List (Fin 4)) (x : Gate), x.Left (x.withoutThose p ls)
  | [], x => .refl x
  | l :: ls, x => by
    refine Gate.Left.trans ?_ (Gate.withoutThose_left p ls (if p l then x.without l else x))
    split
    · exact .without x l
    · exact .refl x

theorem Gate.withoutThose_arrivals (p : Fin 4 → Bool) (k : Fin 4) : ∀ (ls : List (Fin 4)) (x : Gate),
    (x.withoutThose p ls).arrivals.getLsbD k.val = (x.arrivals.getLsbD k.val && !(p k && decide (k ∈ ls)))
  | [], x => by simp [Gate.withoutThose]
  | l :: ls, x => by
    have h := Gate.withoutThose_arrivals p k ls (if p l then x.without l else x)
    rw [Gate.withoutThose, List.foldl_cons, show ls.foldl _ _ = Gate.withoutThose _ p ls from rfl, h]
    by_cases hk : k = l
    · subst hk
      by_cases hp : p k = true
      · rw [if_pos hp, Gate.without_arrivals]
        simp [hp]
      · simp [hp]
    · by_cases hp : p l = true
      · have hkl : (k != l) = true := bne_iff_ne.mpr hk
        rw [if_pos hp, Gate.without_arrivals, hkl]
        simp [hk]
      · simp [hk, hp]

/-- Slots that segments have given up, lane by lane. -/
theorem Slot.foldl_given (f : Fin 4 → Nat) : ∀ (ls : List (Fin 4)) (p : Slot),
    ls.foldl (fun p l => { p with useCount := p.useCount - f l }) p = { p with useCount := p.useCount - (ls.map f).sum }
  | [], _ => rfl
  | l :: ls, p => by
    rw [List.foldl_cons, Slot.foldl_given f ls, List.map_cons, List.sum_cons, Nat.sub_sub]

/-! ### One lane takes the loss of the permit -/

section
variable (s : State) (l : Fin 4)

/-- The lane completes a segment as the permit goes. -/
def Lane.losesWork (ln : Lane) : Prop := ln.state ≠ .unbound ∧ (ln.isRunning = true ∨ ln.queue ≠ [])

theorem Lane.segments_nil_iff {ln : Lane} : ln.segments = [] ↔ ln.isRunning = false ∧ ln.queue = [] := by
  unfold Lane.segments Lane.isRunning
  cases ln.state <;> simp

theorem State.flushCompletions_nil_iff (st : Status) :
    s.flushCompletions l st = [] ↔ (s.lane l).isRunning = false ∧ (s.lane l).queue = [] := by
  rw [← Lane.segments_nil_iff]
  have h := s.flushCompletions_origins l st
  constructor
  · intro hn
    rw [hn] at h
    exact List.map_eq_nil_iff.mp h.symm
  · intro hn
    rw [hn] at h
    exact List.map_eq_nil_iff.mp h

theorem State.disableLane_eq (h : (s.lane l).state ≠ .unbound) : s.disableLane l =
    (if (s.flushCompletions l .disabled).isEmpty then s.flushLane l .disabled
      else (s.flushLane l .disabled).freezeBoth (.onLaneFault l)).readinessNotice l := by
  rw [State.disableLane, if_neg h]
  cases (s.flushCompletions l .disabled).isEmpty <;> rfl

theorem State.disableLane_unbound (h : (s.lane l).state = .unbound) : s.disableLane l = s := if_pos h

theorem State.readinessNotice_streams (u : State) (l : Fin 4) : (u.readinessNotice l).streams = u.streams := rfl

theorem State.readinessNotice_event (u : State) (l : Fin 4) (e : Fin 12) : (u.readinessNotice l).event e = u.event e := rfl

theorem State.readinessNotice_events (u : State) (l : Fin 4) : (u.readinessNotice l).events = u.events := rfl

/-- The freezes and the notice of one lane. -/
theorem State.disableLane_told : FreezesStreams s (s.disableLane l) (fun f => (s.lane l).losesWork ∧ f = .onLaneFault l) ∧
    NoticedBy s (s.disableLane l) (fun k => k == l && (s.lane l).state != .unbound) ∧
    (∀ e : Fin 12, e ≠ captureStateSource 0 → e ≠ captureStateSource 1 → (s.disableLane l).event e = s.event e) := by
  by_cases h : (s.lane l).state = .unbound
  · rw [State.disableLane_unbound s l h]
    refine ⟨.of_same rfl rfl fun f hf => hf.1.1 h, ?_, fun _ _ _ => rfl⟩
    simp only [h, bne_self_eq_false, Bool.and_false]
    exact (StartsHeadsBy.none s).2.2.2.2.1
  · obtain ⟨ch, la, sl, ga, hframe⟩ := s.flushLane_frame l .disabled 0
    have hlose : (s.lane l).losesWork ↔ ¬(s.flushCompletions l .disabled).isEmpty = true := by
      rw [List.isEmpty_iff, State.flushCompletions_nil_iff, Lane.losesWork]
      simp only [h, ne_eq, not_false_eq_true, true_and, not_and_or, Bool.not_eq_false]
    have hnotice (u : State) (hu : u.sqs = s.sqs) : NoticedBy s (u.readinessNotice l) (fun k => k == l && (s.lane l).state != .unbound) := by
      simp only [bne_iff_ne.mpr h, Bool.and_true]
      exact (State.readinessNotice_noticed u l).congr hu.symm rfl rfl
    rw [State.disableLane_eq s l h]
    split
    · next he =>
      refine ⟨.of_same ?_ ?_ fun f hf => hlose.mp hf.1 he, hnotice _ ?_, fun e _ _ => ?_⟩
      · rw [hframe]; rfl
      · rw [hframe]; rfl
      · rw [hframe]
      · rw [hframe]; rfl
    · next he =>
      have hf := (s.flushLane l .disabled).freezeBoth_freezes (.onLaneFault l)
      obtain ⟨st, ev, hfr⟩ := (s.flushLane l .disabled).freezeBoth_frame (.onLaneFault l)
      have hsame : s.streams = (s.flushLane l .disabled).streams ∧ s.events = (s.flushLane l .disabled).events ∧
          s.tick = (s.flushLane l .disabled).tick := by
        rw [hframe]
        exact ⟨rfl, rfl, rfl⟩
      obtain ⟨hstreams, hevents, htick⟩ := hsame
      refine ⟨hf.congr hstreams hevents htick (State.readinessNotice_streams _ l) (State.readinessNotice_events _ l)
        fun f => ⟨fun h => h.2, fun h => ⟨hlose.mpr he, h⟩⟩, hnotice _ (by rw [hfr, hframe]), fun e h0 h1 => ?_⟩
      rw [State.readinessNotice_event, State.freezeBoth_event_ne _ _ h0 h1, State.event, ← hevents]
      rfl

theorem State.disableLane_channel (c : Fin 6) : (s.disableLane l).channel c =
    if (s.lane l).state = .unbound then s.channel c else (s.laneOff l).channel c := by
  by_cases h : (s.lane l).state = .unbound
  · rw [State.disableLane_unbound s l h, if_pos h]
  · obtain ⟨u, hu, he⟩ := State.disableLane_minor h
    rw [if_neg h, ← s.flushLane_channel l .disabled, he]
    exact congrArg (·[c]) hu.channels

theorem State.disableLane_frame : ∃ ch la ga sl sq st ev, s.disableLane l =
    { s with channels := ch, lanes := la, gates := ga, slots := sl, sqs := sq, streams := st, events := ev } := by
  by_cases h : (s.lane l).state = .unbound
  · exact ⟨_, _, _, _, _, _, _, State.disableLane_unbound s l h⟩
  · obtain ⟨ch, la, sl, ga, hframe⟩ := s.flushLane_frame l .disabled 0
    rw [State.disableLane_eq s l h]
    split
    · rw [hframe]
      exact ⟨_, _, _, _, _, _, _, rfl⟩
    · obtain ⟨st, ev, hfr⟩ := (s.flushLane l .disabled).freezeBoth_frame (.onLaneFault l)
      rw [hfr, hframe]
      exact ⟨_, _, _, _, _, _, _, rfl⟩

theorem Channel.turnOff_of_off {c : Channel} (h : c.code = .off) (now : Tick) (offset : Nat) : c.turnOff now offset = c := if_pos h

end

/-! ### All lanes take the loss of the permit -/

/-- The lanes take the loss of the permit in the order of their numbers (R89). -/
def State.disabledAll (s : State) : State := allLanes.foldl (fun s l => s.disableLane l) s

theorem State.disableLane_lane_ne (s : State) (l k : Fin 4) (hk : k ≠ l) : (s.disableLane l).lane k = s.lane k := by
  rw [State.disableLane_lane, if_neg fun h => hk h.1]

theorem State.disabledAll_gate (s : State) (g : Fin 4) :
    s.disabledAll.gate g = (s.gate g).withoutThose (fun l => (s.lane l).state != .unbound) allLanes :=
  State.foldl_view (R := PhasesKept) (view := fun t => t.gate g) (g := fun l x => if (s.lane l).state != .unbound then x.without l else x)
    PhasesKept.trans PhasesKept.disableLane State.disableLane_lane_ne (fun u l _ hl => by
      rw [State.disableLane_gate, hl]
      by_cases h : (s.lane l).state = .unbound
      · rw [if_pos h, h]
        rfl
      · rw [if_neg h, if_pos (bne_iff_ne.mpr h)]) allLanes (by decide) s (.refl s) fun _ _ => rfl

theorem State.disabledAll_slot (s : State) (n : Fin 16) : s.disabledAll.slot n =
    { s.slot n with
      useCount := (s.slot n).useCount -
        (allLanes.map fun l => if (s.lane l).state = .unbound then 0 else (s.lane l).segments.countP fun g => g.uses n).sum } := by
  rw [← Slot.foldl_given]
  exact State.foldl_view (R := PhasesKept) (view := fun t => t.slot n) PhasesKept.trans PhasesKept.disableLane State.disableLane_lane_ne
    (fun u l _ hl => by rw [State.disableLane_slot, hl]) allLanes (by decide) s (.refl s) fun _ _ => rfl

theorem State.disabledAll_channel {s : State} (h : ∀ c, (s.channel c).code = .off) (c : Fin 6) : s.disabledAll.channel c = s.channel c :=
  State.foldl_keeps (P := fun t => ∀ c, t.channel c = s.channel c) (fun t l ht c => by
    rw [State.disableLane_channel, State.laneOff_channel, ht, Channel.turnOff_of_off (h c), ite_self, ite_self]) allLanes s (fun _ => rfl) c

theorem State.disabledAll_frame (s : State) : ∃ ch la ga sl sq st ev, s.disabledAll =
    { s with channels := ch, lanes := la, gates := ga, slots := sl, sqs := sq, streams := st, events := ev } :=
  State.foldl_keeps (P := fun t => ∃ ch la ga sl sq st ev, t =
    { s with channels := ch, lanes := la, gates := ga, slots := sl, sqs := sq, streams := st, events := ev }) (fun t l h => by
      obtain ⟨_, _, _, _, _, _, _, rfl⟩ := h
      exact State.disableLane_frame _ l) allLanes s ⟨_, _, _, _, _, _, _, rfl⟩

/-- What the lanes of a list tell the capture writer and the fetch engine, in a state in which they stand as in `s`. -/
theorem State.disableLanes_told (s : State) : ∀ (ls : List (Fin 4)) (u : State), ls.Nodup → (∀ l ∈ ls, u.lane l = s.lane l) →
    let t := ls.foldl (fun s l => s.disableLane l) u
    FreezesStreams u t (fun f => ∃ l ∈ ls, (s.lane l).losesWork ∧ f = .onLaneFault l) ∧
      NoticedBy u t (fun k => decide (k ∈ ls) && (s.lane k).state != .unbound) ∧
      ∀ e : Fin 12, e ≠ captureStateSource 0 → e ≠ captureStateSource 1 → t.event e = u.event e
  | [], u, _, _ => by
    refine ⟨.of_same rfl rfl fun f ⟨l, hl, _⟩ => List.not_mem_nil hl, ?_, fun _ _ _ => rfl⟩
    simpa using (StartsHeadsBy.none u).2.2.2.2.1
  | l :: ls, u, hnd, hu => by
    obtain ⟨hl, hnd⟩ := List.nodup_cons.mp hnd
    obtain ⟨hfreeze, hnotice, hevent⟩ := u.disableLane_told l
    obtain ⟨kfreeze, knotice, kevent⟩ := State.disableLanes_told s ls (u.disableLane l) hnd fun k hk => by
      have hkl : k ≠ l := fun hkl => hl (hkl ▸ hk)
      rw [State.disableLane_lane_ne u l k hkl]
      exact hu k (.tail l hk)
    rw [hu l (.head ls)] at hfreeze hnotice
    have hlater : (ls.foldl (fun s l => s.disableLane l) (u.disableLane l)).lane l = (u.disableLane l).lane l :=
      State.foldl_lane_ne State.disableLane_lane_ne ls (u.disableLane l) l hl
    have htick : (u.disableLane l).tick = u.tick := (LaneStep.disableLane u l).tick
    refine ⟨(hfreeze.trans kfreeze htick).congr rfl rfl rfl rfl rfl fun f => ?_, ?_, fun e h0 h1 => (kevent e h0 h1).trans (hevent e h0 h1)⟩
    · simp [or_and_right, exists_or]
    · have := hnotice.trans knotice fun k hk => by
        rw [Bool.and_eq_true, beq_iff_eq] at hk
        rw [hk.1, hlater]
        exact ⟨rfl, rfl⟩
      have hp : (fun k => decide (k ∈ l :: ls) && (s.lane k).state != .unbound) =
          fun k => (k == l && (s.lane l).state != .unbound) || (decide (k ∈ ls) && (s.lane k).state != .unbound) := by
        funext k
        by_cases hk : k = l
        · simp [hk, hl]
        · simp [hk]
      rw [hp]
      exact this

/-! ### The row (R88, R89) -/

/-- The part with the permit gone and every channel OFF. -/
def State.unpermitted (s : State) (p : PermitMonitor) : State := ({ s with permit := p } : State).setOff 0x3F

theorem State.setPermit_lost {s : State} {p : PermitMonitor} (hs : s.permitOn = true) (hp : (p.enableHigh && p.supplyGood) = false) :
    s.setPermit p = (s.unpermitted p).disabledAll.permitEvent := by
  have hoff : ({ s with permit := p } : State).permitOn = false := hp
  unfold State.setPermit
  simp only [hs, hoff, Bool.not_false, Bool.and_self, if_true]
  rfl

/-- Either row takes the permit away. -/
theorem exec_lossRow {s : State} {c : Instr} (ha : s.Awake) (hs : s.permitOn = true) (h : lossRow s c) :
    ∃ p : PermitMonitor, (p.enableHigh && p.supplyGood) = false ∧ exec c s = .next (s.unpermitted p).disabledAll.permitEvent := by
  obtain ⟨hh, hg⟩ := Bool.and_eq_true_iff.mp hs
  rcases h with ⟨rfl, hd⟩ | ⟨rfl, hd⟩
  · refine ⟨{ s.permit with enableHigh := !s.permit.enableHigh, enableCount := 0, enableDue := false }, by rw [hh]; rfl, ?_⟩
    rw [exec_enableFilterChange ha hd, State.setPermit_lost hs (by rw [hh]; rfl)]
  · refine ⟨{ s.permit with supplyGood := !s.permit.supplyGood, supplyCount := 0, supplyDue := false }, by rw [hg, Bool.not_true, Bool.and_false], ?_⟩
    rw [exec_supplyFilterChange ha hd, State.setPermit_lost hs (by rw [hg, Bool.not_true, Bool.and_false])]

theorem State.unpermitted_channel (s : State) (p : PermitMonitor) (c : Fin 6) :
    (s.unpermitted p).channel c = (s.channel c).turnOff s.tick := by
  rw [State.unpermitted, State.setOff_channel, if_pos (allSet_getLsbD c)]
  rfl

theorem Channel.turnOff_keepsLimits (c : Channel) (now : Tick) (offset : Nat) : KeepsLimits c (c.turnOff now offset) := by
  unfold Channel.turnOff
  split
  · exact ⟨rfl, rfl, rfl, rfl⟩
  · exact ⟨rfl, rfl, rfl, rfl⟩

theorem FreezesStreams.congr_event {s t t' : State} {met : FreezeCondition → Prop} (h : FreezesStreams s t met)
    (ht : t'.streams = t.streams) (he : ∀ n : Fin 2, t'.event (captureStateSource n) = t.event (captureStateSource n)) :
    FreezesStreams s t' met := by
  unfold FreezesStreams State.stream at *
  simpa only [ht, he] using h

theorem State.permitEvent_event_ne (s : State) {e : Fin 12} (he : e ≠ 3) : s.permitEvent.event e = s.event e :=
  s.recordEvent_event_ne 3 _ he

theorem State.unpermitted_frame (s : State) (p : PermitMonitor) : ∃ ch, s.unpermitted p = { s with permit := p, channels := ch } :=
  ⟨_, rfl⟩

section
variable (s : State)

theorem State.permitEvent_lane (l : Fin 4) : s.permitEvent.lane l = s.lane l := rfl

theorem State.permitEvent_channel (c : Fin 6) : s.permitEvent.channel c = s.channel c := rfl

theorem State.permitEvent_gate (g : Fin 4) : s.permitEvent.gate g = s.gate g := rfl

theorem State.permitEvent_slot (n : Fin 16) : s.permitEvent.slot n = s.slot n := rfl

theorem State.permitEvent_streams : s.permitEvent.streams = s.streams := rfl

theorem State.permitEvent_sqs : s.permitEvent.sqs = s.sqs := rfl

theorem State.permitEvent_lanes : s.permitEvent.lanes = s.lanes := rfl

theorem State.permitEvent_permitOn : s.permitEvent.permitOn = s.permitOn := rfl

theorem State.permitEvent_event : s.permitEvent.event 3 = foldOccurrence s.tick { first := 0, second := 0, third := 0 } (s.event 3) :=
  s.recordEvent_event_self 3 _

theorem State.disabledAll_lane (l : Fin 4) : s.disabledAll.lane l =
    if (s.lane l).state = .unbound then s.lane l else (s.lane l).flushed (s.flushCompletions l .disabled) := s.disableLanes_lane l

theorem State.disabledAll_told : FreezesStreams s s.disabledAll (fun f => ∃ l, (s.lane l).losesWork ∧ f = .onLaneFault l) ∧
    NoticedBy s s.disabledAll (fun k => (s.lane k).state != .unbound) ∧
    ∀ e : Fin 12, e ≠ captureStateSource 0 → e ≠ captureStateSource 1 → s.disabledAll.event e = s.event e := by
  have h := State.disableLanes_told s allLanes s (by decide) fun _ _ => rfl
  simpa only [State.disabledAll, mem_allLanes, true_and, decide_true, Bool.true_and] using h

/-- The lane as the loss of the permit leaves it, in the words of the statement. -/
theorem Lane.flushed_disabled (l : Fin 4) (h : (s.lane l).state ≠ .unbound) : (s.lane l).flushed (s.flushCompletions l .disabled) =
    { s.lane l with
      state := if (s.lane l).state = .held then .held else .idle
      queue := []
      holdTimer := none
      outbox := (s.lane l).outbox ++
        match (s.lane l).state, (s.lane l).queue with
        | .running r, queue =>
          runCompletion s l r .disabled 1 :: queue.map fun g => plainCompletion g.origin .disabled (some l) 0
        | .gated, g :: rest =>
          plainCompletion g.origin .disabled (some l) 2 :: rest.map fun g => plainCompletion g.origin .disabled (some l) 0
        | _, queue => queue.map fun g => plainCompletion g.origin .disabled (some l) 0 } := by
  rw [Lane.flushed, LaneState.afterFlush_eq h]
  congr 2
  split
  · next r hr => exact State.flushCompletions_running .disabled hr
  · next hg hq => exact State.flushCompletions_gated .disabled hg hq
  · next hr hg =>
    refine State.flushCompletions_other .disabled (fun r h => hr r h) fun h => ?_
    cases hq : (s.lane l).queue with
    | nil => rfl
    | cons g rest => exact absurd hq (hg g rest h)

/-- Every set of arrivals is empty: only lanes that are GATED have arrived, and each has left. -/
theorem State.disabledAll_gate_empty (hok : ∀ g l : Fin 4, (s.gate g).arrivals.getLsbD l.val = true → (s.lane l).gatedOn g = true) (g : Fin 4) :
    s.disabledAll.gate g =
      { s.gate g with arrivals := 0, waitTimer := if (s.gate g).arrivals = 0 then (s.gate g).waitTimer else none } := by
  have hgate := s.disabledAll_gate g
  have hnone : (s.disabledAll.gate g).arrivals = 0 := by
    refine BitVec.eq_of_getLsbD_eq fun i hi => ?_
    have h := Gate.withoutThose_arrivals (fun l => (s.lane l).state != .unbound) ⟨i, hi⟩ allLanes (s.gate g)
    rw [hgate, h]
    cases ha : (s.gate g).arrivals.getLsbD i with
    | false => simp
    | true =>
      have hgated := (Lane.gatedOn_iff.mp (hok g ⟨i, hi⟩ ha)).1
      simp [hgated, mem_allLanes]
  have hleft := (Gate.withoutThose_left (fun l => (s.lane l).state != .unbound) allLanes (s.gate g)).frame
  rw [← hgate, hnone] at hleft
  rw [hleft]
  by_cases h0 : (s.gate g).arrivals = 0 <;> simp [h0]

end

/-- Settles O11: channels first, then the lanes in their order, and the occurrence. -/
theorem permitLossDisablesLanes : Obligations.PermitLossDisablesLanes := by
  intro s c ha hs hok hrow
  obtain ⟨p, hp, hexec⟩ := exec_lossRow ha hs hrow
  obtain ⟨ch, hv⟩ := s.unpermitted_frame p
  have hchannel := s.unpermitted_channel p
  generalize hw : s.unpermitted p = v at hexec hv hchannel
  have hoff (k : Fin 6) : (v.channel k).code = .off := by rw [hchannel, Channel.turnOff_code]
  have hvlane (l : Fin 4) : v.lane l = s.lane l := by rw [hv]; rfl
  have hvgate (g : Fin 4) : v.gate g = s.gate g := by rw [hv]; rfl
  have hvslot (n : Fin 16) : v.slot n = s.slot n := by rw [hv]; rfl
  have hvevent (e : Fin 12) : v.event e = s.event e := by rw [hv]; rfl
  have hvrun (l : Fin 4) (r : Running) : runCompletion v l r .disabled 1 = runCompletion s l r .disabled 1 := by rw [hv]; rfl
  have hvsame : s.streams = v.streams ∧ s.events = v.events ∧ s.tick = v.tick ∧ s.sqs = v.sqs := by rw [hv]; exact ⟨rfl, rfl, rfl, rfl⟩
  obtain ⟨hstreams, hevents, htick, hsqs⟩ := hvsame
  obtain ⟨hfreeze, hnotice, hevent⟩ := v.disabledAll_told
  obtain ⟨ch', la, ga, sl, sq, st, ev, hframe⟩ := v.disabledAll_frame
  have hut : v.disabledAll.tick = s.tick ∧ v.disabledAll.permitOn = false := by
    rw [hframe, htick]
    exact ⟨rfl, by rw [hv]; exact hp⟩
  obtain ⟨hutick, hupermit⟩ := hut
  refine ⟨_, hexec, ?_, fun k => ?_, fun l hl => ?_, fun l hl => ?_, fun g => ?_, fun n => ?_, fun set hset => ?_, ?_, ?_,
    fun e h3 h0 h1 => ?_, ?_⟩
  · rw [State.permitEvent_permitOn, hupermit]
  · rw [State.permitEvent_channel, State.disabledAll_channel hoff, hchannel]
    exact ⟨Channel.turnOff_code .., Channel.turnOff_keepsLimits ..⟩
  · rw [State.permitEvent_lane, State.disabledAll_lane, hvlane, if_pos hl]
  · rw [State.permitEvent_lane, State.disabledAll_lane, hvlane, if_neg hl, ← hvlane, Lane.flushed_disabled v l ((hvlane l).symm ▸ hl)]
    simp only [hvlane, hvrun] <;> rfl
  · have hok' (g l : Fin 4) (h : (v.gate g).arrivals.getLsbD l.val = true) : (v.lane l).gatedOn g = true := by
      rw [hvlane]
      exact hok.2 g l (hvgate g ▸ h)
    rw [State.permitEvent_gate, State.disabledAll_gate_empty v hok', hvgate]
  · rw [State.permitEvent_slot, State.disabledAll_slot, hvslot]
    simp only [hvlane]
  · have hp : (fun l : Fin 4 => set.getLsbD l.val) = fun k => (v.lane k).state != .unbound := by
      funext l
      rw [hvlane, Bool.eq_iff_iff, hset l, bne_iff_ne]
    rw [noticed_iff, hp]
    exact hnotice.congr hsqs (State.permitEvent_sqs _) (State.permitEvent_lanes _)
  · refine (hfreeze.congr hstreams hevents htick rfl rfl fun f => ?_).congr_event (State.permitEvent_streams _)
      fun n => State.permitEvent_event_ne _ ?_
    · simp only [Lane.losesWork, hvlane, and_comm]
    · fin_cases n <;> decide
  · rw [State.permitEvent_event, hutick, hevent 3 (by decide) (by decide), hvevent]
  · rw [State.permitEvent_event_ne _ h3, hevent e h0 h1, hvevent]
  · rw [hframe, hv]
    rfl

end Sys2Proof.Machine
end


section
/-! PROOFS. The trip of a domain (O10): what it changes, and that the changes of a drive do not withdraw a report of their moment. -/

namespace Sys2Proof.Machine

-- One declaration after another: so the whole text compiles within the memory of the check.
set_option Elab.async false

/-! ### What is done at a moment of the tick does to the channels -/

/-- Drives applied to a channel one after another at a moment of a tick. -/
inductive Channel.Driven (now : Tick) (offset : Nat) (x : Channel) : Channel → Prop
  | refl : Channel.Driven now offset x x
  | driveTo {y : Channel} (h : Channel.Driven now offset x y) (code : DriveCode) (duty period : Nat) :
      Channel.Driven now offset x (y.driveTo now code duty period offset)

namespace Channel.Driven

variable {now : Tick} {offset : Nat} {x y z : Channel}

theorem trans (h : x.Driven now offset y) (k : y.Driven now offset z) : x.Driven now offset z := by
  induction k with
  | refl => exact h
  | driveTo _ code duty period ih => exact ih.driveTo code duty period

theorem turnOff (x : Channel) : x.Driven now offset (x.turnOff now offset) := by
  unfold Channel.turnOff
  split
  · exact .refl
  · exact .driveTo .refl ..

theorem applyPhase (x : Channel) (forced : Bool) (c : Fin 6) (p : Phase) (period : Nat) :
    x.Driven now 0 (x.applyPhase forced now c p period) := by
  unfold Channel.applyPhase
  split
  · exact .turnOff x
  · dsimp only
    split
    · exact .driveTo .refl ..
    · split
      · exact .refl
      · exact .driveTo .refl ..

/-- A drive changes neither owner nor limits nor over-count. -/
theorem keepsLimits (h : x.Driven now offset y) : KeepsLimits x y := by
  induction h with
  | refl => exact ⟨rfl, rfl, rfl, rfl⟩
  | driveTo _ code duty period ih =>
    obtain ⟨ho, ht, hb, hc⟩ := ih
    exact ⟨ho, ht, hb, hc⟩

/-- A channel that conducts at a moment which it has reached still does so after drives applied at it: the drive that ends at the
moment counts at it (R74). -/
theorem conducts (h : x.Driven now offset y) (ha : x.applied ≤ x.elapsedNs now + offset)
    (hc : x.conductingAt (x.elapsedNs now + offset) = true) :
    y.applied ≤ y.elapsedNs now + offset ∧ y.conductingAt (y.elapsedNs now + offset) = true := by
  induction h with
  | refl => exact ⟨ha, hc⟩
  | @driveTo y _ code duty period ih =>
    obtain ⟨ha, hc⟩ := ih
    have hstart : (y.driveTo now code duty period offset).elapsedNs now = 0 := by
      simp [Channel.driveTo, Channel.elapsedNs]
    have hmoment : y.momentOf now offset = y.elapsedNs now + offset := Nat.max_eq_left ha
    have happlied : (y.driveTo now code duty period offset).applied = offset := by
      simp only [Channel.driveTo, hmoment]
      omega
    have hthen : (y.driveTo now code duty period offset).conductedThen = true := by
      simp only [Channel.driveTo, hmoment, hc, Bool.true_or]
    rw [hstart, Nat.zero_add, happlied, Channel.conductingAt, happlied, hthen]
    simp

end Channel.Driven

/-- A step at a moment of the tick: all that it does to the channels is to apply drives. -/
structure DriveStep (offset : Nat) (s t : State) : Prop where
  tick : t.tick = s.tick
  channel : ∀ c, (s.channel c).Driven s.tick offset (t.channel c)

namespace DriveStep

variable {offset : Nat}

theorem of_same {s t : State} (ht : t.tick = s.tick) (hc : t.channels = s.channels) : DriveStep offset s t :=
  by
  refine ⟨ht, fun c => ?_⟩
  rw [show t.channel c = s.channel c from congrArg (·[c]) hc]
  exact .refl

theorem refl (s : State) : DriveStep offset s s := .of_same rfl rfl

theorem trans {s t u : State} (h : DriveStep offset s t) (k : DriveStep offset t u) : DriveStep offset s u :=
  ⟨k.tick.trans h.tick, fun c => (h.channel c).trans (h.tick ▸ k.channel c)⟩

theorem ite {s t u : State} {p : Prop} [Decidable p] (h : p → DriveStep offset s t) (k : ¬p → DriveStep offset s u) :
    DriveStep offset s (if p then t else u) := by
  split
  · exact h ‹_›
  · exact k ‹_›

theorem foldl {α : Type} {f : State → α → State} (hf : ∀ s a, DriveStep offset s (f s a)) :
    ∀ (as : List α) (s : State), DriveStep offset s (as.foldl f s)
  | [], s => .refl s
  | a :: as, s => (hf s a).trans (foldl hf as (f s a))

theorem of_minor {s t : State} (h : Minor s t) (ht : t.tick = s.tick) : DriveStep offset s t := .of_same ht h.channels

theorem updLane (s : State) (l : Fin 4) (f : Lane → Lane) : DriveStep offset s (s.updLane l f) := .of_same rfl rfl

theorem updGate (s : State) (g : Fin 4) (f : Gate → Gate) : DriveStep offset s (s.updGate g f) := .of_same rfl rfl

theorem updDomain (s : State) (d : Fin 3) (f : Domain → Domain) : DriveStep offset s (s.updDomain d f) := .of_same rfl rfl

theorem leaveGates (s : State) (l : Fin 4) : DriveStep offset s (s.leaveGates l) := .of_same rfl rfl

theorem recordEvent (s : State) (e : Fin 12) (d : EventDetail) : DriveStep offset s (s.recordEvent e d) := .of_same rfl rfl

theorem releaseSlots (gs : List Segment) (s : State) : DriveStep offset s (s.releaseSlots gs) := by
  obtain ⟨v, hv⟩ := State.releaseSlots_frame gs s
  exact .of_same (by rw [hv]) (by rw [hv])

theorem releaseSlot (s : State) (g : Segment) : DriveStep offset s (s.releaseSlot g) := releaseSlots [g] s

theorem laneFault (s : State) (l : Fin 4) : DriveStep offset s (s.laneFault l) :=
  .of_minor (.laneFault s l) (LaneStep.laneFault s l).tick

theorem tripFreeze (s : State) : DriveStep offset s s.tripFreeze := .of_minor (.tripFreeze s) (LaneStep.tripFreeze s).tick

theorem readinessNotice (s : State) (l : Fin 4) : DriveStep offset s (s.readinessNotice l) := .of_same rfl rfl

theorem laneOff (s : State) (l : Fin 4) : DriveStep offset s (s.laneOff l offset) := by
  refine ⟨rfl, fun c => ?_⟩
  rw [State.laneOff_channel]
  split
  · exact .turnOff _
  · exact .refl

theorem setOff (s : State) (set : ChannelSet) : DriveStep offset s (s.setOff set offset) := by
  refine ⟨rfl, fun c => ?_⟩
  rw [State.setOff_channel]
  split
  · exact .turnOff _
  · exact .refl

theorem applyPhase (s : State) (l : Fin 4) (p : Phase) (period : Nat) : DriveStep 0 s (s.applyPhase l p period) := by
  refine ⟨rfl, fun c => ?_⟩
  rw [State.applyPhase_channel]
  split
  · exact .applyPhase _ _ c p period
  · exact .refl

/-! ### Starts -/

theorem startHead (s : State) (l : Fin 4) : DriveStep 0 s (s.startHead l) := by
  unfold State.startHead
  split
  · exact .refl s
  · exact (((updLane s l _).trans (.applyPhase _ l _ _)).trans (.of_minor (.laneEntered _ l) (LaneStep.laneEntered _ l).tick)).trans
      (.readinessNotice _ l)

theorem fireGate (s : State) (g : Fin 4) : DriveStep 0 s (s.fireGate g) := by
  unfold State.fireGate State.startSet
  exact (updGate s g _).trans
    (.foldl (fun s l => .ite (fun _ => .startHead s l) fun _ => .refl s) allLanes _)

theorem arrive (s : State) (l g : Fin 4) : DriveStep 0 s (s.arrive l g) :=
  .ite (fun _ => .refl s) fun _ => .ite (fun _ => .fireGate s g) fun _ => .of_same rfl rfl

theorem startTest (s : State) (l : Fin 4) : DriveStep 0 s (s.startTest l) := by
  unfold State.startTest
  split
  · split
    · exact .refl s
    · split
      · exact .startHead s l
      · exact (updLane s l _).trans (.arrive _ l _)
  · exact .refl s

/-! ### Ends -/

theorem endSegment (s : State) (l : Fin 4) (r : Running) (st : Status) : DriveStep 0 s (s.endSegment l r st) := by
  rw [State.endSegment_eq]
  refine trans (trans ?_ (ite (fun _ => .laneFault _ l) fun _ => .refl _)) (.startTest _ l)
  unfold State.ended State.addOutbox
  dsimp only
  exact (((ite (fun _ => .laneOff s l) fun _ => .refl s).trans (.releaseSlot _ r.seg)).trans (.updLane _ l _)).trans (.updLane _ l _)

theorem endIfDue (s : State) (l : Fin 4) : DriveStep 0 s (s.endIfDue l) := by
  unfold State.endIfDue
  split
  · split
    · exact .endSegment s l _ _
    · exact .refl s
  · exact .refl s

theorem phaseEnd (s : State) (l : Fin 4) : DriveStep 0 s (s.phaseEnd l) := by
  unfold State.phaseEnd
  split
  · refine .ite (fun _ => ?_) fun _ => .refl s
    split
    · exact .endSegment s l _ _
    · exact (updLane s l _).trans (.applyPhase _ l _ _)
  · exact .refl s

theorem segmentTimeout (s : State) (l : Fin 4) : DriveStep 0 s (s.segmentTimeout l) := by
  unfold State.segmentTimeout
  split
  · exact .ite (fun _ => .endIfDue s l) fun _ => .refl s
  · exact .refl s

theorem holdExpiry (s : State) (l : Fin 4) : DriveStep 0 s (s.holdExpiry l) := by
  unfold State.holdExpiry
  refine .ite (fun _ => ?_) fun _ => .refl s
  split
  · exact ((laneOff s l).trans (.updLane _ l _)).trans (.startTest _ l)
  · exact (laneOff s l).trans (.updLane _ l _)
  · exact .refl s

/-! ### HALT, a trip, the permit -/

theorem flushLane (s : State) (l : Fin 4) (st : Status) : DriveStep offset s (s.flushLane l st offset) := by
  unfold State.flushLane
  dsimp only
  exact (((leaveGates s l).trans (.laneOff _ l)).trans (.releaseSlots _ _)).trans (.updLane _ l _)

theorem handleHalt (s : State) (q : Fin 4) (r : List Byte) : DriveStep offset s (s.handleHalt q r offset) := by
  have hidle (u : State) : DriveStep offset u u.fetchIdle := .of_same (by rw [State.fetchIdle_eq]) (by rw [State.fetchIdle_eq])
  have hrefuse (st : Status) (lane : Option (Fin 4)) (detail : Nat) : DriveStep offset s (s.refuse q r st lane detail) :=
    .of_same (by rw [State.refuse_frame]) (by rw [State.refuse_frame])
  unfold State.handleHalt
  split
  · exact hrefuse ..
  · next l _ =>
    refine .ite (fun _ => ?_) fun _ => .ite (fun _ => hrefuse ..) fun _ => ?_
    · exact (of_same rfl rfl : DriveStep offset s (s.updSq q _)).trans (hidle _)
    · rw [State.takeHalt_eq]
      exact (((of_same rfl rfl : DriveStep offset s (s.consume q)).trans
        ((flushLane _ l .aborted).trans (.updLane _ l _))).trans (.readinessNotice _ l)).trans (hidle _)

theorem laneTrip (s : State) (l : Fin 4) (c : Fin 6) : DriveStep offset s (s.laneTrip l c offset) := by
  have hhold (u : State) : DriveStep offset u (u.holdLane l offset) := (laneOff u l).trans (.updLane _ l _)
  unfold State.laneTrip
  split
  · exact .refl s
  · exact .refl s
  · exact .updLane s l _
  · exact hhold s
  · exact (leaveGates s l).trans (hhold _)
  · exact (((hhold s).trans (.releaseSlot _ _)).trans (.updLane _ l _)).trans (.laneFault _ l)

theorem channelTrip (s : State) (c : Fin 6) (cause : TripCause) : DriveStep offset s (s.channelTrip c cause offset) := by
  have htrip (d : Fin 3) : DriveStep offset s (s.tripDomain d c cause offset) := by
    unfold State.tripDomain State.tripLanes
    dsimp only
    exact ((((updDomain s d _).trans (.setOff _ _)).trans (.foldl (fun s l => .ite (fun _ => .laneTrip s l c) fun _ => .refl s)
      allLanes _)).trans (.recordEvent _ _ _)).trans (.tripFreeze _)
  unfold State.channelTrip
  split
  · exact .refl s
  · exact .ite (fun _ => htrip _) fun _ => .refl s

theorem disableLane (s : State) (l : Fin 4) : DriveStep 0 s (s.disableLane l) :=
  .ite (fun _ => .refl s) fun _ => ((flushLane s l .disabled).trans (.ite (fun _ => .laneFault _ l) fun _ => .refl _)).trans
    (.readinessNotice _ l)

theorem setPermit (s : State) (p : PermitMonitor) : DriveStep 0 s (s.setPermit p) := by
  have hp : DriveStep 0 s { s with permit := p } := .of_same rfl rfl
  have hevent (u : State) : DriveStep 0 u u.permitEvent := .of_same rfl rfl
  refine .ite (fun _ => hp.trans ?_) fun _ => .ite (fun _ => hp.trans ?_) fun _ => hp
  · exact ((setOff _ _).trans (.foldl (fun s l => .disableLane s l) allLanes _)).trans (hevent _)
  · exact (hevent _).trans (.foldl (fun s l => .ite (fun _ => .startTest s l) fun _ => .refl s) allLanes _)

end DriveStep

theorem State.act_driveStep {s t : State} {offset : Nat} {f : State → State} (h : DriveStep offset s (f s)) (ht : s.act f = .next t) :
    DriveStep offset s t := by
  injection ht with ht
  rw [← ht]
  exact .ite (fun _ => .refl s) fun _ => h

/-- A row that ends drives at a moment of the tick does no more to the channels than apply drives at that moment. -/
theorem exec_driveStep {s t : State} {c : Instr} {offset : Nat} (hc : endsDriveAt c offset) (h : exec c s = .next t) :
    DriveStep offset s t := by
  rcases hc with rfl | ⟨k, rfl⟩ | ⟨rfl, rfl | rfl | ⟨l, rfl | rfl | rfl⟩⟩
  · refine State.act_driveStep (f := fun s => s.withRecord kindHalt fun q r => s.handleHalt q r offset) ?_ h
    unfold State.withRecord
    split
    · exact .handleHalt s _ _
    · exact .refl s
  · exact State.act_driveStep (f := fun s => if s.conducting k offset then s.channelTrip k .short offset else s)
      (.ite (fun _ => .channelTrip s k .short) fun _ => .refl s) h
  · exact State.act_driveStep (f := State.enableChange) (.ite (fun _ => .setPermit s _) fun _ => .refl s) h
  · exact State.act_driveStep (f := State.supplyChange) (.ite (fun _ => .setPermit s _) fun _ => .refl s) h
  · exact State.act_driveStep (f := fun s => s.phaseEnd l) (.phaseEnd s l) h
  · exact State.act_driveStep (f := fun s => s.segmentTimeout l) (.segmentTimeout s l) h
  · exact State.act_driveStep (f := fun s => s.holdExpiry l) (.holdExpiry s l) h

/-! ### One lane takes the trip of a domain -/

/-- A lane takes the trip of a domain that it meets (R77). -/
def State.tripTurn (s : State) (d : Fin 3) (c : Fin 6) (offset : Nat) (l : Fin 4) : State :=
  if s.meetsDomain l d then s.laneTrip l c offset else s

section
variable (s : State) (d : Fin 3) (c : Fin 6) (offset : Nat) (l : Fin 4)

theorem State.laneTrip_slot (n : Fin 16) : (s.laneTrip l c offset).slot n =
    { s.slot n with useCount := (s.slot n).useCount - (s.lane l).runningSegments.countP fun g => g.uses n } := by
  have hslot (u : State) (hm : Minor (s.trippedLane l c offset) u) : u.slot n =
      { s.slot n with useCount := (s.slot n).useCount - (s.lane l).runningSegments.countP fun g => g.uses n } :=
    (congrArg (·[n]) hm.slots : u.slot n = (s.trippedLane l c offset).slot n).trans (s.trippedLane_slot l c offset n)
  rw [State.laneTrip_eq]
  split
  · next h =>
    have hnone : (s.lane l).runningSegments = [] := by rcases h with h | h <;> simp [Lane.runningSegments, h]
    rw [hnone]
    rfl
  · split
    · exact hslot _ (.laneFault _ l)
    · exact hslot _ (.refl _)

theorem State.laneTrip_channel (k : Fin 6) : (s.laneTrip l c offset).channel k =
    if (s.lane l).working = true ∧ (s.channel k).owner = some l then (s.channel k).turnOff s.tick offset else s.channel k := by
  have hoff (u : State) (hm : Minor (s.trippedLane l c offset) u) : u.channel k =
      if (s.lane l).working = true ∧ (s.channel k).owner = some l then (s.channel k).turnOff s.tick offset else s.channel k := by
    rw [show u.channel k = (s.trippedLane l c offset).channel k from congrArg (·[k]) hm.channels, State.trippedLane_channel, State.tripOff]
    by_cases hw : (s.lane l).working = true
    · simp only [hw, if_true, true_and, State.laneOff_channel]
    · simp only [hw, if_false, false_and, Bool.false_eq_true]
  rw [State.laneTrip_eq]
  split
  · next h => rw [if_neg]; rcases h with h | h <;> simp [Lane.working, h]
  · split
    · exact hoff _ (.laneFault _ l)
    · exact hoff _ (.refl _)

theorem State.tripTurn_phases : PhasesKept s (s.tripTurn d c offset l) := by
  unfold State.tripTurn
  split
  · exact .laneTrip s l c offset
  · exact .refl s

theorem State.tripTurn_lane_ne (k : Fin 4) (h : k ≠ l) : (s.tripTurn d c offset l).lane k = s.lane k := by
  unfold State.tripTurn
  split
  · rw [State.laneTrip_lane, if_neg fun hk => h hk.1]
  · rfl

/-- What one lane tells the capture writer. -/
theorem State.tripTurn_told : FreezesStreams s (s.tripTurn d c offset l)
      (fun f => s.meetsDomain l d = true ∧ (s.lane l).isRunning = true ∧ f = .onLaneFault l) ∧
    ∀ e : Fin 12, e ≠ captureStateSource 0 → e ≠ captureStateSource 1 → (s.tripTurn d c offset l).event e = s.event e := by
  obtain ⟨ch, sl, hframe⟩ := s.trippedLane_frame l c offset
  obtain ⟨ga, hgates⟩ := s.tripGates_frame l
  have hsame : (s.trippedLane l c offset).streams = s.streams ∧ (s.trippedLane l c offset).events = s.events ∧
      (s.trippedLane l c offset).tick = s.tick := by
    rw [hframe, hgates]
    exact ⟨rfl, rfl, rfl⟩
  obtain ⟨hstreams, hevents, htick⟩ := hsame
  have hquiet (hno : ¬(s.meetsDomain l d = true ∧ (s.lane l).isRunning = true)) {t : State} (ht : t.streams = s.streams)
      (he : t.events = s.events) : FreezesStreams s t
        (fun f => s.meetsDomain l d = true ∧ (s.lane l).isRunning = true ∧ f = .onLaneFault l) :=
    .of_same ht he fun f hf => hno ⟨hf.1, hf.2.1⟩
  unfold State.tripTurn
  split
  · next hm =>
    rw [State.laneTrip_eq]
    split
    · next h => exact ⟨hquiet (fun hr => by rcases h with h | h <;> simp [Lane.isRunning, h] at hr) rfl rfl, fun _ _ _ => rfl⟩
    · split
      · next hr =>
        refine ⟨((s.trippedLane l c offset).freezeBoth_freezes (.onLaneFault l)).congr hstreams.symm hevents.symm htick.symm rfl rfl
          fun f => ⟨fun h => h.2.2, fun h => ⟨hm, hr, h⟩⟩, fun e h0 h1 => ?_⟩
        rw [State.laneFault_eq, State.freezeBoth_event_ne _ _ h0 h1, State.event, hevents]
        rfl
      · next hr =>
        refine ⟨hquiet (fun h => hr h.2) hstreams hevents, fun e _ _ => ?_⟩
        rw [State.event, hevents]
        rfl
  · next hm => exact ⟨hquiet (fun h => hm h.1) rfl rfl, fun _ _ _ => rfl⟩

theorem State.tripTurn_frame : ∃ ch la ga sl st ev, s.tripTurn d c offset l =
    { s with channels := ch, lanes := la, gates := ga, slots := sl, streams := st, events := ev } := by
  obtain ⟨ch, sl, hframe⟩ := s.trippedLane_frame l c offset
  obtain ⟨ga, hgates⟩ := s.tripGates_frame l
  unfold State.tripTurn
  split
  · rw [State.laneTrip_eq]
    split
    · exact ⟨_, _, _, _, _, _, rfl⟩
    · split
      · obtain ⟨st, ev, hfr⟩ := (s.trippedLane l c offset).freezeBoth_frame (.onLaneFault l)
        rw [State.laneFault_eq, hfr, hframe, hgates]
        exact ⟨_, _, _, _, _, _, rfl⟩
      · rw [hframe, hgates]
        exact ⟨_, _, _, _, _, _, rfl⟩
  · exact ⟨_, _, _, _, _, _, rfl⟩

end

/-! ### All lanes take the trip of a domain -/

/-- A channel that goes OFF at some of the lanes' turns goes OFF once. -/
theorem Channel.foldl_turnOff (p : Fin 4 → Bool) (now : Tick) (offset : Nat) : ∀ (ls : List (Fin 4)) (x : Channel),
    ls.foldl (fun x l => if p l = true ∧ x.owner = some l then x.turnOff now offset else x) x =
      if ∃ l ∈ ls, p l = true ∧ x.owner = some l then x.turnOff now offset else x
  | [], x => by simp
  | l :: ls, x => by
    rw [List.foldl_cons, Channel.foldl_turnOff p now offset ls]
    by_cases h : p l = true ∧ x.owner = some l
    · rw [if_pos h, Channel.turnOff_of_off (Channel.turnOff_code ..), ite_self]
      exact (if_pos ⟨l, .head ls, h⟩).symm
    · rw [if_neg h]
      simp only [List.mem_cons, or_and_right, exists_or, exists_eq_left, h, false_or]

section
variable (s : State) (d : Fin 3) (c : Fin 6) (offset : Nat)

theorem State.tripLanes_eq : s.tripLanes d c offset = allLanes.foldl (fun s l => s.tripTurn d c offset l) s := rfl

theorem State.tripLanes_gate (g : Fin 4) : (s.tripLanes d c offset).gate g =
    (s.gate g).withoutThose (fun l => s.meetsDomain l d && (s.lane l).state == .gated) allLanes := by
  rw [State.tripLanes_eq]
  refine State.foldl_view (R := PhasesKept) (view := fun t => t.gate g)
    (g := fun l x => if (s.meetsDomain l d && (s.lane l).state == .gated) = true then x.without l else x)
    PhasesKept.trans (fun s l => s.tripTurn_phases d c offset l) (fun s l => s.tripTurn_lane_ne d c offset l) (fun u l hu hl => ?_)
    allLanes (by decide) s (.refl s) fun _ _ => rfl
  rw [State.tripTurn, State.meetsDomain_congr hl hu.step]
  by_cases hm : s.meetsDomain l d = true
  · simp only [hm, if_true, State.laneTrip_gate, hl, Bool.true_and, beq_iff_eq]
  · simp only [hm, if_false, Bool.false_and, Bool.false_eq_true]

theorem State.tripLanes_slot (n : Fin 16) : (s.tripLanes d c offset).slot n =
    { s.slot n with
      useCount := (s.slot n).useCount -
        (allLanes.map fun l => if s.meetsDomain l d = true then (s.lane l).runningSegments.countP fun g => g.uses n else 0).sum } := by
  rw [State.tripLanes_eq, ← Slot.foldl_given]
  refine State.foldl_view (R := PhasesKept) (view := fun t => t.slot n) PhasesKept.trans (fun s l => s.tripTurn_phases d c offset l)
    (fun s l => s.tripTurn_lane_ne d c offset l) (fun u l hu hl => ?_) allLanes (by decide) s (.refl s) fun _ _ => rfl
  rw [State.tripTurn, State.meetsDomain_congr hl hu.step]
  by_cases hm : s.meetsDomain l d = true
  · simp only [hm, if_true, State.laneTrip_slot, hl]
  · simp only [hm, if_false, Bool.false_eq_true, Nat.sub_zero]

theorem State.tripLanes_channel (k : Fin 6) : (s.tripLanes d c offset).channel k =
    if ∃ l ∈ allLanes, (s.meetsDomain l d && (s.lane l).working) = true ∧ (s.channel k).owner = some l then
      (s.channel k).turnOff s.tick offset
    else s.channel k := by
  rw [State.tripLanes_eq, ← Channel.foldl_turnOff (fun l => s.meetsDomain l d && (s.lane l).working)]
  refine State.foldl_view (R := PhasesKept) (view := fun t => t.channel k) PhasesKept.trans (fun s l => s.tripTurn_phases d c offset l)
    (fun s l => s.tripTurn_lane_ne d c offset l) (fun u l hu hl => ?_) allLanes (by decide) s (.refl s) fun _ _ => rfl
  rw [State.tripTurn, State.meetsDomain_congr hl hu.step]
  by_cases hm : s.meetsDomain l d = true
  · simp only [hm, if_true, State.laneTrip_channel, hl, hu.step.tick, Bool.true_and]
  · simp only [hm, if_false, Bool.false_and, Bool.false_eq_true, false_and]

theorem State.tripLanes_frame : ∃ ch la ga sl st ev, s.tripLanes d c offset =
    { s with channels := ch, lanes := la, gates := ga, slots := sl, streams := st, events := ev } :=
  State.foldl_keeps (P := fun t => ∃ ch la ga sl st ev, t =
    { s with channels := ch, lanes := la, gates := ga, slots := sl, streams := st, events := ev }) (fun t l h => by
      obtain ⟨_, _, _, _, _, _, rfl⟩ := h
      exact State.tripTurn_frame _ d c offset l) allLanes s ⟨_, _, _, _, _, _, rfl⟩

/-- What the lanes of a list tell the capture writer, in a state in which they stand as in `s`. -/
theorem State.tripTurns_told : ∀ (ls : List (Fin 4)) (u : State), ls.Nodup → LaneStep s u → (∀ l ∈ ls, u.lane l = s.lane l) →
    FreezesStreams u (ls.foldl (fun s l => s.tripTurn d c offset l) u)
        (fun f => ∃ l ∈ ls, s.meetsDomain l d = true ∧ (s.lane l).isRunning = true ∧ f = .onLaneFault l) ∧
      ∀ e : Fin 12, e ≠ captureStateSource 0 → e ≠ captureStateSource 1 →
        (ls.foldl (fun s l => s.tripTurn d c offset l) u).event e = u.event e
  | [], u, _, _, _ => ⟨.of_same rfl rfl fun f ⟨l, hl, _⟩ => List.not_mem_nil hl, fun _ _ _ => rfl⟩
  | l :: ls, u, hnd, hstep, hu => by
    obtain ⟨hl, hnd⟩ := List.nodup_cons.mp hnd
    obtain ⟨hfreeze, hevent⟩ := u.tripTurn_told d c offset l
    have hturn := (u.tripTurn_phases d c offset l).step
    obtain ⟨kfreeze, kevent⟩ := State.tripTurns_told ls (u.tripTurn d c offset l) hnd (hstep.trans hturn) fun k hk => by
      rw [State.tripTurn_lane_ne u d c offset l k fun hkl => hl (hkl ▸ hk)]
      exact hu k (.tail l hk)
    rw [hu l (.head ls), State.meetsDomain_congr (hu l (.head ls)) hstep] at hfreeze
    refine ⟨(hfreeze.trans kfreeze hturn.tick).congr rfl rfl rfl rfl rfl fun f => ?_, fun e h0 h1 => (kevent e h0 h1).trans (hevent e h0 h1)⟩
    simp [or_and_right, exists_or]

theorem State.tripLanes_told : FreezesStreams s (s.tripLanes d c offset)
      (fun f => ∃ l, s.meetsDomain l d = true ∧ (s.lane l).isRunning = true ∧ f = .onLaneFault l) ∧
    ∀ e : Fin 12, e ≠ captureStateSource 0 → e ≠ captureStateSource 1 → (s.tripLanes d c offset).event e = s.event e := by
  rw [State.tripLanes_eq]
  have h := State.tripTurns_told s d c offset allLanes s (by decide) (.refl s) fun _ _ => rfl
  simpa only [mem_allLanes, true_and] using h

end

/-! ### The trip of a domain (R77) -/

/-- The domain has tripped and its channels are OFF, before the lanes take the trip. -/
def State.domainTripped (s : State) (d : Fin 3) (offset : Nat) : State := (s.updDomain d Domain.trip).setOff (s.domain d).members offset

theorem Domain.trip_eq (x : Domain) : x.trip =
    { x with
      tripCount := min 255 (x.tripCount + 1)
      state := if x.tripLimit ≠ 0 ∧ x.tripLimit ≤ min 255 (x.tripCount + 1) then .locked else .tripped } := by
  have h : satSucc 255 x.tripCount = min 255 (x.tripCount + 1) := by
    unfold satSucc
    split <;> omega
  rw [Domain.trip, h]

section
variable (s : State) (d : Fin 3) (c : Fin 6) (offset : Nat)

theorem State.domainTripped_frame : ∃ ch dm, s.domainTripped d offset = { s with channels := ch, domains := dm } := ⟨_, _, rfl⟩

theorem State.domainTripped_domain (e : Fin 3) : (s.domainTripped d offset).domain e = if e = d then (s.domain d).trip else s.domain e := by
  have h : (s.domainTripped d offset).domain e = (s.updDomain d Domain.trip).domain e := rfl
  rw [h, State.updDomain_domain]

theorem State.domainTripped_channel (k : Fin 6) : (s.domainTripped d offset).channel k =
    if (s.domain d).members.getLsbD k.val = true then (s.channel k).turnOff s.tick offset else s.channel k := by
  rw [State.domainTripped, State.setOff_channel]
  rfl

theorem State.domainTripped_meets (l : Fin 4) : (s.domainTripped d offset).meetsDomain l d = s.meetsDomain l d := by
  obtain ⟨ch, dm, hframe⟩ := s.domainTripped_frame d offset
  have hlane : (s.domainTripped d offset).lane l = s.lane l := by rw [hframe]; rfl
  have hd : ((s.domainTripped d offset).domain d).members = (s.domain d).members := by
    rw [State.domainTripped_domain, if_pos rfl, Domain.trip_eq]
  rw [State.meetsDomain, State.meetsDomain, hlane, hd]

/-- A trip of an ARMED domain, step by step. -/
theorem State.tripDomain_eq (cause : TripCause) : s.tripDomain d c cause offset =
    (((s.domainTripped d offset).tripLanes d c offset).recordEvent (domainTripSource d)
      { first := c.val, second := cause.code, third := (s.domain d).trip.state.code }).freezeBoth .onTrip := by
  have hd : ((s.updDomain d Domain.trip).domain d).members = (s.domain d).members := by
    rw [State.updDomain_domain, if_pos rfl, Domain.trip_eq]
  have hcode : (((s.domainTripped d offset).tripLanes d c offset).domain d) = (s.domain d).trip := by
    rw [(LaneStep.tripLanes _ d c offset).domain, State.domainTripped_domain, if_pos rfl]
  rw [← hcode, State.domainTripped, ← hd]
  rfl

/-- The state that a trip leaves, up to the record and the freeze of the streams. -/
def State.lanesTripped : State := (s.domainTripped d offset).tripLanes d c offset

theorem State.lanesTripped_lane (l : Fin 4) : (s.lanesTripped d c offset).lane l =
    if s.meetsDomain l d = true ∧ (s.lane l).state ≠ .unbound then (s.lane l).tripped (s.tripCompletions l c) else s.lane l := by
  have hcs : (s.domainTripped d offset).tripCompletions l c = s.tripCompletions l c := rfl
  rw [State.lanesTripped, State.tripLanes_lane, State.domainTripped_meets, hcs]
  rfl

theorem State.lanesTripped_domain (e : Fin 3) : (s.lanesTripped d c offset).domain e = if e = d then (s.domain d).trip else s.domain e := by
  rw [State.lanesTripped, (LaneStep.tripLanes _ d c offset).domain, State.domainTripped_domain]

/-- A channel that a trip turns OFF: a member of the domain, or one of a lane that takes the trip with work or a hold. -/
def State.tripsOff (k : Fin 6) : Prop :=
  (s.domain d).members.getLsbD k.val = true ∨
    ∃ l, s.meetsDomain l d = true ∧ (s.lane l).working = true ∧ (s.channel k).owner = some l

theorem State.lanesTripped_channel (k : Fin 6) : (s.tripsOff d k ∧ (s.lanesTripped d c offset).channel k = (s.channel k).turnOff s.tick offset) ∨
    (¬s.tripsOff d k ∧ (s.lanesTripped d c offset).channel k = s.channel k) := by
  have howner : ((s.domainTripped d offset).channel k).owner = (s.channel k).owner := by
    rw [State.domainTripped_channel]
    split
    · exact Channel.turnOff_owner ..
    · rfl
  have hlane (l : Fin 4) : (s.domainTripped d offset).lane l = s.lane l := rfl
  have htick : (s.domainTripped d offset).tick = s.tick := rfl
  rw [State.lanesTripped, State.tripLanes_channel, howner, htick]
  simp only [mem_allLanes, true_and, State.domainTripped_meets, hlane, Bool.and_eq_true, and_assoc]
  by_cases hm : (s.domain d).members.getLsbD k.val = true
  · refine .inl ⟨.inl hm, ?_⟩
    rw [State.domainTripped_channel, if_pos hm, Channel.turnOff_of_off (Channel.turnOff_code ..), ite_self]
  · rw [State.domainTripped_channel, if_neg hm]
    by_cases hl : ∃ l, s.meetsDomain l d = true ∧ (s.lane l).working = true ∧ (s.channel k).owner = some l
    · exact .inl ⟨.inr hl, if_pos hl⟩
    · exact .inr ⟨fun h => h.elim hm hl, if_neg hl⟩

theorem State.lanesTripped_gate (g : Fin 4) : (s.lanesTripped d c offset).gate g =
    (s.gate g).withoutThose (fun l => s.meetsDomain l d && (s.lane l).state == .gated) allLanes := by
  rw [State.lanesTripped, State.tripLanes_gate]
  simp only [State.domainTripped_meets]
  rfl

/-- The lane's running segment, if it has one, passes a test. -/
def Lane.runs (ln : Lane) (q : Segment → Bool) : Bool :=
  match ln.state with
  | .running r => q r.seg
  | _ => false

/-- A count of segments, lane by lane. -/
theorem sum_runningSegments (p : Fin 4 → Bool) (q : Segment → Bool) : ∀ ls : List (Fin 4),
    (ls.map fun l => if p l = true then (s.lane l).runningSegments.countP q else 0).sum = ls.countP fun l => p l && (s.lane l).runs q
  | [] => rfl
  | l :: ls => by
    rw [List.map_cons, List.sum_cons, sum_runningSegments p q ls, List.countP_cons, Nat.add_comm]
    congr 1
    unfold Lane.runningSegments Lane.runs
    cases p l with
    | false => simp
    | true => cases (s.lane l).state <;> simp [List.countP_cons]

theorem State.lanesTripped_slot (n : Fin 16) : (s.lanesTripped d c offset).slot n =
    { s.slot n with
      useCount := (s.slot n).useCount - allLanes.countP fun l => s.meetsDomain l d && (s.lane l).runs fun g => g.uses n } := by
  rw [← sum_runningSegments, State.lanesTripped, State.tripLanes_slot]
  simp only [State.domainTripped_meets]
  rfl

theorem State.lanesTripped_told : FreezesStreams s (s.lanesTripped d c offset)
      (fun f => ∃ l, s.meetsDomain l d = true ∧ (s.lane l).isRunning = true ∧ f = .onLaneFault l) ∧
    ∀ e : Fin 12, e ≠ captureStateSource 0 → e ≠ captureStateSource 1 → (s.lanesTripped d c offset).event e = s.event e := by
  obtain ⟨hfreeze, hevent⟩ := (s.domainTripped d offset).tripLanes_told d c offset
  refine ⟨hfreeze.congr rfl rfl rfl rfl rfl fun f => ?_, hevent⟩
  simp only [State.domainTripped_meets]
  exact Iff.rfl

theorem State.lanesTripped_frame : ∃ ch la ga sl dm st ev, s.lanesTripped d c offset =
    { s with channels := ch, lanes := la, gates := ga, slots := sl, domains := dm, streams := st, events := ev } := by
  obtain ⟨ch, dm, hu⟩ := s.domainTripped_frame d offset
  obtain ⟨_, _, _, _, _, _, h⟩ := (s.domainTripped d offset).tripLanes_frame d c offset
  rw [State.lanesTripped, h, hu]
  exact ⟨_, _, _, _, _, _, _, rfl⟩

end

/-- The domain of a channel, when every channel has one (R77). -/
theorem State.domainOf_eq {s : State} {c : Fin 6} {d : Fin 3} (h : s.DomainsOk) (hd : (s.domain d).members.getLsbD c.val = true) :
    s.domainOf c = some d := by
  obtain ⟨e, he⟩ := h c
  obtain rfl := (he d).mp hd
  refine find_first_by Fin.val (by decide) (List.mem_finRange d) hd fun k hk => Bool.eq_false_iff.mpr fun h => ?_
  rw [(he k).mp h] at hk
  exact absurd hk (Nat.lt_irrefl _)

theorem State.channelTrip_armed {s : State} {c : Fin 6} {d : Fin 3} (h : s.domainOf c = some d) (ha : (s.domain d).state = .armed)
    (cause : TripCause) (offset : Nat) : s.channelTrip c cause offset = s.tripDomain d c cause offset := by
  rw [State.channelTrip, h]
  exact if_pos ha

theorem State.channelTrip_notArmed {s : State} {c : Fin 6} {d : Fin 3} (h : s.domainOf c = some d) (ha : (s.domain d).state ≠ .armed)
    (cause : TripCause) (offset : Nat) : s.channelTrip c cause offset = s := by
  rw [State.channelTrip, h]
  exact if_neg ha

/-! ### The row (R73) -/

theorem State.conducting_iff (s : State) (c : Fin 6) (offset : Nat) : s.conducting c offset = true ↔
    (s.channel c).highOn ((s.channel c).elapsedNs s.tick + offset) = true ∨
      (s.channel c).lowOn ((s.channel c).elapsedNs s.tick + offset) = true ∨
      ((s.channel c).elapsedNs s.tick + offset = (s.channel c).applied ∧ (s.channel c).conductedThen = true) := by
  simp only [State.conducting, Channel.conductingAt, Bool.or_eq_true, Bool.and_eq_true, beq_iff_eq, or_assoc]

theorem exec_shortDetect {s : State} {c : Fin 6} {offset : Nat} (ha : s.Awake) :
    exec (.shortDetect c offset) s = .next (if s.conducting c offset then s.channelTrip c .short offset else s) :=
  State.act_awake ha fun s => if s.conducting c offset then s.channelTrip c .short offset else s

/-- A row whose act changes nothing, in a held part too. -/
theorem State.act_same {s : State} {f : State → State} (h : f s = s) : s.act f = .next s := by
  unfold State.act State.unlessReset
  split
  · rfl
  · rw [h]

theorem exec_shortDetect_same {s : State} {c : Fin 6} {offset : Nat}
    (h : s.conducting c offset = true → s.channelTrip c .short offset = s) : exec (.shortDetect c offset) s = .next s := by
  refine State.act_same (f := fun s => if s.conducting c offset then s.channelTrip c .short offset else s) ?_
  split
  · exact h ‹_›
  · rfl

theorem Channel.off_highOn {x : Channel} (h : x.code = .off) (t : Nat) : x.highOn t = false := by
  simp [Channel.highOn, Channel.behaviour, h, inWindow, Channel.highWindow]

theorem Channel.off_lowOn {x : Channel} (h : x.code = .off) (t : Nat) : x.lowOn t = false := by
  simp [Channel.lowOn, Channel.behaviour, h, inWindow, Channel.lowWindow]

theorem Lane.working_iff {ln : Lane} : ln.working = true ↔ ln.state = .holding ∨ ln.state = .gated ∨ ∃ r, ln.state = .running r := by
  unfold Lane.working
  cases ln.state <;> simp

theorem State.tripCompletions_eq (s : State) (l : Fin 4) (c : Fin 6) : s.tripCompletions l c =
    match (s.lane l).state with
    | .running r => [runCompletion s l r .tripped c.val]
    | _ => [] := by
  unfold State.tripCompletions
  cases h : (s.lane l).state with
  | running r => simp only [State.ranCompletion_eq]
  | _ => rfl

/-- The trip of an ARMED domain by a short, with its frame (R77, R78). -/
theorem exec_shortDetect_trips {s : State} {c : Fin 6} {offset : Nat} {d : Fin 3} (ha : s.Awake) (hcond : s.conducting c offset = true)
    (hok : s.DomainsOk) (hd : (s.domain d).members.getLsbD c.val = true) (harmed : (s.domain d).state = .armed) :
    exec (.shortDetect c offset) s = .next (((s.lanesTripped d c offset).recordEvent (domainTripSource d)
      { first := c.val, second := 2, third := (s.domain d).trip.state.code }).freezeBoth .onTrip) := by
  rw [exec_shortDetect ha, if_pos hcond, State.channelTrip_armed (State.domainOf_eq hok hd) harmed, State.tripDomain_eq]
  rfl

/-- The record of a trip and the freeze of the streams that it ends with. -/
def State.tripRecorded (w : State) (d : Fin 3) (x : EventDetail) : State := (w.recordEvent (domainTripSource d) x).freezeBoth .onTrip

section
variable (w : State) (d : Fin 3) (x : EventDetail)

theorem State.tripRecorded_frame : ∃ st ev, w.tripRecorded d x = { w with streams := st, events := ev } := by
  obtain ⟨st, ev, h⟩ := (w.recordEvent (domainTripSource d) x).freezeBoth_frame .onTrip
  exact ⟨st, ev, by rw [State.tripRecorded, h]; rfl⟩

theorem domainTripSource_ne (n : Fin 2) : captureStateSource n ≠ domainTripSource d := by
  intro h
  have := congrArg Fin.val h
  simp only [captureStateSource, domainTripSource] at this
  omega

theorem State.tripRecorded_event_ne {e : Fin 12} (hd : e ≠ domainTripSource d) (h0 : e ≠ captureStateSource 0)
    (h1 : e ≠ captureStateSource 1) : (w.tripRecorded d x).event e = w.event e := by
  rw [State.tripRecorded, State.freezeBoth_event_ne _ _ h0 h1, State.recordEvent_event_ne _ _ _ hd]

theorem State.tripRecorded_event : (w.tripRecorded d x).event (domainTripSource d) =
    foldOccurrence w.tick x (w.event (domainTripSource d)) := by
  rw [State.tripRecorded, State.freezeBoth_event_ne _ _ (domainTripSource_ne d 0).symm (domainTripSource_ne d 1).symm,
    State.recordEvent_event_self]

theorem State.tripRecorded_freezes : FreezesStreams w (w.tripRecorded d x) (· = .onTrip) := by
  have h : FreezesStreams w (w.recordEvent (domainTripSource d) x) fun _ => False :=
    (FreezesStreams.of_same (s := w) rfl rfl fun _ h => h).congr_event rfl
      fun n => State.recordEvent_event_ne _ _ _ (domainTripSource_ne d n)
  exact (h.trans (State.freezeBoth_freezes _ .onTrip) rfl).congr rfl rfl rfl rfl rfl fun f => by simp

end

/-- Settles O10. The trip of the domain: its channels and lanes, the record, and the streams; a report that does not trip changes
nothing, and none is withdrawn at its moment. -/
theorem shortTripsArmedDomain : Obligations.ShortTripsArmedDomain := by
  refine ⟨State.conducting_iff, fun s c offset d ha hcond hok hd harmed => ?_, fun s c offset d hok hd hno => ?_, fun s c offset hno => ?_,
    fun s c offset hoff hend => ?_, fun s t c offset e he h happlied hcond => ?_⟩
  · have hexec := exec_shortDetect_trips ha hcond hok hd harmed
    have htold := s.lanesTripped_told d c offset
    have hlane (l : Fin 4) := s.lanesTripped_lane d c offset l
    have hchannel (k : Fin 6) := s.lanesTripped_channel d c offset k
    have hgate (g : Fin 4) := s.lanesTripped_gate d c offset g
    have hslot (n : Fin 16) := s.lanesTripped_slot d c offset n
    have hdomain (e : Fin 3) := s.lanesTripped_domain d c offset e
    obtain ⟨ch, la, ga, sl, dm, st, ev, hw⟩ := s.lanesTripped_frame d c offset
    generalize s.lanesTripped d c offset = w at hexec htold hlane hchannel hgate hslot hdomain hw
    have htick : w.tick = s.tick := by rw [hw]
    obtain ⟨hfreeze, hevent⟩ := htold
    have hy := w.tripRecorded_frame d { first := c.val, second := 2, third := (s.domain d).trip.state.code }
    have hyevent := w.tripRecorded_event d { first := c.val, second := 2, third := (s.domain d).trip.state.code }
    have hyother (e : Fin 12) := w.tripRecorded_event_ne d { first := c.val, second := 2, third := (s.domain d).trip.state.code } (e := e)
    have hyfreeze := w.tripRecorded_freezes d { first := c.val, second := 2, third := (s.domain d).trip.state.code }
    rw [← State.tripRecorded] at hexec
    generalize w.tripRecorded d { first := c.val, second := 2, third := (s.domain d).trip.state.code } = t at hexec hy hyevent hyother hyfreeze
    obtain ⟨st', ev', ht⟩ := hy
    have hlane (l : Fin 4) : t.lane l =
        if s.meetsDomain l d = true ∧ (s.lane l).state ≠ .unbound then (s.lane l).tripped (s.tripCompletions l c) else s.lane l := by
      rw [← hlane, ht]
      rfl
    have hchannel (k : Fin 6) : (s.tripsOff d k ∧ t.channel k = (s.channel k).turnOff s.tick offset) ∨
        (¬s.tripsOff d k ∧ t.channel k = s.channel k) := by
      have hk : t.channel k = w.channel k := by
        rw [ht]
        rfl
      rw [hk]
      exact hchannel k
    have hgate (g : Fin 4) : t.gate g = (s.gate g).withoutThose (fun l => s.meetsDomain l d && (s.lane l).state == .gated) allLanes := by
      rw [← hgate, ht]
      rfl
    have hslot (n : Fin 16) : t.slot n =
        { s.slot n with
          useCount := (s.slot n).useCount - allLanes.countP fun l => s.meetsDomain l d && (s.lane l).runs fun g => g.uses n } := by
      rw [← hslot, ht]
      rfl
    have hdomain (e : Fin 3) : t.domain e = if e = d then (s.domain d).trip else s.domain e := by
      rw [← hdomain, ht]
      rfl
    have hoff {k : Fin 6} (hk : s.tripsOff d k) : (t.channel k).code = .off := by
      rcases hchannel k with ⟨-, h⟩ | ⟨h, -⟩
      · rw [h, Channel.turnOff_code]
      · exact absurd hk h
    refine ⟨t, hexec, ?_, fun e he => ?_, fun k hk => hoff (.inl hk), fun k => ?_, fun l hm hb => ⟨?_, fun hwork k ho => ?_⟩, fun l hl => ?_,
      fun k hk ho => ?_, fun g => ⟨fun l => ?_, ?_⟩, fun n => ?_, ?_, fun e hd h0 h1 => ?_, ?_, ?_⟩
    · rw [hdomain, if_pos rfl, Domain.trip_eq]
    · rw [hdomain, if_neg he]
    · rcases hchannel k with ⟨-, h⟩ | ⟨-, h⟩
      · rw [h]
        exact Channel.turnOff_keepsLimits ..
      · rw [h]
        exact ⟨rfl, rfl, rfl, rfl⟩
    · rw [hlane, if_pos ⟨hm, hb⟩, State.tripCompletions_eq]
      rfl
    · exact hoff (.inr ⟨l, hm, Lane.working_iff.mpr hwork, ho⟩)
    · rw [hlane, if_neg fun h => hl.elim (fun hf => by simp [hf] at h) h.2]
    · rcases hchannel k with ⟨h, -⟩ | ⟨-, h⟩
      · rcases h with h | ⟨l, hm, hwork, hl⟩
        · rw [hk] at h
          cases h
        · exact absurd (Lane.working_iff.mp hwork) (ho l hl hm)
      · exact h
    · rw [hgate, Gate.withoutThose_arrivals]
      simp [mem_allLanes]
    · rw [hgate]
      exact (Gate.withoutThose_left _ allLanes (s.gate g)).frame
    · rw [hslot]
      rfl
    · rw [hyevent, htick, hevent _ (domainTripSource_ne d 0).symm (domainTripSource_ne d 1).symm, Domain.trip_eq]
    · rw [hyother e hd h0 h1, hevent e h0 h1]
    · refine (hfreeze.trans hyfreeze htick).congr rfl rfl rfl rfl rfl fun f => ?_
      simp only [Lane.isRunning_iff]
      constructor
      · rintro (h | ⟨l, r, hf, hm, hr⟩)
        · exact .inr h
        · exact .inl ⟨l, hm, ⟨r, hr⟩, hf⟩
      · rintro (⟨l, hm, ⟨r, hr⟩, hf⟩ | h)
        · exact .inr ⟨l, r, hf, hm, hr⟩
        · exact .inl h
    · rw [ht, hw]
  · exact exec_shortDetect_same fun _ => State.channelTrip_notArmed (State.domainOf_eq hok hd) hno .short offset
  · exact exec_shortDetect_same fun h => absurd h (Bool.eq_false_iff.mp hno)
  · refine exec_shortDetect_same fun h => ?_
    rw [State.conducting_iff, Channel.off_highOn hoff, Channel.off_lowOn hoff] at h
    obtain h | h | ⟨hm, hthen⟩ := h
    · cases h
    · cases h
    · rcases hend with hne | hf
      · exact absurd hm hne
      · rw [hf] at hthen
        cases hthen
  · have hk := exec_driveStep he h
    have := ((hk.channel c).conducts happlied hcond).2
    rwa [← hk.tick] at this

end Sys2Proof.Machine
end


section
/-! PROOFS. The tick (O7 to O9): what an event that falls due leaves as it is, and what the samples of a quiet tick bring. -/

namespace Sys2Proof.Machine

-- One declaration after another: so the whole text compiles within the memory of the check.
set_option Elab.async false

/-! ### What an event that falls due can change -/

/-- All that an event other than a trip changes. -/
def DueWork (s t : State) : Prop :=
  ∃ ch la sl ga st sq ev pm si cq ca xm ro, t =
    { s with
      channels := ch, lanes := la, slots := sl, gates := ga, streams := st, sqs := sq, events := ev, permit := pm, senseInputs := si
      cqs := cq, cause := ca, xm := xm, rotation := ro }

namespace DueWork

theorem refl (s : State) : DueWork s s := ⟨_, _, _, _, _, _, _, _, _, _, _, _, _, rfl⟩

theorem trans {s t u : State} (h : DueWork s t) (k : DueWork t u) : DueWork s u := by
  obtain ⟨_, _, _, _, _, _, _, _, _, _, _, _, _, rfl⟩ := h
  obtain ⟨_, _, _, _, _, _, _, _, _, _, _, _, _, rfl⟩ := k
  exact ⟨_, _, _, _, _, _, _, _, _, _, _, _, _, rfl⟩

theorem ite {s t u : State} {p : Prop} [Decidable p] (h : p → DueWork s t) (k : ¬p → DueWork s u) : DueWork s (if p then t else u) := by
  split
  · exact h ‹_›
  · exact k ‹_›

theorem of_laneStep {s t : State} (h : LaneStep s t) : DueWork s t := by
  obtain ⟨_, _, _, _, _, _, _, rfl⟩ := h.work
  exact ⟨_, _, _, _, _, _, _, _, _, _, _, _, _, rfl⟩

theorem updStream (s : State) (n : Fin 2) (f : CaptureStream → CaptureStream) : DueWork s (s.updStream n f) := of_laneStep (.updStream s n f)

theorem recordEvent (s : State) (e : Fin 12) (d : EventDetail) : DueWork s (s.recordEvent e d) := of_laneStep (.recordEvent s e d)

theorem writeCapture (s : State) (n : Fin 2) (record : List Byte) : DueWork s (s.writeCapture n record) := by
  have hwrite : DueWork s { s with xm := Memory.writeBytes s.xm (s.stream n).writePos record, rotation := .capture } :=
    ⟨_, _, _, _, _, _, _, _, _, _, _, _, _, rfl⟩
  unfold State.writeCapture
  dsimp only
  split
  · split
    · exact (hwrite.trans (.updStream _ n _)).trans (.recordEvent _ _ _)
    · exact hwrite.trans (.updStream _ n _)
  · exact hwrite.trans (.updStream _ n _)

theorem captureRecord (s : State) (n : Fin 2) : DueWork s (s.captureRecord n) := by
  unfold State.captureRecord
  dsimp only
  refine .ite (fun _ => .writeCapture s n _) fun _ => .ite (fun _ => .ite (fun _ => ?_) fun _ => .writeCapture s n _) fun _ =>
    .ite (fun _ => .updStream s n _) fun _ => ?_
  · exact (writeCapture s n _).trans (.updStream _ n _)
  · exact (updStream s n _).trans (.recordEvent _ _ _)

theorem setPermit (s : State) (p : PermitMonitor) : DueWork s (s.setPermit p) := by
  have hp : DueWork s { s with permit := p } := ⟨_, _, _, _, _, _, _, _, _, _, _, _, _, rfl⟩
  exact .ite (fun _ => hp.trans (.of_laneStep (.permitLoss _))) fun _ => .ite (fun _ => hp.trans (.of_laneStep (.permitReturn _))) fun _ => hp

/-- An event other than a trip. -/
theorem takeDue (s : State) (e : DueEvent) (he : ∀ c, e ≠ .overcurrentTrip c) : DueWork s (s.takeDue e) := by
  cases e with
  | currentStop l => exact .of_laneStep (.currentStop s l)
  | overcurrentTrip c => exact absurd rfl (he c)
  | enableChange => exact ite (fun _ => .setPermit s _) fun _ => .refl s
  | supplyChange => exact ite (fun _ => .setPermit s _) fun _ => .refl s
  | senseChange i =>
    exact ite (fun _ => (of_laneStep (.captureInputs s i)).trans ⟨_, _, _, _, _, _, _, _, _, _, _, _, _, rfl⟩) fun _ => .refl s
  | segmentTimeout l => exact .of_laneStep (.segmentTimeout s l)
  | phaseEnd l => exact .of_laneStep (.phaseEnd s l)
  | holdExpiry l => exact .of_laneStep (.holdExpiry s l)
  | gateTimeout g => exact .of_laneStep (.gateTimeout s g)
  | captureInstant n => exact ite (fun _ => (captureRecord s n).trans (.updStream _ n _)) fun _ => .refl s
  | delayExpiry q =>
    refine ite (fun _ => ?_) fun _ => .refl s
    exact trans ⟨_, _, _, _, _, _, _, _, _, _, _, _, _, rfl⟩ (.ite (fun _ => ⟨_, _, _, _, _, _, _, _, _, _, _, _, _, rfl⟩) fun _ => .refl _)

theorem domain {s t : State} (h : DueWork s t) (d : Fin 3) : t.domain d = s.domain d := by
  obtain ⟨_, _, _, _, _, _, _, _, _, _, _, _, _, rfl⟩ := h
  rfl

theorem tripsDue {s t : State} (h : DueWork s t) : t.tripsDue = s.tripsDue := by
  obtain ⟨_, _, _, _, _, _, _, _, _, _, _, _, _, rfl⟩ := h
  rfl

end DueWork

/-- A trip changes the domains, too, and which trips are due. -/
theorem State.tripDomain_work (s : State) (d : Fin 3) (c : Fin 6) (cause : TripCause) (offset : Nat) :
    ∃ dm, DueWork { s with domains := dm } (s.tripDomain d c cause offset) := by
  obtain ⟨_, _, _, _, dm, _, _, hw⟩ := s.lanesTripped_frame d c offset
  obtain ⟨_, _, ht⟩ := (s.lanesTripped d c offset).tripRecorded_frame d { first := c.val, second := cause.code, third := (s.domain d).trip.state.code }
  rw [State.tripDomain_eq, ← State.lanesTripped, ← State.tripRecorded, ht, hw]
  exact ⟨dm, _, _, _, _, _, _, _, _, _, _, _, _, _, rfl⟩

theorem State.channelTrip_work (s : State) (c : Fin 6) (cause : TripCause) (offset : Nat) :
    ∃ dm, DueWork { s with domains := dm } (s.channelTrip c cause offset) := by
  unfold State.channelTrip
  split
  · exact ⟨_, .refl s⟩
  · split
    · exact s.tripDomain_work _ c cause offset
    · exact ⟨_, .refl s⟩

theorem State.takeDue_work (s : State) (e : DueEvent) : ∃ dm td, DueWork { s with domains := dm, tripsDue := td } (s.takeDue e) := by
  by_cases h : ∀ c, e ≠ .overcurrentTrip c
  · exact ⟨_, _, .takeDue s e h⟩
  · obtain ⟨c, rfl⟩ := not_forall_not.mp h
    change ∃ dm td, DueWork { s with domains := dm, tripsDue := td } (s.overcurrentTrip c)
    unfold State.overcurrentTrip
    split
    · obtain ⟨dm, hdm⟩ := State.channelTrip_work { s with tripsDue := s.tripsDue.filter (· != c) } c .overcurrent 0
      exact ⟨dm, _, hdm⟩
    · exact ⟨_, _, .refl s⟩

/-- The events that fall due reach neither the engine, the link, the tick counter nor the store of the last samples. -/
structure Unseen (s t : State) : Prop where
  tick : t.tick = s.tick
  lastSample : t.lastSample = s.lastSample
  engine : t.engine = s.engine
  fetch : t.fetch = s.fetch
  configRead : t.configRead = s.configRead
  pendingList : t.pendingList = s.pendingList
  linkQueue : t.linkQueue = s.linkQueue
  openRead : t.openRead = s.openRead

theorem State.takeDue_unseen (s : State) (e : DueEvent) : Unseen s (s.takeDue e) := by
  obtain ⟨_, _, _, _, _, _, _, _, _, _, _, _, _, _, _, h⟩ := s.takeDue_work e
  rw [h]
  exact ⟨rfl, rfl, rfl, rfl, rfl, rfl, rfl, rfl⟩

theorem Unseen.trans {s t u : State} (h : Unseen s t) (k : Unseen t u) : Unseen s u :=
  ⟨k.1.trans h.1, k.2.trans h.2, k.3.trans h.3, k.4.trans h.4, k.5.trans h.5, k.6.trans h.6, k.7.trans h.7, k.8.trans h.8⟩

theorem State.takeAll_unseen : ∀ (es : List DueEvent) (s : State), Unseen s (s.takeAll es)
  | [], _ => ⟨rfl, rfl, rfl, rfl, rfl, rfl, rfl, rfl⟩
  | e :: es, s => (s.takeDue_unseen e).trans (State.takeAll_unseen es (s.takeDue e))

/-! ### The steps of a tick -/

/-- The counters have advanced and the samples are delivered; what they bring is due. -/
def State.sampled (s : State) (p : PinSample) : State := { s.advance.observe p with tripsDue := s.tripping (samplesOf p) }

/-- The trips that a tick does not leave for later. -/
def tripsTaken (o : TickOrder) : List (Fin 6) := allChannels.filter fun c => !o.late.contains (.overcurrentTrip c)

/-- The lanes whose current stops a tick does not leave for later. -/
def stopsTaken (o : TickOrder) : List (Fin 4) := allLanes.filter fun l => !o.late.contains (.currentStop l)

theorem samplesTaken_eq (o : TickOrder) :
    samplesTaken o = (tripsTaken o).map .overcurrentTrip ++ (stopsTaken o).map .currentStop := by
  rw [samplesTaken, sampleEvents, List.filter_append, List.filter_map, List.filter_map]
  rfl

theorem State.takeAll_append (s : State) (xs ys : List DueEvent) : s.takeAll (xs ++ ys) = (s.takeAll xs).takeAll ys := List.foldl_append

section
variable (s : State) (p : PinSample)

theorem State.sampled_frame : ∃ ch la ga cq si, s.sampled p =
    { s with
      tick := s.tick + 1, channels := ch, lanes := la, gates := ga, cqs := cq, senseInputs := si, lastSample := samplesOf p
      permit := s.permit.sample p.enable p.supply, tripsDue := s.tripping (samplesOf p) } := by
  have hobserve : ∃ ch la si, s.advance.observe p =
      { s.advance with
        channels := ch, lanes := la, senseInputs := si, lastSample := samplesOf p
        permit := s.advance.permit.sample p.enable p.supply } := ⟨_, _, _, s.advance.observe_frame p⟩
  have hadvance : ∃ ch la ga cq, s.advance = { s with tick := s.tick + 1, channels := ch, lanes := la, gates := ga, cqs := cq } :=
    ⟨_, _, _, _, s.advance_frame⟩
  obtain ⟨_, _, _, ho⟩ := hobserve
  obtain ⟨_, _, _, _, ha⟩ := hadvance
  rw [State.sampled, ho, ha]
  exact ⟨_, _, _, _, _, rfl⟩

theorem State.sampled_channel (c : Fin 6) : (s.sampled p).channel c = ((s.channel c).rebase (s.tick + 1)).sample (samplesOf p)[c] := by
  have h : (s.sampled p).channel c = (s.advance.observe p).channel c := rfl
  rw [h, State.observe_channel, State.advance_channel]

theorem State.sampled_lane (l : Fin 4) : (s.sampled p).lane l =
    { s.lane l with
      state := (s.lane l).state.advance.sample (samplesOf p) (s.lane l).owned
      holdTimer := (s.lane l).holdTimer.map (· - 1) } := by
  have h : (s.sampled p).lane l = (s.advance.observe p).lane l := rfl
  have hdown : countDown (s.lane l).holdTimer = (s.lane l).holdTimer.map (· - 1) := by
    cases (s.lane l).holdTimer <;> rfl
  rw [h, State.observe_lane, State.advance_lane, hdown]

theorem State.sampled_gate (g : Fin 4) : (s.sampled p).gate g = { s.gate g with waitTimer := (s.gate g).waitTimer.map (· - 1) } := by
  have h : (s.sampled p).gate g = s.advance.gate g := rfl
  have hdown : countDown (s.gate g).waitTimer = (s.gate g).waitTimer.map (· - 1) := by
    cases (s.gate g).waitTimer <;> rfl
  rw [h, State.advance_gate, hdown]

theorem State.sampled_cq (q : Fin 2) : (s.sampled p).cq q = { s.cq q with delayTimer := (s.cq q).delayTimer.map (· - 1) } := by
  have h : (s.sampled p).cq q = s.advance.cq q := rfl
  have hdown : countDown (s.cq q).delayTimer = (s.cq q).delayTimer.map (· - 1) := by
    cases (s.cq q).delayTimer <;> rfl
  rw [h, State.advance_cq, hdown]

theorem State.sampled_filtersTake : FiltersTake s (s.sampled p) p := s.advance.observe_filtersTake p

end

/-! ### A tick at which nothing is due before it -/

section
variable {s : State}

theorem State.overcurrentTrip_none {c : Fin 6} (h : c ∉ s.tripsDue) : s.overcurrentTrip c = s := by
  refine if_neg fun hc => h ?_
  simpa using hc

theorem State.currentStop_none {l : Fin 4} (h : ∀ r, (s.lane l).state = .running r → r.stopMet = false) : s.currentStop l = s := by
  unfold State.currentStop
  split
  · next r hr => exact if_neg (by rw [h r hr]; decide)
  · rfl

/-- An event that is not due changes nothing: at a tick at which at most a trip is due, that is every other event. -/
theorem State.takeDue_none (h : s.OnlyTripsDue) {e : DueEvent} (he : ∀ c, e = .overcurrentTrip c → c ∉ s.tripsDue) : s.takeDue e = s := by
  obtain ⟨hen, hsup, hsense, hrun, hhold, hwait, hinst, -, hdelay⟩ := h
  cases e with
  | currentStop l => exact State.currentStop_none fun r hr => (hrun l r hr).2.2
  | overcurrentTrip c => exact State.overcurrentTrip_none (he c rfl)
  | enableChange => exact if_neg (by rw [show s.permit.enableDue = false from hen]; decide)
  | supplyChange => exact if_neg (by rw [show s.permit.supplyDue = false from hsup]; decide)
  | senseChange i => exact if_neg (by rw [show (s.senseInput i).due = false from hsense i]; decide)
  | segmentTimeout l =>
    change s.segmentTimeout l = s
    unfold State.segmentTimeout
    split
    · next r hr => exact if_neg (hrun l r hr).2.1
    · rfl
  | phaseEnd l =>
    change s.phaseEnd l = s
    unfold State.phaseEnd
    split
    · next r hr => exact if_neg (hrun l r hr).1
    · rfl
  | holdExpiry l => exact if_neg (hhold l)
  | gateTimeout g => exact if_neg (hwait g)
  | captureInstant n => exact if_neg (by rw [show s.instantDue n = false from hinst n]; decide)
  | delayExpiry q => exact if_neg (hdelay q)

theorem State.NothingDue.onlyTrips (h : s.NothingDue) : s.OnlyTripsDue := by
  obtain ⟨hen, hsup, hsense, hrun, hhold, hwait, hinst, -, hdelay⟩ := h
  exact ⟨hen, hsup, hsense, hrun, hhold, hwait, hinst, rfl, hdelay⟩

theorem State.NothingDue.tripsDue (h : s.NothingDue) : s.tripsDue = [] := h.2.2.2.2.2.2.2.1

theorem State.NothingDue.takeAll (h : s.NothingDue) (es : List DueEvent) : s.takeAll es = s :=
  State.takeAll_none (fun _ => State.takeDue_none h.onlyTrips fun c _ => by simp [h.tripsDue]) es

theorem exec_tick (ha : s.Awake) (p : PinSample) (o : TickOrder) : exec (.tick p o) s = .next (s.tickStep p o) :=
  State.act_awake ha fun s => s.tickStep p o

theorem State.tickStep_eq (s : State) (p : PinSample) (o : TickOrder) :
    s.tickStep p o = (((s.takeAll dueOrder).sampled p).takeAll o.first).takeAll (samplesTaken o) := rfl

/-- The channels that trip on the samples of a tick (R72). -/
theorem State.mem_tripping {p : PinSample} {c : Fin 6} :
    c ∈ s.tripping (samplesOf p) ↔ countsAgainst s p c = true ∧ (s.channel c).overCount = true := by
  rw [State.tripping, List.mem_filter, Channel.trips, Bool.and_eq_true, samplesOf_get]
  exact and_iff_right (mem_allChannels c)

/-- No channel trips on the samples. -/
theorem State.tripping_nil {p : PinSample} (h : ∀ c : Fin 6, countsAgainst s p c = true → (s.channel c).overCount = false) :
    s.tripping (samplesOf p) = [] :=
  List.eq_nil_iff_forall_not_mem.mpr fun c hc => by
    obtain ⟨hcount, hover⟩ := State.mem_tripping.mp hc
    rw [h c hcount] at hover
    cases hover

/-- The lanes of a list take the current stops that their segments have met. -/
def State.takeStops (s : State) (ls : List (Fin 4)) : State := ls.foldl (fun s l => s.currentStop l) s

/-- A tick with no event before it, none first and no trip: only current stops are left to take. -/
theorem State.tickStep_quiet (h : s.NothingDue) {p : PinSample} {o : TickOrder} (ho : o.first = [])
    (htrip : ∀ c : Fin 6, countsAgainst s p c = true → (s.channel c).overCount = false) :
    s.tickStep p o = (s.sampled p).takeStops (stopsTaken o) := by
  have htrips : ∀ cs : List (Fin 6), (s.sampled p).takeAll (cs.map .overcurrentTrip) = s.sampled p := by
    have hnone : (s.sampled p).tripsDue = [] := State.tripping_nil htrip
    intro cs
    induction cs with
    | nil => rfl
    | cons c cs ih =>
      change State.takeAll ((s.sampled p).overcurrentTrip c) (cs.map .overcurrentTrip) = s.sampled p
      rw [State.overcurrentTrip_none (by rw [hnone]; exact List.not_mem_nil), ih]
  rw [State.tickStep_eq, h.takeAll, ho, State.takeAll_nil, samplesTaken_eq, State.takeAll_append, htrips, State.takeAll, List.foldl_map]
  rfl

end

/-! ### Current stops (R31, R34, R35) -/

theorem State.currentStop_met {s : State} {l : Fin 4} {r : Running} (hr : (s.lane l).state = .running r) (hm : r.stopMet = true) :
    s.currentStop l = s.ended l r .stoppedCurrent := by
  have hcause : s.endCause r = some .stoppedCurrent := if_pos hm
  rw [State.currentStop, hr]
  simp only [hm, if_true]
  rw [State.endIfDue_ends hr hcause, State.endSegment_ended]
  exact if_neg Status.noConfusion

theorem Channel.turnOff_keeps (x : Channel) (now : Tick) : KeepsLimits x (x.turnOff now) := Channel.turnOff_keepsLimits x now 0

/-- A lane's segment is at its current stop. -/
def State.stops (u : State) (l : Fin 4) : Prop := ∃ r, (u.lane l).state = .running r ∧ r.stopMet = true

/-- What the endings of segments by their current stops leave as it was in `u`. -/
structure Stopped (u t : State) : Prop where
  running : ∀ l r, (t.lane l).state = .running r → (u.lane l).state = .running r
  waiting : ∀ l, (u.lane l).isRunning = false → t.lane l = u.lane l
  owned : ∀ l, (t.lane l).owned = (u.lane l).owned
  holdLimit : ∀ l, (t.lane l).holdLimit = (u.lane l).holdLimit
  expiryCount : ∀ l, (t.lane l).expiryCount = (u.lane l).expiryCount
  queue : ∀ l, (t.lane l).queue = (u.lane l).queue
  resume : ∀ l, (t.lane l).resume = (u.lane l).resume
  limits : ∀ c, KeepsLimits (u.channel c) (t.channel c)
  drive : ∀ c, (∀ l, (u.channel c).owner = some l → ¬u.stops l) → t.channel c = u.channel c
  slot : ∀ n, t.slot n = { u.slot n with useCount := (t.slot n).useCount }
  slotKept : ∀ n, (∀ l r, u.stops l → (u.lane l).state = .running r → r.seg.uses n = false) → t.slot n = u.slot n
  frame : t = { u with channels := t.channels, lanes := t.lanes, slots := t.slots }

theorem Stopped.refl (u : State) : Stopped u u where
  running _ _ h := h
  waiting _ _ := rfl
  owned _ := rfl
  holdLimit _ := rfl
  expiryCount _ := rfl
  queue _ := rfl
  resume _ := rfl
  limits _ := ⟨rfl, rfl, rfl, rfl⟩
  drive _ _ := rfl
  slot _ := rfl
  slotKept _ _ := rfl
  frame := rfl

theorem EndAction.nextState_ne (a : EndAction) (r : Running) : a.nextState ≠ .running r := by
  cases a <;> exact LaneState.noConfusion

theorem Stopped.turn {u t : State} (h : Stopped u t) (l : Fin 4) : Stopped u (t.currentStop l) := by
  by_cases hstop : ∃ r, (t.lane l).state = .running r ∧ r.stopMet = true
  · obtain ⟨r, hr, hm⟩ := hstop
    have hru : (u.lane l).state = .running r := h.running l r hr
    have hlane := t.ended_lane l r .stoppedCurrent
    have hchannel (c : Fin 6) := (t.ended_channel l r .stoppedCurrent c).trans (t.endActionOff_channel l r.seg.endAction c)
    have hslot := t.ended_slot l r .stoppedCurrent
    obtain ⟨ch, sl, hframe⟩ := t.ended_frame l r .stoppedCurrent
    have hkept {α : Type} (f : Lane → α) (hf : ∀ ln a c, f (Lane.ended ln a c) = f ln) (k : Fin 4) (hk : f (t.lane k) = f (u.lane k)) :
        f ((t.ended l r .stoppedCurrent).lane k) = f (u.lane k) := by
      rw [hlane, ← hk]
      split
      · next hkl => rw [hf, hkl]
      · rfl
    rw [State.currentStop_met hr hm]
    refine ⟨fun k x hx => ?_, fun k hk => ?_, fun k => hkept Lane.owned (fun _ _ _ => rfl) k (h.owned k),
      fun k => hkept Lane.holdLimit (fun _ _ _ => rfl) k (h.holdLimit k), fun k => hkept Lane.expiryCount (fun _ _ _ => rfl) k (h.expiryCount k),
      fun k => hkept Lane.queue (fun _ _ _ => rfl) k (h.queue k), fun k => hkept Lane.resume (fun _ _ _ => rfl) k (h.resume k),
      fun c => ?_, fun c hc => ?_, fun n => ?_, fun n hn => ?_, ?_⟩
    · rw [hlane] at hx
      split at hx
      · exact absurd hx (EndAction.nextState_ne r.seg.endAction x)
      · exact h.running k x hx
    · have hkl : k ≠ l := by
        rintro rfl
        simp [Lane.isRunning, hru] at hk
      rw [hlane, if_neg hkl, h.waiting k hk]
    · obtain ⟨ho, ht, hb, hov⟩ := h.limits c
      rw [hchannel]
      split
      · obtain ⟨ho', ht', hb', hov'⟩ := (t.channel c).turnOff_keeps t.tick
        exact ⟨ho'.trans ho, ht'.trans ht, hb'.trans hb, hov'.trans hov⟩
      · exact ⟨ho, ht, hb, hov⟩
    · rw [hchannel, if_neg, h.drive c hc]
      rintro ⟨-, ho⟩
      exact hc l ((h.limits c).1 ▸ ho) ⟨r, hru, hm⟩
    · rw [hslot, h.slot n]
    · rw [hslot, hn l r ⟨r, hru, hm⟩ hru, h.slotKept n hn]
      rfl
    · rw [hframe, h.frame]
      rfl
  · rwa [State.currentStop_none fun r hr => Bool.not_eq_true _ ▸ fun hm => hstop ⟨r, hr, hm⟩]

theorem State.takeStops_stopped (u : State) (ls : List (Fin 4)) : Stopped u (u.takeStops ls) :=
  State.foldl_keeps (P := Stopped u) (fun _ l h => h.turn l) ls u (.refl u)

/-! ### What a tick does to the running segments -/

/-- The current stop of a running segment is met by its next sample, which counts against the blanking (R31). -/
def Running.stopsAt (r : Running) (samples : Vector Int 6) : Bool :=
  match r.seg.currentStop with
  | none => false
  | some x => decide (x.blanking < r.samples + 1) && x.metBy samples[x.channel].natAbs

theorem Running.sampled_eq (r : Running) (samples : Vector Int 6) (owned : ChannelSet) : r.advance.sample samples owned =
    { r with
      samples := r.samples + 1, elapsed := min 4294967295 (r.elapsed + 1), peak := max r.peak (peakOf samples owned), endedPhase := none
      stopMet := r.stopsAt samples } := by
  rw [Running.sample, Running.advance, satSucc_eq]
  rfl

/-- A running segment after the tick's samples. -/
theorem State.sampled_running {s : State} {l : Fin 4} {r : Running} (hr : (s.lane l).state = .running r) (p : PinSample) :
    ((s.sampled p).lane l).state = .running (r.advance.sample (samplesOf p) (s.lane l).owned) := by
  rw [State.sampled_lane, hr]
  rfl

/-- A lane that runs after the tick's samples ran before them, with the same segment. -/
theorem State.sampled_ran {s : State} {l : Fin 4} {r : Running} {p : PinSample} (hr : ((s.sampled p).lane l).state = .running r) :
    ∃ x, (s.lane l).state = .running x ∧ r = x.advance.sample (samplesOf p) (s.lane l).owned := by
  rw [State.sampled_lane] at hr
  cases hs : (s.lane l).state with
  | running x =>
    rw [hs] at hr
    exact ⟨x, rfl, (LaneState.running.inj hr).symm⟩
  | _ =>
    rw [hs] at hr
    cases hr

/-- Only a segment with a current stop is at it after the tick's samples. -/
theorem State.sampled_stops {s : State} {l : Fin 4} {p : PinSample} (h : (s.sampled p).stops l) :
    ∃ r, (s.lane l).state = .running r ∧ r.seg.currentStop ≠ none := by
  obtain ⟨r, hr, hm⟩ := h
  obtain ⟨x, hx, rfl⟩ := State.sampled_ran hr
  refine ⟨x, hx, fun hnone => ?_⟩
  rw [Running.sampled_eq, Running.stopsAt, hnone] at hm
  cases hm

theorem Channel.rebase_duty (c : Channel) (now : Tick) : (c.rebase now).duty = c.duty := by rw [Channel.rebase_eq]

theorem Channel.rebase_period (c : Channel) (now : Tick) : (c.rebase now).period = c.period := by rw [Channel.rebase_eq]

theorem Channel.rebase_bbm (c : Channel) (now : Tick) : (c.rebase now).bbm = c.bbm := by rw [Channel.rebase_eq]

/-- Settles O7. What falls due does not reach the fields of the first part; at a quiet tick the counters and the samples do all but
the current stops. -/
theorem tickAdvancesAndSamples : Obligations.TickAdvancesAndSamples := by
  intro s p o ha
  refine ⟨s.tickStep p o, exec_tick ha p o, ?_⟩
  have hunseen : Unseen { s with tick := s.tick + 1, lastSample := samplesOf p } (s.tickStep p o) := by
    have hdue := State.takeAll_unseen dueOrder s
    rw [State.tickStep_eq]
    generalize s.takeAll dueOrder = u at hdue
    obtain ⟨_, _, _, _, _, hsampled⟩ := u.sampled_frame p
    refine Unseen.trans ?_ ((State.takeAll_unseen o.first (u.sampled p)).trans (State.takeAll_unseen _ _))
    rw [hsampled]
    exact ⟨congrArg (· + 1) hdue.tick, rfl, hdue.engine, hdue.fetch, hdue.configRead, hdue.pendingList, hdue.linkQueue, hdue.openRead⟩
  refine ⟨hunseen.tick, fun c => ?_, hunseen.engine, hunseen.fetch, hunseen.configRead, hunseen.pendingList, hunseen.linkQueue,
    hunseen.openRead, ?_⟩
  · rw [hunseen.lastSample]
    exact samplesOf_get p c
  intro mayEnd hnone ho htrip
  rw [State.tickStep_quiet hnone ho htrip]
  have hstopped := (s.sampled p).takeStops_stopped (stopsTaken o)
  have hlane := s.sampled_lane p
  have hchannel := s.sampled_channel p
  have hgate := s.sampled_gate p
  have hcq := s.sampled_cq p
  have hfilters := s.sampled_filtersTake p
  have hstops (l : Fin 4) : (s.sampled p).stops l → mayEnd l := State.sampled_stops
  have hran (l : Fin 4) (r : Running) : ((s.sampled p).lane l).state = .running r →
      ∃ x, (s.lane l).state = .running x ∧ r = x.advance.sample (samplesOf p) (s.lane l).owned := State.sampled_ran
  obtain ⟨ch, la, ga, cq, si, hframe⟩ := s.sampled_frame p
  have htripsDue : s.tripsDue = s.tripping (samplesOf p) := by rw [hnone.tripsDue, State.tripping_nil htrip]
  rw [← htripsDue] at hframe
  have hslot (n : Fin 16) : (s.sampled p).slot n = s.slot n := by
    rw [hframe]
    rfl
  generalize s.sampled p = u at *
  generalize u.takeStops (stopsTaken o) = t at *
  have howner (c : Fin 6) : (u.channel c).owner = (s.channel c).owner := by
    rw [hchannel, Channel.sample_owner, Channel.rebase_owner]
  refine ⟨?_, fun l hl => ?_, fun g => ?_, fun q => ?_, fun l r hr => ?_, fun c => ?_, fun c hc => ?_, fun n => ?_, fun n hn => ?_, ?_⟩
  · rw [hstopped.frame]
    exact hfilters
  · have hstate : (s.lane l).state.advance.sample (samplesOf p) (s.lane l).owned = (s.lane l).state := by
      unfold Lane.isRunning at hl
      cases hs : (s.lane l).state with
      | running r => simp [hs] at hl
      | _ => rfl
    have hlu : u.lane l = { s.lane l with holdTimer := (s.lane l).holdTimer.map (· - 1) } := by rw [hlane, hstate]
    have hwait : (u.lane l).isRunning = false := by rw [hlu]; exact hl
    rw [hstopped.waiting l hwait, hlu]
  · rw [hstopped.frame]
    exact hgate g
  · rw [hstopped.frame]
    exact hcq q
  · rw [hstopped.owned, hstopped.holdLimit, hstopped.expiryCount, hstopped.queue, hstopped.resume, hlane]
    exact ⟨rfl, rfl, rfl, rfl, rfl⟩
  · obtain ⟨h1, h2, h3, -⟩ := hstopped.limits c
    rw [h1, h2, h3, hchannel]
    exact ⟨Channel.rebase_owner .., Channel.rebase_threshold .., Channel.rebase_bbm ..⟩
  · rw [hstopped.drive c fun l hl hs => hc l (howner c ▸ hl) (hstops l hs), hchannel]
    exact ⟨rfl, Channel.rebase_code .., Channel.rebase_duty .., Channel.rebase_period ..⟩
  · rw [hstopped.slot n, hslot]
  · rw [hstopped.slotKept n fun l r hs hr => ?_, hslot]
    obtain ⟨x, hx, rfl⟩ := hran l r hr
    exact hn l x (hstops l hs) hx
  · rw [hstopped.frame, hframe]

/-! ### A running segment at a quiet tick (R30, R31, R34) -/

theorem PhasesKept.currentStop (s : State) (l : Fin 4) : PhasesKept s (s.currentStop l) := by
  unfold State.currentStop
  split
  · split
    · exact .endIfDue s l
    · exact .refl s
  · exact .refl s

theorem State.currentStop_lane_ne (s : State) (l k : Fin 4) (hk : k ≠ l) : (s.currentStop l).lane k = s.lane k := by
  unfold State.currentStop
  split
  · split
    · exact s.endIfDue_lane_ne hk
    · rfl
  · rfl

theorem stopsTaken_nodup (o : TickOrder) : (stopsTaken o).Nodup := List.Nodup.filter _ (by decide)

theorem mem_stopsTaken {o : TickOrder} {l : Fin 4} (h : .currentStop l ∉ o.late) : l ∈ stopsTaken o :=
  List.mem_filter.mpr ⟨mem_allLanes l, by simpa using h⟩

/-- A lane whose turn comes takes its current stop as the samples left it. -/
theorem State.takeStops_lane (u : State) {ls : List (Fin 4)} (hnd : ls.Nodup) {l : Fin 4} (hl : l ∈ ls) :
    ∃ w, PhasesKept u w ∧ w.lane l = u.lane l ∧ (u.takeStops ls).lane l = (w.currentStop l).lane l :=
  State.foldl_lane (R := PhasesKept) (f := fun s l => s.currentStop l) PhasesKept.refl PhasesKept.trans PhasesKept.currentStop
    State.currentStop_lane_ne ls u l hnd hl

theorem State.sampled_phases (s : State) (p : PinSample) (g : Segment) : segmentPhases (s.sampled p) g = segmentPhases s g := by
  obtain ⟨_, _, _, _, _, h⟩ := s.sampled_frame p
  rw [h]
  rfl

theorem State.sampled_tick (s : State) (p : PinSample) : (s.sampled p).tick = s.tick + 1 := by
  obtain ⟨_, _, _, _, _, h⟩ := s.sampled_frame p
  rw [h]

/-- The current stop that the statement speaks of is the one that the samples meet. -/
theorem Running.stopsAt_eq (r : Running) (p : PinSample) : r.stopsAt (samplesOf p) =
    match r.seg.currentStop with
    | none => false
    | some x =>
      let magnitude := (max (-4000) (min 4000 p.currents[x.channel])).natAbs
      decide (x.blanking < r.samples + 1) &&
        match x.direction with
        | .riseAbove => decide (x.threshold < magnitude)
        | .fallBelow => decide (magnitude < x.threshold) := by
  unfold Running.stopsAt CurrentStop.metBy
  cases r.seg.currentStop with
  | none => rfl
  | some x =>
    obtain ⟨channel, direction, threshold, blanking⟩ := x
    cases direction <;> simp only [samplesOf_get]

theorem Running.stopDetail_eq {r : Running} {samples : Vector Int 6} (h : r.stopsAt samples = true) :
    some (endDetail r.seg .stoppedCurrent) = r.seg.currentStop.map (·.channel.val) := by
  unfold Running.stopsAt at h
  unfold endDetail
  cases hc : r.seg.currentStop with
  | none =>
    rw [hc] at h
    cases h
  | some x => rfl

/-- Settles O9: the lane takes the samples, and its current stop in its turn. -/
theorem runningSegmentTakesSample : Obligations.RunningSegmentTakesSample := by
  intro s p o l r ha hnone ho hlate htrip hr
  refine ⟨s.tickStep p o, exec_tick ha p o, ?_⟩
  intro peak elapsed met
  have hmet : r.stopsAt (samplesOf p) = met := r.stopsAt_eq p
  have hru := State.sampled_running hr p
  have hphases := s.sampled_phases p r.seg
  have htick := s.sampled_tick p
  have hkept := s.sampled_lane p l
  rw [State.tickStep_quiet hnone ho htrip]
  obtain ⟨w, hw, hwl, hend⟩ := (s.sampled p).takeStops_lane (stopsTaken_nodup o) (mem_stopsTaken hlate)
  generalize (s.sampled p).takeStops (stopsTaken o) = t at *
  generalize s.sampled p = u at *
  rw [Running.sampled_eq, hmet] at hru
  have hrw := hwl.symm ▸ hru
  refine ⟨fun hno => ?_, fun hyes => ?_⟩
  · have hsame : w.currentStop l = w := State.currentStop_none fun x hx => by
      rw [hrw] at hx
      rw [← LaneState.running.inj hx]
      exact hno
    rw [hend, hsame, hwl, hru, hno, hkept]
    exact ⟨rfl, rfl, rfl⟩
  · rw [hend, State.currentStop_met hrw hyes, State.ended_lane, if_pos rfl, hwl, hkept, hw.ranCompletion, State.ranCompletion_eq]
    refine ⟨EndAction.nextState_eq _, rfl, _, rfl, rfl, rfl, rfl, ?_, rfl, rfl, rfl, ?_⟩
    · exact Running.stopDetail_eq (r := r) (hmet.trans hyes)
    · simp only [runCompletion, PassEnds, htick, hphases]

end Sys2Proof.Machine
end


section
/-! PROOFS. The over-count and the overcurrent trip (O8): the trips that the samples of a tick bring are taken once each, in whatever
order the tick's events are taken. -/

namespace Sys2Proof.Machine

-- One declaration after another: so the whole text compiles within the memory of the check.
set_option Elab.async false

/-! ### What falls due leaves owners, limits and over-counts -/

namespace DriveStep

theorem inputStop (s : State) (i l : Fin 4) : DriveStep 0 s (s.inputStop i l) := by
  unfold State.inputStop
  split
  · exact .ite (fun _ => .endIfDue s l) fun _ => .refl s
  · exact .refl s

theorem currentStop (s : State) (l : Fin 4) : DriveStep 0 s (s.currentStop l) := by
  unfold State.currentStop
  split
  · exact .ite (fun _ => .endIfDue s l) fun _ => .refl s
  · exact .refl s

theorem gateTimeoutLane (s : State) (g l : Fin 4) : DriveStep 0 s (s.gateTimeoutLane g l) := by
  unfold State.gateTimeoutLane
  split
  · exact .refl s
  · exact (((releaseSlot s _).trans (.updLane _ l _)).trans (.startTest _ l)).trans (.readinessNotice _ l)

theorem gateTimeout (s : State) (g : Fin 4) : DriveStep 0 s (s.gateTimeout g) := by
  unfold State.gateTimeout
  refine .ite (fun _ => ?_) fun _ => .refl s
  dsimp only
  exact (updGate s g _).trans (.foldl (fun s l => .ite (fun _ => .gateTimeoutLane s g l) fun _ => .refl s) allLanes _)

theorem updStream (s : State) (n : Fin 2) (f : CaptureStream → CaptureStream) : DriveStep 0 s (s.updStream n f) := .of_same rfl rfl

theorem writeCapture (s : State) (n : Fin 2) (record : List Byte) : DriveStep 0 s (s.writeCapture n record) := by
  have hwrite : DriveStep 0 s { s with xm := Memory.writeBytes s.xm (s.stream n).writePos record, rotation := .capture } := .of_same rfl rfl
  unfold State.writeCapture
  dsimp only
  split
  · split
    · exact (hwrite.trans (.updStream _ n _)).trans (.recordEvent _ _ _)
    · exact hwrite.trans (.updStream _ n _)
  · exact hwrite.trans (.updStream _ n _)

theorem captureRecord (s : State) (n : Fin 2) : DriveStep 0 s (s.captureRecord n) := by
  unfold State.captureRecord
  dsimp only
  refine .ite (fun _ => .writeCapture s n _) fun _ => .ite (fun _ => .ite (fun _ => ?_) fun _ => .writeCapture s n _) fun _ =>
    .ite (fun _ => .updStream s n _) fun _ => ?_
  · exact (writeCapture s n _).trans (.updStream _ n _)
  · exact (updStream s n _).trans (.recordEvent _ _ _)

theorem captureInstant (s : State) (n : Fin 2) : DriveStep 0 s (s.captureInstant n) :=
  .ite (fun _ => (captureRecord s n).trans (.updStream _ n _)) fun _ => .refl s

theorem updSenseInput (s : State) (i : Fin 4) (f : SenseInput → SenseInput) : DriveStep 0 s (s.updSenseInput i f) := .of_same rfl rfl

theorem takeDue (s : State) (e : DueEvent) : DriveStep 0 s (s.takeDue e) := by
  cases e with
  | currentStop l => exact .currentStop s l
  | overcurrentTrip c =>
    exact ite (fun _ => (of_same rfl rfl : DriveStep 0 s { s with tripsDue := s.tripsDue.filter (· != c) }).trans (.channelTrip _ c _))
      fun _ => .refl s
  | enableChange => exact ite (fun _ => .setPermit s _) fun _ => .refl s
  | supplyChange => exact ite (fun _ => .setPermit s _) fun _ => .refl s
  | senseChange i =>
    exact ite (fun _ => (foldl (fun s l => .inputStop s i l) allLanes s).trans (.updSenseInput _ i _)) fun _ => .refl s
  | segmentTimeout l => exact .segmentTimeout s l
  | phaseEnd l => exact .phaseEnd s l
  | holdExpiry l => exact .holdExpiry s l
  | gateTimeout g => exact .gateTimeout s g
  | captureInstant n => exact .captureInstant s n
  | delayExpiry q =>
    exact ite (fun _ => ite (fun _ => .of_same rfl rfl) fun _ => .of_same rfl rfl) fun _ => .refl s

theorem takeAll : ∀ (es : List DueEvent) (s : State), DriveStep 0 s (s.takeAll es)
  | [], s => .refl s
  | e :: es, s => (takeDue s e).trans (takeAll es (s.takeDue e))

end DriveStep

/-! ### Trips that are due -/

/-- How far the trips that were due in `u` have been taken in `t` (R74, R77): a domain stands as it did, with the trips of its
channels still due if it is ARMED, or it was ARMED and one of its channels has tripped it. -/
structure TripsTaken (u t : State) : Prop where
  due : ∀ c ∈ t.tripsDue, c ∈ u.tripsDue
  domain : ∀ d, (t.domain d = u.domain d ∧
      ((u.domain d).state = .armed → ∀ c ∈ u.tripsDue, (u.domain d).members.getLsbD c.val = true → c ∈ t.tripsDue)) ∨
    (t.domain d = (u.domain d).trip ∧ (u.domain d).state = .armed ∧ ∃ c ∈ u.tripsDue, (u.domain d).members.getLsbD c.val = true)

theorem TripsTaken.refl (u : State) : TripsTaken u u := ⟨fun _ h => h, fun _ => .inl ⟨rfl, fun _ _ h _ => h⟩⟩

theorem Domain.trip_members (x : Domain) : x.trip.members = x.members := by rw [Domain.trip_eq]

theorem Domain.trip_notArmed (x : Domain) : x.trip.state ≠ .armed := by
  rw [Domain.trip_eq]
  dsimp only
  split
  · exact DomainState.noConfusion
  · exact DomainState.noConfusion

theorem TripsTaken.members {u t : State} (h : TripsTaken u t) (d : Fin 3) : (t.domain d).members = (u.domain d).members := by
  rcases h.domain d with ⟨hd, -⟩ | ⟨hd, -⟩
  · rw [hd]
  · rw [hd, Domain.trip_members]

theorem TripsTaken.domainsOk {u t : State} (h : TripsTaken u t) (hu : u.DomainsOk) : t.DomainsOk := fun c => by
  obtain ⟨d, hd⟩ := hu c
  exact ⟨d, fun e => by rw [h.members, hd]⟩

theorem State.tripDomain_domain (s : State) (d : Fin 3) (c : Fin 6) (cause : TripCause) (offset : Nat) (e : Fin 3) :
    (s.tripDomain d c cause offset).domain e = if e = d then (s.domain d).trip else s.domain e := by
  obtain ⟨_, _, h⟩ := (s.lanesTripped d c offset).tripRecorded_frame d { first := c.val, second := cause.code, third := (s.domain d).trip.state.code }
  rw [State.tripDomain_eq, ← State.lanesTripped, ← State.tripRecorded, h, ← State.lanesTripped_domain]
  rfl

theorem State.channelTrip_tripsDue (s : State) (c : Fin 6) (cause : TripCause) (offset : Nat) :
    (s.channelTrip c cause offset).tripsDue = s.tripsDue := by
  obtain ⟨_, h⟩ := s.channelTrip_work c cause offset
  exact h.tripsDue

theorem State.overcurrentTrip_tripsDue (s : State) (c : Fin 6) : (s.overcurrentTrip c).tripsDue = s.tripsDue.filter (· != c) := by
  unfold State.overcurrentTrip
  split
  · exact State.channelTrip_tripsDue ..
  · next h =>
    refine (List.filter_eq_self.mpr fun k hk => bne_iff_ne.mpr ?_).symm
    rintro rfl
    exact h (by simpa using hk)

theorem State.overcurrentTrip_eq {s : State} {c : Fin 6} (h : c ∈ s.tripsDue) :
    s.overcurrentTrip c = { s with tripsDue := s.tripsDue.filter (· != c) }.channelTrip c .overcurrent :=
  if_pos (by simpa using h)

/-- A due trip is taken once: its domain trips if it is ARMED, and no other changes. -/
theorem TripsTaken.overcurrentTrip {u t : State} (h : TripsTaken u t) (hok : u.DomainsOk) (c : Fin 6) :
    TripsTaken u (t.overcurrentTrip c) := by
  by_cases hc : c ∈ t.tripsDue
  swap
  · rwa [State.overcurrentTrip_none hc]
  have hdue (k : Fin 6) : k ∈ (t.overcurrentTrip c).tripsDue ↔ k ∈ t.tripsDue ∧ k ≠ c := by
    rw [State.overcurrentTrip_tripsDue, List.mem_filter, bne_iff_ne]
  obtain ⟨d, hd⟩ := h.domainsOk hok c
  have hmember := (hd d).mpr rfl
  have hof : ({ t with tripsDue := t.tripsDue.filter (· != c) } : State).domainOf c = some d :=
    State.domainOf_eq (s := { t with tripsDue := t.tripsDue.filter (· != c) }) (h.domainsOk hok) hmember
  have hother {e : Fin 3} (he : e ≠ d) {k : Fin 6} (hk : (u.domain e).members.getLsbD k.val = true) : k ≠ c := by
    rintro rfl
    exact he ((hd e).mp (h.members e ▸ hk))
  refine ⟨fun k hk => h.due k ((hdue k).mp hk).1, fun e => ?_⟩
  by_cases harmed : (t.domain d).state = .armed
  · have hdomain : (t.overcurrentTrip c).domain e = if e = d then (t.domain d).trip else t.domain e := by
      rw [State.overcurrentTrip_eq hc, State.channelTrip_armed hof harmed, State.tripDomain_domain]
      rfl
    rw [hdomain]
    by_cases he : e = d
    · subst he
      rw [if_pos rfl]
      rcases h.domain e with ⟨hsame, -⟩ | ⟨htrip, -⟩
      · exact .inr ⟨by rw [hsame], hsame ▸ harmed, c, h.due c hc, h.members e ▸ hmember⟩
      · exact absurd (htrip ▸ harmed) (Domain.trip_notArmed _)
    · rw [if_neg he]
      refine (h.domain e).imp_left fun ⟨hsame, hstill⟩ => ⟨hsame, fun ha k hk hm => (hdue k).mpr ⟨hstill ha k hk hm, hother he hm⟩⟩
  · have hdomain : (t.overcurrentTrip c).domain e = t.domain e := by
      rw [State.overcurrentTrip_eq hc, State.channelTrip_notArmed hof harmed]
      rfl
    rw [hdomain]
    refine (h.domain e).imp_left fun ⟨hsame, hstill⟩ => ⟨hsame, fun ha k hk hm => (hdue k).mpr ⟨hstill ha k hk hm, ?_⟩⟩
    refine hother ?_ hm
    rintro rfl
    exact harmed (hsame ▸ ha)

theorem TripsTaken.takeDue {u t : State} (h : TripsTaken u t) (hok : u.DomainsOk) (e : DueEvent) : TripsTaken u (t.takeDue e) := by
  by_cases he : ∀ c, e ≠ .overcurrentTrip c
  · have hwork := DueWork.takeDue t e he
    refine ⟨fun c hc => h.due c (hwork.tripsDue ▸ hc), fun d => ?_⟩
    rw [hwork.domain, hwork.tripsDue]
    exact h.domain d
  · obtain ⟨c, rfl⟩ := not_forall_not.mp he
    exact h.overcurrentTrip hok c

theorem TripsTaken.takeAll {u t : State} (h : TripsTaken u t) (hok : u.DomainsOk) (es : List DueEvent) : TripsTaken u (t.takeAll es) := by
  induction es generalizing t with
  | nil => exact h
  | cons e es ih => exact ih (h.takeDue hok e)

/-- Trips only leave the set of those that are due, and one that is taken has left it. -/
theorem State.takeDue_tripsDue (s : State) (e : DueEvent) {c : Fin 6} (h : c ∈ (s.takeDue e).tripsDue) :
    c ∈ s.tripsDue ∧ e ≠ .overcurrentTrip c := by
  by_cases he : ∀ k, e ≠ .overcurrentTrip k
  · exact ⟨(DueWork.takeDue s e he).tripsDue ▸ h, he c⟩
  · obtain ⟨k, rfl⟩ := not_forall_not.mp he
    have hk : c ∈ (s.overcurrentTrip k).tripsDue := h
    rw [State.overcurrentTrip_tripsDue, List.mem_filter, bne_iff_ne] at hk
    refine ⟨hk.1, fun hek => hk.2 ?_⟩
    injection hek with hek
    exact hek.symm

theorem State.takeAll_tripsDue {c : Fin 6} : ∀ (es : List DueEvent) (s : State), c ∈ (s.takeAll es).tripsDue →
    c ∈ s.tripsDue ∧ .overcurrentTrip c ∉ es
  | [], _, h => ⟨h, List.not_mem_nil⟩
  | e :: es, s, h => by
    obtain ⟨hdue, hes⟩ := State.takeAll_tripsDue es (s.takeDue e) h
    obtain ⟨hs, he⟩ := s.takeDue_tripsDue e hdue
    exact ⟨hs, fun hmem => (List.mem_cons.mp hmem).elim (fun h => he h.symm) hes⟩

/-! ### The two parts of the statement -/

/-- A domain after the samples of a tick before which nothing was due: once all the trips have been taken, it has tripped exactly if
it was ARMED and a channel of it had its second sample over the threshold. -/
theorem TripsTaken.all {u t : State} (h : TripsTaken u t) (ht : ∀ c, c ∉ t.tripsDue) (d : Fin 3) :
    t.domain d =
      if (u.domain d).state = .armed ∧ ∃ c ∈ u.tripsDue, (u.domain d).members.getLsbD c.val = true then (u.domain d).trip
      else u.domain d := by
  rcases h.domain d with ⟨hsame, hstill⟩ | ⟨htrip, harmed, hc⟩
  · rw [hsame, if_neg]
    rintro ⟨ha, c, hc, hm⟩
    exact ht c (hstill ha c hc hm)
  · rw [htrip, if_pos ⟨harmed, hc⟩]

theorem mem_tripsTaken {o : TickOrder} {c : Fin 6} (h : .overcurrentTrip c ∉ o.late) : .overcurrentTrip c ∈ samplesTaken o := by
  rw [samplesTaken_eq]
  refine List.mem_append_left _ (List.mem_map_of_mem ?_)
  exact List.mem_filter.mpr ⟨mem_allChannels c, by simpa using h⟩

theorem State.sampled_domain (s : State) (p : PinSample) (d : Fin 3) : (s.sampled p).domain d = s.domain d := by
  obtain ⟨_, _, _, _, _, h⟩ := s.sampled_frame p
  rw [h]
  rfl

theorem State.sampled_tripsDue (s : State) (p : PinSample) : (s.sampled p).tripsDue = s.tripping (samplesOf p) := rfl

theorem Channel.sampled_overCount (s : State) (p : PinSample) (c : Fin 6) :
    ((s.sampled p).channel c).overCount = (countsAgainst s p c && !(s.channel c).overCount) := by
  rw [State.sampled_channel, Channel.sample, Channel.overThreshold, Channel.rebase_driven, Channel.rebase_threshold,
    Channel.rebase_overCount, samplesOf_get]
  rfl

theorem State.sampled_domainsOk {s : State} (h : s.DomainsOk) (p : PinSample) : (s.sampled p).DomainsOk := fun c => by
  obtain ⟨d, hd⟩ := h c
  exact ⟨d, fun e => by rw [State.sampled_domain, hd]⟩

/-- The part has a trip left from an earlier tick, which is taken before the counters advance. -/
theorem State.takeAll_once {s t : State} {e : DueEvent} (he : s.takeDue e = t) (hs : ∀ e', e' ≠ e → s.takeDue e' = s)
    (ht : ∀ e', t.takeDue e' = t) : ∀ es : List DueEvent, e ∈ es → s.takeAll es = t
  | e' :: es, h => by
    change (s.takeDue e').takeAll es = t
    by_cases hee : e' = e
    · rw [hee, he]
      exact State.takeAll_none ht es
    · rw [hs e' hee]
      exact State.takeAll_once he hs ht es ((List.mem_cons.mp h).resolve_left fun h => hee h.symm)

/-- A trip makes nothing else due. -/
theorem State.tripDomain_nothingDue {s : State} (h : s.NothingDue) (d : Fin 3) (c : Fin 6) (cause : TripCause) (offset : Nat) :
    (s.tripDomain d c cause offset).NothingDue := by
  obtain ⟨hen, hsup, hsense, hrun, hhold, hwait, hinst, hdue, hdelay⟩ := h
  have hlane (l : Fin 4) := s.lanesTripped_lane d c offset l
  have hgate (g : Fin 4) := s.lanesTripped_gate d c offset g
  obtain ⟨hfreeze, -⟩ := s.lanesTripped_told d c offset
  obtain ⟨_, _, _, _, _, _, _, hw⟩ := s.lanesTripped_frame d c offset
  rw [State.tripDomain_eq, ← State.lanesTripped, ← State.tripRecorded]
  generalize s.lanesTripped d c offset = w at *
  generalize ({ first := c.val, second := cause.code, third := (s.domain d).trip.state.code } : EventDetail) = x
  have hrecord := w.tripRecorded_freezes d x
  obtain ⟨_, _, ht⟩ := w.tripRecorded_frame d x
  generalize w.tripRecorded d x = t at *
  have hlanet (l : Fin 4) : t.lane l = w.lane l := by rw [ht]; rfl
  have hgatet (g : Fin 4) : t.gate g = w.gate g := by rw [ht]; rfl
  have htick : w.tick = s.tick := by rw [hw]
  have htickt : t.tick = s.tick := by rw [ht, htick]
  refine ⟨?_, ?_, fun i => ?_, fun l r hr => ?_, fun l hl => ?_, fun g hg => ?_, fun n => ?_, ?_, fun q => ?_⟩
  · rw [ht, hw]; exact hen
  · rw [ht, hw]; exact hsup
  · rw [ht, hw]; exact hsense i
  · rw [hlanet, hlane] at hr
    rw [htickt]
    split at hr
    · cases hr
    · exact hrun l r hr
  · rw [hlanet, hlane] at hl
    split at hl
    · rw [Lane.tripped] at hl
      dsimp only at hl
      split at hl
      · exact hhold l hl
      · cases hl
    · exact hhold l hl
  · have hleft := (Gate.withoutThose_left (fun l => s.meetsDomain l d && (s.lane l).state == .gated) allLanes (s.gate g)).frame
    rw [hgatet, hgate, hleft] at hg
    dsimp only at hg
    split at hg
    · cases hg
    · exact hwait g hg
  · have hstream := freezesStreams_iff.mp (hfreeze.trans hrecord htick) n
    have hquiet := hinst n
    rw [State.instantDue] at hquiet ⊢
    rw [htickt]
    by_cases hf : (s.stream n).freezesOn fun f =>
      (∃ l, s.meetsDomain l d = true ∧ (s.lane l).isRunning = true ∧ f = .onLaneFault l) ∨ f = .onTrip
    · rw [(hstream.1 hf).1]
      rfl
    · rw [(hstream.2 hf).1]
      exact hquiet
  · rw [ht, hw]; exact hdue
  · rw [ht, hw]; exact hdelay q

/-- A channel after a trip of a domain: OFF, or as it was. -/
theorem State.tripDomain_channel (s : State) (d : Fin 3) (c : Fin 6) (cause : TripCause) (offset : Nat) (k : Fin 6) :
    ((s.tripDomain d c cause offset).channel k).code = .off ∨ (s.tripDomain d c cause offset).channel k = s.channel k := by
  have hchannel := s.lanesTripped_channel d c offset k
  obtain ⟨_, _, ht⟩ := (s.lanesTripped d c offset).tripRecorded_frame d { first := c.val, second := cause.code, third := (s.domain d).trip.state.code }
  have hk : (s.tripDomain d c cause offset).channel k = (s.lanesTripped d c offset).channel k := by
    rw [State.tripDomain_eq, ← State.lanesTripped, ← State.tripRecorded, ht]
    rfl
  rw [hk]
  rcases hchannel with ⟨-, h⟩ | ⟨-, h⟩
  · rw [h]
    exact .inl (Channel.turnOff_code ..)
  · exact .inr h

/-- The samples bring no trip to channels that a trip has turned OFF, and none to others to which they brought none. -/
theorem State.tripDomain_tripping {s : State} {p : PinSample} (h : ∀ k : Fin 6, countsAgainst s p k = true → (s.channel k).overCount = false)
    (d : Fin 3) (c : Fin 6) (cause : TripCause) (offset : Nat) : (s.tripDomain d c cause offset).tripping (samplesOf p) = [] := by
  refine State.tripping_nil fun k hk => ?_
  rcases s.tripDomain_channel d c cause offset k with hoff | hsame
  · rw [countsAgainst, Channel.driven, hoff] at hk
    cases hk
  · rw [countsAgainst, hsame] at hk
    rw [hsame]
    exact h k hk

/-- A trip that was left is the one thing that a tick takes before its counters advance. -/
theorem State.takeAll_dueOrder {s : State} {c : Fin 6} {d : Fin 3} (hdue : s.OnlyTripsDue) (hok : s.DomainsOk) (hc : s.tripsDue = [c])
    (hm : (s.domain d).members.getLsbD c.val = true) (ha : (s.domain d).state = .armed) :
    s.takeAll dueOrder = State.tripDomain { s with tripsDue := [] } d c .overcurrent := by
  have hnone : State.NothingDue { s with tripsDue := [] } := hdue
  have htake : s.takeDue (.overcurrentTrip c) = State.tripDomain { s with tripsDue := [] } d c .overcurrent := by
    change s.overcurrentTrip c = _
    rw [State.overcurrentTrip_eq (by simp [hc]), hc, List.filter_cons_of_neg (by simp), List.filter_nil]
    exact State.channelTrip_armed (s := { s with tripsDue := [] }) (State.domainOf_eq (s := { s with tripsDue := [] }) hok hm) ha _ _
  refine State.takeAll_once htake (fun e he => State.takeDue_none hdue fun k hk => ?_)
    (fun e => (State.tripDomain_nothingDue hnone d c .overcurrent 0).takeAll [e]) dueOrder ?_
  · rw [hc, List.mem_singleton]
    rintro rfl
    exact he hk
  · simp only [dueOrder, sampleEvents, List.append_assoc]
    exact List.mem_append_left _ (List.mem_map_of_mem (mem_allChannels c))

/-- Settles O8: `TripsTaken` through the tick's events in their order, and, for a trip that was left, through those before it. -/
theorem secondSampleOverTripsDomain : Obligations.SecondSampleOverTripsDomain := by
  refine ⟨fun s p o ha hnone hok hlate => ⟨s.tickStep p o, exec_tick ha p o, ?_⟩, fun s p o c d ha hdue hok hc hm harmed hno =>
    ⟨s.tickStep p o, exec_tick ha p o, ?_⟩⟩
  · have htaken := (TripsTaken.refl (s.sampled p)).takeAll (State.sampled_domainsOk hok p) (o.first ++ samplesTaken o)
    have hdrive := DriveStep.takeAll (o.first ++ samplesTaken o) (s.sampled p)
    have hgone (c : Fin 6) : c ∉ ((s.sampled p).takeAll (o.first ++ samplesTaken o)).tripsDue := fun h =>
      (State.takeAll_tripsDue _ _ h).2 (List.mem_append_right _ (mem_tripsTaken (hlate c)))
    rw [State.tickStep_eq, hnone.takeAll, ← State.takeAll_append]
    generalize (s.sampled p).takeAll (o.first ++ samplesTaken o) = t at *
    refine ⟨fun c => ?_, fun d => ?_⟩
    · obtain ⟨-, -, -, hover⟩ := (hdrive.channel c).keepsLimits
      rw [hover, Channel.sampled_overCount]
    · rw [htaken.all hgone, State.sampled_domain, State.sampled_tripsDue, Domain.trip_eq]
      simp only [State.mem_tripping, and_comm]
  · have hdomain (e : Fin 3) : (s.tickStep p o).domain e = if e = d then (s.domain d).trip else s.domain e := by
      have hokt : (State.tripDomain { s with tripsDue := [] } d c .overcurrent).DomainsOk := fun k => by
        obtain ⟨x, hx⟩ := hok k
        refine ⟨x, fun y => ?_⟩
        rw [State.tripDomain_domain, ← hx]
        split
        · next hy => rw [hy, Domain.trip_members]; rfl
        · rfl
      have hempty := State.tripDomain_tripping (s := { s with tripsDue := [] }) (p := p) hno d c .overcurrent 0
      have hd := State.tripDomain_domain { s with tripsDue := [] } d c .overcurrent 0 e
      rw [State.tickStep_eq, State.takeAll_dueOrder hdue hok hc hm harmed, ← State.takeAll_append]
      generalize State.tripDomain { s with tripsDue := [] } d c .overcurrent = v at *
      have htaken := (TripsTaken.refl (v.sampled p)).takeAll (State.sampled_domainsOk hokt p) (o.first ++ samplesTaken o)
      rcases htaken.domain e with ⟨h, -⟩ | ⟨-, -, k, hk, -⟩
      · rw [h, State.sampled_domain, hd]
        rfl
      · rw [State.sampled_tripsDue, hempty] at hk
        exact absurd hk List.not_mem_nil
    refine ⟨?_, fun e he => ?_⟩
    · rw [hdomain, if_pos rfl, Domain.trip_eq]
    · rw [hdomain, if_neg he]

end Sys2Proof.Machine
end


section
/-! PROOFS. The switches of a channel (O60): when each conducts under a drive, how long ago each last conducted, and what a new
interval governs. -/

namespace Sys2Proof.Machine

-- One declaration after another: so the whole text compiles within the memory of the check.
set_option Elab.async false

/-! ### When a switch conducts, by the behaviour of its drive (R4 to R6) -/

theorem inWindow_iff {w : Nat → Nat × Nat} {p t : Nat} :
    inWindow w p t = true ↔ (w (t / p)).1 ≤ t % p ∧ t % p < (w (t / p)).2 := by
  simp [inWindow]

section
variable {c : Channel}

theorem Channel.highOn_high (h : c.behaviour = .high) (t : Nat) : c.highOn t = true ↔ c.highWait ≤ t := by
  simp [Channel.highOn, h]

theorem Channel.highOn_pwmH (h : c.behaviour = .pwmH) (t : Nat) : c.highOn t = true ↔ c.highWait ≤ t ∧ t % c.periodNs < c.onNs := by
  simp [Channel.highOn, h, inWindow_iff, Channel.highWindow]

/-- Under PWM_C the high switch conducts in an on-time longer than the interval, and waits behind a low switch that conducted. -/
theorem Channel.highOn_pwmC (h : c.behaviour = .pwmC) (t : Nat) : c.highOn t = true ↔
    c.highWait ≤ t ∧ c.bbmAt (t / c.periodNs * c.periodNs) < c.onNs ∧ t % c.periodNs < c.onNs ∧
      (c.lowBefore (t / c.periodNs) = true → c.bbmAt (t / c.periodNs * c.periodNs) ≤ t % c.periodNs) := by
  simp only [Channel.highOn, h, inWindow_iff, Channel.highWindow, Bool.and_eq_true, Bool.or_eq_true, decide_eq_true_iff]
  generalize c.bbmAt (t / c.periodNs * c.periodNs) = b
  by_cases hb : c.onNs ≤ b
  · simp [hb, Nat.not_lt.mpr hb]
  · cases c.lowBefore (t / c.periodNs) with
    | false => simp [hb, Nat.not_le.mp hb]
    | true =>
      simp [hb, Nat.not_le.mp hb]
      omega

theorem Channel.highOn_other (h : c.behaviour ≠ .high) (hh : c.behaviour ≠ .pwmH) (hc : c.behaviour ≠ .pwmC) (t : Nat) :
    c.highOn t = false := by
  cases hb : c.behaviour <;> simp_all [Channel.highOn, inWindow, Channel.highWindow]

theorem Channel.lowOn_low (h : c.behaviour = .low) (t : Nat) : c.lowOn t = true ↔ c.lowWait ≤ t := by
  simp [Channel.lowOn, Channel.lowStart, h]

theorem Channel.lowOn_pwmL (h : c.behaviour = .pwmL) (t : Nat) : c.lowOn t = true ↔ c.lowWait ≤ t ∧ t % c.periodNs < c.onNs := by
  simp [Channel.lowOn, Channel.lowStart, h, inWindow_iff, Channel.lowWindow]

/-- Under PWM_C the low switch conducts in the off-time: at once after an on-time that is not longer than the interval, else after
the interval. -/
theorem Channel.lowOn_pwmC (h : c.behaviour = .pwmC) (t : Nat) : c.lowOn t = true ↔
    c.lowStart ≤ t ∧ c.onNs ≤ t % c.periodNs ∧ t % c.periodNs < c.periodNs ∧
      (c.onNs ≤ c.bbmAt (t / c.periodNs * c.periodNs) ∨
        (c.bbmAt (t / c.periodNs * c.periodNs + c.onNs) < c.periodNs - c.onNs ∧
          c.onNs + c.bbmAt (t / c.periodNs * c.periodNs + c.onNs) ≤ t % c.periodNs)) := by
  simp only [Channel.lowOn, h, inWindow_iff, Channel.lowWindow, Bool.and_eq_true, Bool.or_eq_true, decide_eq_true_iff]
  generalize c.bbmAt (t / c.periodNs * c.periodNs) = b
  generalize c.bbmAt (t / c.periodNs * c.periodNs + c.onNs) = b'
  by_cases hb : c.onNs ≤ b
  · simp [hb]
  · by_cases hb' : c.periodNs - c.onNs ≤ b'
    · simp [hb, hb', Nat.not_lt.mpr hb']
    · simp [hb, hb', Nat.not_le.mp hb']
      omega

theorem Channel.lowOn_other (h : c.behaviour ≠ .low) (hl : c.behaviour ≠ .pwmL) (hc : c.behaviour ≠ .pwmC) (t : Nat) :
    c.lowOn t = false := by
  cases hb : c.behaviour <;> simp_all [Channel.lowOn, inWindow, Channel.lowWindow]

/-- Under PWM_C the low switch conducts at the end of a period whose off-time is longer than the interval, or whose on-time is not. -/
theorem Channel.lowBefore_pwmC (h : c.behaviour = .pwmC) (k : Nat) : c.lowBefore (k + 1) = true ↔
    c.onNs < c.periodNs ∧ (c.onNs ≤ c.bbmAt (k * c.periodNs) ∨ c.bbmAt (k * c.periodNs + c.onNs) < c.periodNs - c.onNs) := by
  simp only [Channel.lowBefore, Channel.lowWindow, h, decide_eq_true_iff]
  generalize c.bbmAt (k * c.periodNs) = b
  generalize c.bbmAt (k * c.periodNs + c.onNs) = b'
  by_cases hb : c.onNs ≤ b
  · simp [hb]
  · by_cases hb' : c.periodNs - c.onNs ≤ b'
    · simp [hb, hb', Nat.not_lt.mpr hb']
    · simp [hb, hb', Nat.not_le.mp hb']
      omega

end

/-- The two switches never conduct together (R7). -/
theorem Channel.not_both (c : Channel) (t : Nat) : ¬(c.highOn t = true ∧ c.lowOn t = true) := by
  rintro ⟨hh, hl⟩
  cases hb : c.behaviour with
  | pwmC =>
    rw [Channel.highOn_pwmC hb] at hh
    rw [Channel.lowOn_pwmC hb] at hl
    omega
  | high => rw [Channel.lowOn_other (by simp [hb]) (by simp [hb]) (by simp [hb])] at hl; cases hl
  | pwmH => rw [Channel.lowOn_other (by simp [hb]) (by simp [hb]) (by simp [hb])] at hl; cases hl
  | _ => rw [Channel.highOn_other (by simp [hb]) (by simp [hb]) (by simp [hb])] at hh; cases hh

/-! ### A drive as the statement reads it -/

theorem Channel.behaviour_pwmC_iff {c : Channel} : c.behaviour = .pwmC ↔ c.code = .pwmC ∧ c.duty ≠ 0 ∧ c.duty ≠ 1000 := by
  unfold Channel.behaviour
  cases c.code with
  | pwmC =>
    by_cases h0 : c.duty = 0
    · simp [h0]
    · by_cases h1 : c.duty = 1000
      · simp [h1]
      · simp [h0, h1]
  | pwmH => by_cases h0 : c.duty = 0 <;> by_cases h1 : c.duty = 1000 <;> simp [h0, h1]
  | pwmL => by_cases h0 : c.duty = 0 <;> by_cases h1 : c.duty = 1000 <;> simp [h0, h1]
  | _ => simp

theorem onNs_lt {duty period : Nat} (hd : duty < 1000) (hp : 0 < period) : period * duty < period * 1000 :=
  (Nat.mul_lt_mul_left hp).mpr hd

section
variable {c : Channel} {b : Nat} (hb : c.behaviour = .pwmC)
include hb

/-- Under PWM_C with one interval in force for the turn-ons that matter at a moment, the high switch conducts as R6 says. -/
theorem Channel.highOn_iff_conducts_pwmC {t : Nat} (hd : c.duty < 1000) (hp : 0 < c.period)
    (hk : c.bbmAt (t / c.periodNs * c.periodNs) = b)
    (hprev : ∀ k, t / c.periodNs = k + 1 → c.bbmAt (k * c.periodNs) = b ∧ c.bbmAt (k * c.periodNs + c.onNs) = b) :
    c.highOn t = true ↔ c.highWait ≤ t ∧ HighConducts .pwmC c.duty c.period b t := by
  have hon : c.onNs < c.periodNs := onNs_lt hd hp
  have hP : 0 < c.periodNs := Nat.lt_of_le_of_lt (Nat.zero_le _) hon
  have hbefore : c.lowBefore (t / c.periodNs) = true ↔ c.periodNs ≤ t ∧ (c.onNs ≤ b ∨ b < c.periodNs - c.onNs) := by
    cases hq : t / c.periodNs with
    | zero =>
      have hlt : t < c.periodNs := (Nat.div_eq_zero_iff.mp hq).resolve_left (Nat.ne_of_gt hP)
      simp [Channel.lowBefore, Nat.not_le.mpr hlt]
    | succ k =>
      obtain ⟨h1, h2⟩ := hprev k hq
      have hle : c.periodNs ≤ t := Nat.le_of_not_lt fun hlt => by simp [Nat.div_eq_of_lt hlt] at hq
      rw [Channel.lowBefore_pwmC hb, h1, h2]
      simp [hon, hle]
  rw [Channel.highOn_pwmC hb, hk, hbefore]
  unfold HighConducts
  rw [show 1000 * c.period = c.periodNs from Nat.mul_comm ..]
  change _ ↔ c.highWait ≤ t ∧ (c.duty = 1000 ∨ (b < c.onNs ∧ t % c.periodNs < c.onNs ∧
    (t < c.periodNs ∨ c.periodNs - c.onNs ≤ b ∨ b ≤ t % c.periodNs)))
  omega

/-- And the low switch. -/
theorem Channel.lowOn_iff_conducts_pwmC {t : Nat} (hp : 0 < c.period) (hk : c.bbmAt (t / c.periodNs * c.periodNs) = b)
    (hend : c.bbmAt (t / c.periodNs * c.periodNs + c.onNs) = b) :
    c.lowOn t = true ↔ c.lowStart ≤ t ∧ LowConducts .pwmC c.duty c.period b t := by
  have hmod : t % c.periodNs < c.periodNs := Nat.mod_lt _ (Nat.mul_pos hp (by decide))
  rw [Channel.lowOn_pwmC hb, hk, hend]
  unfold LowConducts
  rw [show 1000 * c.period = c.periodNs from Nat.mul_comm ..]
  change _ ↔ c.lowStart ≤ t ∧ c.onNs ≤ t % c.periodNs ∧ (c.onNs ≤ b ∨ (b < c.periodNs - c.onNs ∧ c.onNs + b ≤ t % c.periodNs))
  simp only [hmod, true_and]

end

section
variable {c : Channel} {b t : Nat}

theorem Channel.conducts_pwmH (hc : c.code = .pwmH) (hp : 0 < c.period) :
    (c.highOn t = true ↔ c.highWait ≤ t ∧ HighConducts .pwmH c.duty c.period b t) ∧ c.lowOn t = false := by
  have hmod : t % (1000 * c.period) < 1000 * c.period := Nat.mod_lt _ (Nat.mul_pos (by decide) hp)
  have hP : c.periodNs = 1000 * c.period := Nat.mul_comm ..
  have hconducts : HighConducts .pwmH c.duty c.period b t ↔ t % (1000 * c.period) < c.period * c.duty := Iff.rfl
  rw [hconducts]
  by_cases h0 : c.duty = 0
  · have hb : c.behaviour = .off := by simp [Channel.behaviour, hc, h0]
    rw [Channel.highOn_other (by simp [hb]) (by simp [hb]) (by simp [hb]), Channel.lowOn_other (by simp [hb]) (by simp [hb]) (by simp [hb])]
    simp [h0]
  · by_cases h1 : c.duty = 1000
    · have hb : c.behaviour = .high := by simp [Channel.behaviour, hc, h1]
      rw [Channel.highOn_high hb, Channel.lowOn_other (by simp [hb]) (by simp [hb]) (by simp [hb]), h1]
      exact ⟨by omega, rfl⟩
    · have hb : c.behaviour = .pwmH := by simp [Channel.behaviour, hc, h0, h1]
      rw [Channel.highOn_pwmH hb, Channel.lowOn_other (by simp [hb]) (by simp [hb]) (by simp [hb]), hP]
      exact ⟨Iff.rfl, rfl⟩

theorem Channel.conducts_pwmL (hc : c.code = .pwmL) (hp : 0 < c.period) :
    c.highOn t = false ∧ (c.lowOn t = true ↔ c.lowWait ≤ t ∧ LowConducts .pwmL c.duty c.period b t) := by
  have hmod : t % (1000 * c.period) < 1000 * c.period := Nat.mod_lt _ (Nat.mul_pos (by decide) hp)
  have hP : c.periodNs = 1000 * c.period := Nat.mul_comm ..
  have hconducts : LowConducts .pwmL c.duty c.period b t ↔ t % (1000 * c.period) < c.period * c.duty := Iff.rfl
  rw [hconducts]
  by_cases h0 : c.duty = 0
  · have hb : c.behaviour = .off := by simp [Channel.behaviour, hc, h0]
    rw [Channel.highOn_other (by simp [hb]) (by simp [hb]) (by simp [hb]), Channel.lowOn_other (by simp [hb]) (by simp [hb]) (by simp [hb])]
    simp [h0]
  · by_cases h1 : c.duty = 1000
    · have hb : c.behaviour = .low := by simp [Channel.behaviour, hc, h1]
      rw [Channel.lowOn_low hb, Channel.highOn_other (by simp [hb]) (by simp [hb]) (by simp [hb]), h1]
      exact ⟨rfl, by omega⟩
    · have hb : c.behaviour = .pwmL := by simp [Channel.behaviour, hc, h0, h1]
      rw [Channel.lowOn_pwmL hb, Channel.highOn_other (by simp [hb]) (by simp [hb]) (by simp [hb]), hP]
      exact ⟨rfl, Iff.rfl⟩

/-- Under PWM_C the ends of the duty range are HIGH and LOW (R5). -/
theorem Channel.conducts_pwmC (hc : c.code = .pwmC) (hd : c.duty ≤ 1000) (hp : 0 < c.period) (hbbm : ∀ u, c.bbmAt u = b)
    (hstart : c.duty = 0 → c.lowStart = c.lowWait) :
    (c.highOn t = true ↔ c.highWait ≤ t ∧ HighConducts .pwmC c.duty c.period b t) ∧
      (c.lowOn t = true ↔ c.lowStart ≤ t ∧ LowConducts .pwmC c.duty c.period b t) := by
  have hmod : t % (1000 * c.period) < 1000 * c.period := Nat.mod_lt _ (Nat.mul_pos (by decide) hp)
  by_cases h0 : c.duty = 0
  · have hb : c.behaviour = .low := by simp [Channel.behaviour, hc, h0]
    rw [Channel.lowOn_low hb, Channel.highOn_other (by simp [hb]) (by simp [hb]) (by simp [hb]), hstart h0]
    simp [HighConducts, LowConducts, h0]
  · by_cases h1 : c.duty = 1000
    · have hb : c.behaviour = .high := by simp [Channel.behaviour, hc, h1]
      rw [Channel.highOn_high hb, Channel.lowOn_other (by simp [hb]) (by simp [hb]) (by simp [hb])]
      have hlow : ¬LowConducts .pwmC c.duty c.period b t := by
        rintro ⟨h, -⟩
        rw [h1] at h
        omega
      simp [HighConducts, h1, h1 ▸ hlow]
    · have hb : c.behaviour = .pwmC := Channel.behaviour_pwmC_iff.mpr ⟨hc, h0, h1⟩
      exact ⟨Channel.highOn_iff_conducts_pwmC hb (by omega) hp (hbbm _) fun k _ => ⟨hbbm _, hbbm _⟩,
        Channel.lowOn_iff_conducts_pwmC hb hp (hbbm _) (hbbm _)⟩

end

/-- Each switch of a drive without a change of its interval, with its values in their ranges. -/
theorem Channel.switches_conduct {c : Channel} (hch : c.bbmChanges = []) (hok : driveOk c.code c.duty c.period)
    (hstart : c.lowStart = c.lowWait) (t : Nat) :
    (c.highOn t = true ↔ c.highWait ≤ t ∧ HighConducts c.code c.duty c.period c.bbmNs t) ∧
      (c.lowOn t = true ↔ c.lowWait ≤ t ∧ LowConducts c.code c.duty c.period c.bbmNs t) := by
  have hbbm (u : Nat) : c.bbmAt u = c.bbmNs := by rw [Channel.bbmAt, hch]; rfl
  cases hc : c.code with
  | off =>
    have hb : c.behaviour = .off := by simp [Channel.behaviour, hc]
    rw [Channel.highOn_other (by simp [hb]) (by simp [hb]) (by simp [hb]), Channel.lowOn_other (by simp [hb]) (by simp [hb]) (by simp [hb])]
    simp [HighConducts, LowConducts]
  | high =>
    have hb : c.behaviour = .high := by simp [Channel.behaviour, hc]
    rw [Channel.highOn_high hb, Channel.lowOn_other (by simp [hb]) (by simp [hb]) (by simp [hb])]
    simp [HighConducts, LowConducts]
  | low =>
    have hb : c.behaviour = .low := by simp [Channel.behaviour, hc]
    rw [Channel.lowOn_low hb, Channel.highOn_other (by simp [hb]) (by simp [hb]) (by simp [hb])]
    simp [HighConducts, LowConducts]
  | pwmH =>
    obtain ⟨-, hp, -⟩ := hok (.inl hc)
    obtain ⟨hh, hl⟩ := Channel.conducts_pwmH (b := c.bbmNs) (t := t) hc (by omega)
    rw [hl]
    exact ⟨hh, by simp [LowConducts]⟩
  | pwmL =>
    obtain ⟨-, hp, -⟩ := hok (.inr (.inl hc))
    obtain ⟨hh, hl⟩ := Channel.conducts_pwmL (b := c.bbmNs) (t := t) hc (by omega)
    rw [hh]
    exact ⟨by simp [HighConducts], hl⟩
  | pwmC =>
    obtain ⟨hd, hp, -⟩ := hok (.inr (.inr hc))
    rw [← hstart]
    exact Channel.conducts_pwmC hc hd (by omega) hbbm fun _ => hstart

/-! ### How long ago a switch last conducted -/

/-- A switch that conducts at a moment by its windows, or all along. -/
def switchOn (whole : Bool) (w : Nat → Nat × Nat) (wait p t : Nat) : Prop := wait ≤ t ∧ (whole = true ∨ inWindow w p t = true)

theorem Channel.highOn_switchOn {c : Channel} {t : Nat} :
    c.highOn t = true ↔ switchOn (c.behaviour == .high) c.highWindow c.highWait c.periodNs t := by
  simp [Channel.highOn, switchOn]

theorem Channel.lowOn_switchOn {c : Channel} {t : Nat} :
    c.lowOn t = true ↔ switchOn (c.behaviour == .low) c.lowWindow c.lowStart c.periodNs t := by
  simp [Channel.lowOn, switchOn]

section
variable {w : Nat → Nat × Nat} {wait p t : Nat}

/-- What the search finds is the distance from the moment after a moment in a window, past the delay. -/
theorem lastOn_some {a : Nat} : ∀ (n k : Nat), lastOn w wait p t n k = some a →
    ∃ v j, v < t ∧ a = t - (v + 1) ∧ wait ≤ v ∧ j * p + (w j).1 ≤ v ∧ v < j * p + (w j).2
  | 0, _, h => by cases h
  | n + 1, k, h => by
    unfold lastOn at h
    dsimp only at h
    split at h
    · injection h with h
      exact ⟨min (k * p + (w k).2) t - 1, k, by omega, by omega, by omega, by omega, by omega⟩
    · match k, h with
      | k + 1, h => exact lastOn_some n k h

/-- The search finds no moment earlier than one that it reaches. -/
theorem lastOn_le {v j : Nat} (hvt : v < t) (hwait : wait ≤ v) (hlo : j * p + (w j).1 ≤ v) (hhi : v < j * p + (w j).2) :
    ∀ (n k : Nat), j ≤ k → k < j + n → (∀ i ≤ k, j < i → v < i * p) → ∃ a, lastOn w wait p t n k = some a ∧ a ≤ t - (v + 1)
  | 0, k, hjk, hkn, _ => by omega
  | n + 1, k, hjk, hkn, hv => by
    unfold lastOn
    dsimp only
    split
    · refine ⟨_, rfl, ?_⟩
      by_cases hkj : k = j
      · subst hkj
        omega
      · have := hv k (Nat.le_refl k) (by omega)
        omega
    · next hno =>
      have hkj : k ≠ j := by
        rintro rfl
        omega
      match k with
      | 0 => omega
      | k + 1 => exact lastOn_le hvt hwait hlo hhi n k (by omega) (by omega) fun i hi hji => hv i (by omega) hji

/-- No more than the time since any moment at which the switch conducted has passed since it last did. -/
theorem age_le {whole : Bool} {v x : Nat} (hv : switchOn whole w wait p v) (hvt : v < t) :
    min Config.tickNs ((sinceOn whole w wait p t).getD x) ≤ t - (v + 1) := by
  obtain ⟨hwait, hon⟩ := hv
  unfold sinceOn
  by_cases hw : whole = true
  · rw [if_pos hw, if_pos (by omega)]
    simp
  · rw [if_neg hw]
    obtain ⟨hlo, hhi⟩ := inWindow_iff.mp (hon.resolve_left hw)
    have hdiv : v / p * p + v % p = v := Nat.div_add_mod' v p
    have hle : v / p ≤ t / p := Nat.div_le_div_right (Nat.le_of_lt hvt)
    by_cases hreach : t / p < v / p + (Config.tickNs / p + 2)
    · obtain ⟨a, ha, hat⟩ := lastOn_le (w := w) (p := p) hvt hwait (j := v / p) (by omega) (by omega) (Config.tickNs / p + 2) (t / p) hle hreach
        fun i hi hji => by
          have hp : 0 < p := Nat.pos_of_ne_zero fun h0 => by
            rw [h0, Nat.div_zero] at hi hji
            omega
          exact (Nat.div_lt_iff_lt_mul hp).mp hji
      rw [ha, Option.getD_some]
      omega
    · have hp : 0 < p := Nat.pos_of_ne_zero fun h0 => by simp [h0] at hreach
      have htick : Config.tickNs < (Config.tickNs / p + 1) * p := Nat.lt_mul_of_div_lt (Nat.lt_succ_self _) hp
      have hvp : v < (v / p + 1) * p := Nat.lt_mul_of_div_lt (Nat.lt_succ_self _) hp
      have htp : t / p * p ≤ t := Nat.div_mul_le_self t p
      have hmul : (v / p + 1 + (Config.tickNs / p + 1)) * p ≤ t / p * p := Nat.mul_le_mul_right p (by omega)
      rw [Nat.add_mul] at hmul
      exact Nat.le_trans (Nat.min_le_left ..) (by omega)

/-- A switch that conducted less than a tick ago did so at the moment that its age names. -/
theorem age_switchOn {whole : Bool} {x : Nat} (hw : ∀ k, (w k).2 ≤ p) (hx : Config.tickNs ≤ x)
    (ha : min Config.tickNs ((sinceOn whole w wait p t).getD x) < Config.tickNs) :
    let a := min Config.tickNs ((sinceOn whole w wait p t).getD x)
    a + 1 ≤ t ∧ switchOn whole w wait p (t - a - 1) := by
  intro a
  cases hs : sinceOn whole w wait p t with
  | none =>
    rw [hs, Option.getD_none] at ha
    omega
  | some b =>
    have hab : a = b := by
      rw [hs, Option.getD_some] at ha
      simp only [a, hs, Option.getD_some]
      omega
    rw [hab]
    unfold sinceOn at hs
    by_cases hwhole : whole = true
    · rw [if_pos hwhole] at hs
      split at hs
      · injection hs with hs
        exact ⟨by omega, by omega, .inl hwhole⟩
      · cases hs
    · rw [if_neg hwhole] at hs
      obtain ⟨v, j, hvt, hb, hwait, hlo, hhi⟩ := lastOn_some _ _ hs
      have hvj : t - b - 1 = v := by omega
      have hp := hw j
      have hq : v / p = j := Nat.div_eq_of_lt_le (by omega) (by rw [Nat.add_mul]; omega)
      have hm : v % p = v - j * p := by
        have := Nat.div_add_mod' v p
        rw [hq] at this
        omega
      rw [hvj]
      refine ⟨by omega, hwait, .inr (inWindow_iff.mpr ?_)⟩
      rw [hq, hm]
      omega

end

/-! ### A change of drive (R7) -/

section
variable (c : Channel) (now : Tick) (code : DriveCode) (duty period offset : Nat)

theorem Channel.driveTo_highWait : (c.driveTo now code duty period offset).highWait =
    max (c.elapsedNs now + offset) c.applied - c.elapsedNs now + (c.bbmNs - c.lowAgeAt (max (c.elapsedNs now + offset) c.applied)) := rfl

theorem Channel.driveTo_lowWait : (c.driveTo now code duty period offset).lowWait =
    max (c.elapsedNs now + offset) c.applied - c.elapsedNs now + (c.bbmNs - c.highAgeAt (max (c.elapsedNs now + offset) c.applied)) := rfl

theorem Channel.driveTo_bbmAt (u : Nat) : (c.driveTo now code duty period offset).bbmAt u = c.bbmNs := rfl

theorem Channel.driveTo_lowStart : (c.driveTo now code duty period offset).lowStart = (c.driveTo now code duty period offset).lowWait := by
  unfold Channel.lowStart
  split
  · rw [Channel.driveTo_bbmAt]
    rfl
  · rfl

end

/-- A switch turns on no sooner than its delay. -/
theorem Channel.highWait_le {c : Channel} {t : Nat} (h : c.highOn t = true) : c.highWait ≤ t := (Channel.highOn_switchOn.mp h).1

theorem Channel.lowStart_le {c : Channel} {t : Nat} (h : c.lowOn t = true) : c.lowStart ≤ t := (Channel.lowOn_switchOn.mp h).1

theorem Channel.lowAgeAt_le {c : Channel} {u m : Nat} (h : c.lowOn u = true) (hu : u < m) : c.lowAgeAt m ≤ m - (u + 1) :=
  age_le (Channel.lowOn_switchOn.mp h) hu

theorem Channel.highAgeAt_le {c : Channel} {u m : Nat} (h : c.highOn u = true) (hu : u < m) : c.highAgeAt m ≤ m - (u + 1) :=
  age_le (Channel.highOn_switchOn.mp h) hu

section
variable {c : Channel} (hok : driveOk c.code c.duty c.period)
include hok

/-- The windows of a drive with its values in their ranges end with the period. -/
theorem Channel.onNs_le (hb : c.behaviour = .pwmH ∨ c.behaviour = .pwmL ∨ c.behaviour = .pwmC) : c.onNs ≤ c.periodNs := by
  have hpwm : c.code = .pwmH ∨ c.code = .pwmL ∨ c.code = .pwmC := by
    cases hc : c.code <;> simp [Channel.behaviour, hc] at hb ⊢
  exact Nat.mul_le_mul_left _ (hok hpwm).1

theorem Channel.highWindow_le (k : Nat) : (c.highWindow k).2 ≤ c.periodNs := by
  unfold Channel.highWindow
  split
  · next hb => exact Channel.onNs_le hok (.inl hb)
  · next hb =>
    have hon := Channel.onNs_le hok (.inr (.inr hb))
    dsimp only
    split
    · exact Nat.zero_le _
    · split
      · exact hon
      · exact hon
  · exact Nat.zero_le _

theorem Channel.lowWindow_le (k : Nat) : (c.lowWindow k).2 ≤ c.periodNs := by
  unfold Channel.lowWindow
  split
  · next hb => exact Channel.onNs_le hok (.inr (.inl hb))
  · dsimp only
    split
    · exact Nat.le_refl _
    · split
      · exact Nat.zero_le _
      · exact Nat.le_refl _
  · exact Nat.zero_le _

/-- After a drive of a tick or more, an age of less than a tick names the last moment at which the switch conducted. -/
theorem Channel.lowOn_of_age {m : Nat} (hm : c.applied + 10000 ≤ m) (ha : c.lowAgeAt m < 10000) :
    c.lowAgeAt m + 1 ≤ m ∧ c.lowOn (m - c.lowAgeAt m - 1) = true := by
  have h := age_switchOn (whole := c.behaviour == .low) (wait := c.lowStart) (t := m) (x := c.lowAge + (m - c.applied)) (Channel.lowWindow_le hok)
    (by simp only [Config.tickNs]; omega) ha
  exact ⟨h.1, Channel.lowOn_switchOn.mpr h.2⟩

theorem Channel.highOn_of_age {m : Nat} (hm : c.applied + 10000 ≤ m) (ha : c.highAgeAt m < 10000) :
    c.highAgeAt m + 1 ≤ m ∧ c.highOn (m - c.highAgeAt m - 1) = true := by
  have h := age_switchOn (whole := c.behaviour == .high) (wait := c.highWait) (t := m) (x := c.highAge + (m - c.applied)) (Channel.highWindow_le hok)
    (by simp only [Config.tickNs]; omega) ha
  exact ⟨h.1, Channel.highOn_switchOn.mpr h.2⟩

end

/-! ### A new interval (R7, R75) -/

section
variable (c : Channel) (now : Tick) (threshold bbm offset : Nat)

theorem Channel.takeLimits_behaviour : (c.takeLimits now threshold bbm offset).behaviour = c.behaviour := rfl

/-- Under PWM_C the turn-ons decided up to the moment of a new interval keep theirs. -/
theorem Channel.takeLimits_bbmAt (hc : c.code = .pwmC) (u : Nat) : (c.takeLimits now threshold bbm offset).bbmAt u =
    if max (c.elapsedNs now + offset) c.applied < u then bbm * 500 else c.bbmAt u := by
  have hchanges : (c.takeLimits now threshold bbm offset).bbmChanges =
      { moment := c.momentOf now offset, before := c.bbm } :: c.bbmChanges := if_pos hc
  have hnew : (c.takeLimits now threshold bbm offset).bbm = bbm := rfl
  have hmoment : c.momentOf now offset = max (c.elapsedNs now + offset) c.applied := rfl
  rw [Channel.bbmAt, hchanges, hnew, intervalAt, hmoment, Channel.bbmAt]
  split
  · rfl
  · rfl

end

/-- Two drives with the same values and delays, whose intervals agree where a turn-on of the high switch is decided. -/
theorem Channel.highOn_congr {c e : Channel} (hb : c.behaviour = .pwmC) (he : e.behaviour = .pwmC) {t : Nat} (hw : e.highWait = c.highWait)
    (hP : e.periodNs = c.periodNs) (hon : e.onNs = c.onNs)
    (hk : ∀ u, u ≤ t / c.periodNs * c.periodNs → e.bbmAt u = c.bbmAt u) : e.highOn t = c.highOn t := by
  have hbefore : e.lowBefore (t / c.periodNs) = true ↔ c.lowBefore (t / c.periodNs) = true := by
    cases hq : t / c.periodNs with
    | zero => rfl
    | succ k =>
      rw [hq] at hk
      rw [Channel.lowBefore_pwmC hb, Channel.lowBefore_pwmC he, hP, hon]
      refine and_congr_right fun hlt => ?_
      have hmul : (k + 1) * c.periodNs = k * c.periodNs + c.periodNs := Nat.succ_mul ..
      rw [hk (k * c.periodNs) (by omega), hk (k * c.periodNs + c.onNs) (by omega)]
  rw [Bool.eq_iff_iff, Channel.highOn_pwmC hb, Channel.highOn_pwmC he, hP, hon, hw, hbefore, hk _ (Nat.le_refl _)]

theorem Channel.lowStart_pwmC {c : Channel} (hb : c.behaviour = .pwmC) :
    c.lowStart = c.applied + (c.bbmAt (max c.onNs c.applied) - c.highAge) := by
  rw [Channel.lowStart, hb]

/-- Two drives with the same values and delays, whose intervals agree up to the end of the present on-time. -/
theorem Channel.lowOn_congr {c e : Channel} (hb : c.behaviour = .pwmC) (he : e.behaviour = .pwmC) {t m : Nat} (ha : e.applied = c.applied)
    (hage : e.highAge = c.highAge) (hP : e.periodNs = c.periodNs) (hon : e.onNs = c.onNs) (hm : c.applied ≤ m)
    (hend : c.onNs ≤ t % c.periodNs → t / c.periodNs * c.periodNs + c.onNs ≤ m) (hk : ∀ u, u ≤ m → e.bbmAt u = c.bbmAt u) :
    e.lowOn t = c.lowOn t := by
  rw [Bool.eq_iff_iff, Channel.lowOn_pwmC hb, Channel.lowOn_pwmC he, hP, hon]
  by_cases hr : c.onNs ≤ t % c.periodNs
  · have hkm := hend hr
    rw [Channel.lowStart_pwmC hb, Channel.lowStart_pwmC he, ha, hage, hon, hk (max c.onNs c.applied) (by omega),
      hk (t / c.periodNs * c.periodNs) (by omega), hk (t / c.periodNs * c.periodNs + c.onNs) hkm]
  · simp only [hr, false_and, and_false]

section
variable (c : Channel) (now : Tick) (threshold bbm offset : Nat)

/-- An interval governs no drive but PWM_C. -/
theorem Channel.takeLimits_other (hb : c.behaviour ≠ .pwmC) (u : Nat) :
    (c.takeLimits now threshold bbm offset).highOn u = c.highOn u ∧ (c.takeLimits now threshold bbm offset).lowOn u = c.lowOn u := by
  have he := c.takeLimits_behaviour now threshold bbm offset
  have hwait : (c.takeLimits now threshold bbm offset).highWait = c.highWait ∧ (c.takeLimits now threshold bbm offset).lowWait = c.lowWait ∧
      (c.takeLimits now threshold bbm offset).periodNs = c.periodNs ∧ (c.takeLimits now threshold bbm offset).onNs = c.onNs :=
    ⟨rfl, rfl, rfl, rfl⟩
  obtain ⟨hh, hl, hP, hon⟩ := hwait
  generalize c.takeLimits now threshold bbm offset = e at *
  constructor
  · cases hc : c.behaviour with
    | pwmC => exact absurd hc hb
    | high => rw [Bool.eq_iff_iff, Channel.highOn_high hc, Channel.highOn_high (he.trans hc), hh]
    | pwmH => rw [Bool.eq_iff_iff, Channel.highOn_pwmH hc, Channel.highOn_pwmH (he.trans hc), hh, hP, hon]
    | _ => rw [Channel.highOn_other, Channel.highOn_other] <;> simp [he, hc]
  · cases hc : c.behaviour with
    | pwmC => exact absurd hc hb
    | low => rw [Bool.eq_iff_iff, Channel.lowOn_low hc, Channel.lowOn_low (he.trans hc), hl]
    | pwmL => rw [Bool.eq_iff_iff, Channel.lowOn_pwmL hc, Channel.lowOn_pwmL (he.trans hc), hl, hP, hon]
    | _ => rw [Channel.lowOn_other, Channel.lowOn_other] <;> simp [he, hc]

/-- A new interval changes nothing of what the switches do up to its moment, nor up to the next edge of that period. -/
theorem Channel.takeLimits_past (u : Nat) (hu : u ≤ max (c.elapsedNs now + offset) c.applied ∨
      (u / c.periodNs = max (c.elapsedNs now + offset) c.applied / c.periodNs ∧
        (u % c.periodNs < c.onNs ∨ c.onNs ≤ max (c.elapsedNs now + offset) c.applied % c.periodNs))) :
    (c.takeLimits now threshold bbm offset).highOn u = c.highOn u ∧ (c.takeLimits now threshold bbm offset).lowOn u = c.lowOn u := by
  by_cases hb : c.behaviour = .pwmC
  swap
  · exact c.takeLimits_other now threshold bbm offset hb u
  have hbbm := c.takeLimits_bbmAt now threshold bbm offset (Channel.behaviour_pwmC_iff.mp hb).1
  have hm : c.applied ≤ max (c.elapsedNs now + offset) c.applied := Nat.le_max_right ..
  generalize max (c.elapsedNs now + offset) c.applied = m at *
  have hsame (v : Nat) (hv : v ≤ m) : (c.takeLimits now threshold bbm offset).bbmAt v = c.bbmAt v := by
    rw [hbbm, if_neg (Nat.not_lt.mpr hv)]
  have hudiv : u / c.periodNs * c.periodNs + u % c.periodNs = u := Nat.div_add_mod' ..
  have hmdiv : m / c.periodNs * c.periodNs + m % c.periodNs = m := Nat.div_add_mod' ..
  have hstart : u / c.periodNs * c.periodNs ≤ m := by
    rcases hu with hu | ⟨hp, -⟩
    · omega
    · rw [hp]
      omega
  have hwait : (c.takeLimits now threshold bbm offset).highWait = c.highWait ∧ (c.takeLimits now threshold bbm offset).applied = c.applied ∧
      (c.takeLimits now threshold bbm offset).highAge = c.highAge ∧
      (c.takeLimits now threshold bbm offset).periodNs = c.periodNs ∧ (c.takeLimits now threshold bbm offset).onNs = c.onNs :=
    ⟨rfl, rfl, rfl, rfl, rfl⟩
  have hbe := (c.takeLimits_behaviour now threshold bbm offset).trans hb
  generalize c.takeLimits now threshold bbm offset = e at *
  obtain ⟨hh, hap, hage, hP, hon⟩ := hwait
  refine ⟨Channel.highOn_congr hb hbe hh hP hon fun v hv => hsame v (by omega), Channel.lowOn_congr hb hbe hap hage hP hon hm (fun hr => ?_) hsame⟩
  rcases hu with hu | ⟨hp, hor⟩
  · omega
  · have := hor.resolve_left (by omega)
    rw [hp]
    omega

end

section
variable {e : Channel} {b b' m t : Nat} (hb : e.behaviour = .pwmC) (hbbm : ∀ u, e.bbmAt u = if m < u then b' else b)
include hb hbbm

/-- A new interval during the first on-time, which is not longer than the earlier one, governs the low switch's first turn-on. -/
theorem Channel.lowOn_firstPeriod (hm : m < e.onNs) (hon : e.onNs ≤ b) (ht : t < e.periodNs) :
    e.lowOn t = true ↔ e.onNs ≤ t ∧ e.applied + (b' - e.highAge) ≤ t := by
  have hstart : e.lowStart = e.applied + (b' - e.highAge) := by
    rw [Channel.lowStart_pwmC hb, hbbm, if_pos (by omega)]
  rw [Channel.lowOn_pwmC hb, Nat.div_eq_of_lt ht, Nat.mod_eq_of_lt ht, hstart, Nat.zero_mul, hbbm 0, if_neg (Nat.not_lt_zero m)]
  omega

/-- A new interval governs the periods that begin a period or more after it. -/
theorem Channel.switches_laterPeriod (hd : e.duty < 1000) (hp : 0 < e.period) (hb8 : b' ≤ e.periodNs) (hwait : e.highWait ≤ e.periodNs)
    (hlow : e.applied + (b - e.highAge) ≤ e.periodNs) (ht : m + e.periodNs < t / e.periodNs * e.periodNs) :
    (e.highOn t = true ↔ HighConducts .pwmC e.duty e.period b' t) ∧ (e.lowOn t = true ↔ LowConducts .pwmC e.duty e.period b' t) := by
  have hle : t / e.periodNs * e.periodNs ≤ t := Nat.div_mul_le_self ..
  have hnew {u : Nat} (hu : m < u) : e.bbmAt u = b' := by rw [hbbm, if_pos hu]
  have hk : 2 ≤ t / e.periodNs := by
    by_contra hlt
    have : t / e.periodNs * e.periodNs ≤ 1 * e.periodNs := Nat.mul_le_mul_right _ (by omega)
    omega
  have htwo : 2 * e.periodNs ≤ t / e.periodNs * e.periodNs := Nat.mul_le_mul_right _ hk
  have hon : e.onNs < e.periodNs := onNs_lt hd hp
  have hstart : e.lowStart ≤ t := by
    rw [Channel.lowStart_pwmC hb, hbbm]
    split
    · omega
    · omega
  rw [Channel.highOn_iff_conducts_pwmC hb hd hp (hnew (by omega)) fun k hq => ?_, Channel.lowOn_iff_conducts_pwmC hb hp (hnew (by omega)) (hnew (by omega))]
  · exact ⟨and_iff_right (by omega), and_iff_right hstart⟩
  · have hmul : (k + 1) * e.periodNs = k * e.periodNs + e.periodNs := Nat.succ_mul ..
    rw [hq] at ht
    exact ⟨hnew (by omega), hnew (by omega)⟩

end

/-- Settles O60: the switches by the behaviour of the drive, the delays by the ages of the switches, and a new interval by the moments
at which the turn-ons are decided. -/
theorem switchesBreakBeforeMake : Obligations.SwitchesBreakBeforeMake := by
  refine ⟨Channel.not_both, fun c now code duty period offset t hok => ?_, fun c now code duty period offset hbbm hok => ?_,
    fun c now code duty period offset u t hu => ⟨fun hl hh => ?_, fun hh hl => ?_⟩, fun c now threshold bbm offset u => ?_,
    fun c start now duty period threshold bbm offset t hcb hbb h0 h1 hp hp2 => ⟨fun hm hon ht => ?_, fun hw ht => ?_⟩⟩
  · exact Channel.switches_conduct rfl hok (Channel.driveTo_lowStart ..) t
  · intro d m from_ hm
    obtain ⟨-, hbbm⟩ := hbbm
    have hns : c.bbmNs ≤ 8000 := by
      unfold Channel.bbmNs
      omega
    have hhigh : d.highWait = from_ + (c.bbmNs - c.lowAgeAt m) := Channel.driveTo_highWait ..
    have hlow : d.lowWait = from_ + (c.bbmNs - c.highAgeAt m) := Channel.driveTo_lowWait ..
    refine ⟨?_, ?_⟩
    · by_cases ha : c.lowAgeAt m < c.bbmNs
      · obtain ⟨ham, hon⟩ := Channel.lowOn_of_age hok hm (by omega)
        refine .inr ⟨by omega, by omega, ?_⟩
        rwa [show m + (d.highWait - from_) - c.bbmNs - 1 = m - c.lowAgeAt m - 1 by omega]
      · exact .inl (by omega)
    · by_cases ha : c.highAgeAt m < c.bbmNs
      · obtain ⟨ham, hon⟩ := Channel.highOn_of_age hok hm (by omega)
        refine .inr ⟨by omega, by omega, ?_⟩
        rwa [show m + (d.lowWait - from_) - c.bbmNs - 1 = m - c.highAgeAt m - 1 by omega]
      · exact .inl (by omega)
  · have hwait := Channel.highWait_le hh
    have hage := Channel.lowAgeAt_le hl hu
    rw [Channel.driveTo_highWait] at hwait
    omega
  · have hwait := Channel.lowStart_le hl
    have hage := Channel.highAgeAt_le hh hu
    rw [Channel.driveTo_lowStart, Channel.driveTo_lowWait] at hwait
    omega
  · exact c.takeLimits_past now threshold bbm offset u
  · have hbe : ((c.driveTo start .pwmC duty period).takeLimits now threshold bbm offset).behaviour = .pwmC :=
      Channel.behaviour_pwmC_iff.mpr ⟨rfl, Nat.ne_of_gt h0, Nat.ne_of_lt h1⟩
    rw [Nat.mul_comm 500]
    exact Channel.lowOn_firstPeriod hbe ((c.driveTo start .pwmC duty period).takeLimits_bbmAt now threshold bbm offset rfl) hm hon
      (ht.trans_eq (Nat.mul_comm ..))
  · have hbe : ((c.driveTo start .pwmC duty period).takeLimits now threshold bbm offset).behaviour = .pwmC :=
      Channel.behaviour_pwmC_iff.mpr ⟨rfl, Nat.ne_of_gt h0, Nat.ne_of_lt h1⟩
    rw [Nat.mul_comm 500]
    rw [Nat.mul_comm 1000] at hw ht
    obtain ⟨-, hbb⟩ := hbb
    exact Channel.switches_laterPeriod hbe ((c.driveTo start .pwmC duty period).takeLimits_bbmAt now threshold bbm offset rfl) h1
      (Nat.lt_of_lt_of_le (by decide) hp) (Nat.le_trans (by omega : bbm * 500 ≤ 20 * 1000) (Nat.mul_le_mul_right 1000 hp))
      ((Nat.le_max_left ..).trans hw) ((Nat.le_max_right ..).trans hw) ht

end Sys2Proof.Machine
end
